-- ==== Sys2Proof/Word.lean ====
section
/-!
DEFINITION. The word types of the device: bytes, the 32-bit registers of R10, the 64-bit scalar
registers of the Ostler, and the 128-bit instruction word of R76.
-/
namespace Sys2Proof

/-- One byte of memory or of a flit. -/
abbrev Byte := BitVec 8
/-- A 16-bit value: a status code (R14), a TAG, a monitor sample. -/
abbrev W16 := BitVec 16
/-- A 32-bit register (R10). -/
abbrev W32 := BitVec 32
/-- A 64-bit scalar (R113), step value (R18) or sequence number (R387). -/
abbrev W64 := BitVec 64
/-- A 128-bit native instruction word (R76). -/
abbrev W128 := BitVec 128

end Sys2Proof
end

