-- ==== Sys2Proof/Syntax.lean ====
section
/-!
DEFINITION. The commands of the device: one constructor of `Instr` for each row of
spec/opcode_table.json, and the plain data that commands carry. Everything that the device does not
decide itself (a message that arrives, a sample that is measured, a timer that expires, a choice
that R33 calls uncovered) is an operand.
-/
namespace Sys2Proof

/-- The four instruction queues of a core (R41). -/
inductive Q where
  | F | B | W | X
deriving DecidableEq, Repr

/-- The two Ostler contexts (R42). -/
inductive Ctx where
  | primary | filler
deriving DecidableEq, Repr

/-- Who writes a register: the host over PCIe, or boot code (R428). -/
inductive Writer where
  | host | boot
deriving DecidableEq, Repr

/-- What an access of the host over PCIe reads or writes (R451): a 32-bit word of one of the two register BARs or of the
configuration space; or anything else in a BAR, of another width. -/
inductive Bar where
  | bar0 | bar2 | cfg | other
deriving DecidableEq, Repr

/-- A flit: a 16-byte header and one 256-byte grain (R300). -/
structure Flit where
  hdr : W128
  payload : List Byte
deriving DecidableEq, Repr

/-- A link block as received: 16 flits, a 16-byte tail (R301), and whether the RS(544,514)
decoder corrected every codeword of it (R299, R303). -/
structure Block where
  flits : List Flit
  tail : W128
  fecOk : Bool
deriving DecidableEq, Repr

/-- The actions that may join a hitch (R286), with the object fields of R454. -/
inductive Action where
  | regWrite (off value mask : W32)
  | routeEdit (port : W16) (entry : Nat) (value : W32)
  | laneAdd (port : Fin 24) (lane : Fin 8)
  | laneRemove (port : Fin 24) (lane : Fin 8)
  | retune (cage : Fin 12) (ring : Fin 27) (pos : Byte) (weight : BitVec 13)
  | streamStart (off : W32) (bit : Fin 32)
  | cut (shadow storage : Bool)
  | stepCommit
deriving DecidableEq, Repr

/-- A hitch template of the program image (R292). -/
structure Template where
  trigger : W32
  ranks : List Nat
  limit : Nat
  actions : List (Nat × Action)
deriving DecidableEq, Repr

/-- The paddock shape (R29): the sizes of the five cuts, the position of each rank in each cut
(one list of five positions for each rank), and the numerics mode. -/
structure Shape where
  cuts : List Nat
  assign : List (List Nat)
  heritage : Bool
deriving DecidableEq, Repr

/-- A tensor of a tile operation: the binding of its descriptor, and by how many blocks the data of one micro-batch
follows that of the one before. -/
structure TileSide where
  bind : Nat
  step : Nat
deriving DecidableEq, Repr

/-- What a receiver of a gathered tensor waits on (R369): the bindings of the Manger range in which the scale block
lands and of the count that arrivals raise, and the arrivals of one step. -/
structure Received where
  block : Nat
  count : Nat
  arrivals : Nat
deriving DecidableEq, Repr

/-- A portable tile operation (R35): C[i, j] over A[i, k] and B[k, j] for all k, with its dimensions,
its mode as R101 codes it, its formats as R86 codes them, the power-of-two output scales of its rows and
columns (empty: none), whether its accumulation class is ordered, and the K-chunks that the image lists,
each with its first depth and its length. Its INT8 operands may have a zero point for each row of A and each column
of B (R189; empty: none). It is work of a queue of one core; `a`, `b` and `c` are its tensors, whose copies raise the
count that the binding `done` gives; a gathered B brings the column scales with it. A gate sends each row's token to
the experts of its `topk` greatest columns (R373; 0: no gate). -/
structure TileOp where
  m : Nat
  n : Nat
  k : Nat
  mode : BitVec 3
  fmta : BitVec 3
  fmtb : BitVec 3
  fmtc : BitVec 3
  rowScale : List Byte
  colScale : List Byte
  ordered : Bool
  chunks : List (Nat × Nat)
  rowZero : List Byte
  colZero : List Byte
  core : Fin 32
  queue : Q
  a : TileSide
  b : TileSide
  c : TileSide
  done : Nat
  gathered : Option Received
  topk : Nat
deriving DecidableEq, Repr

/-- A symbolic capacity that an image binds (R38, R120): a Manger operand of a tile's depth (R103), one
that a tile drains into, or one of some bytes; a descriptor, a region lock, a sync counter or a
completion count; bytes of a Loft or of a stack. -/
inductive Bind where
  | depth (core : Fin 32) (k : Nat)
  | drain (core : Fin 32) (fmt : Fin 8)
  | manger (core : Fin 32) (bytes : Nat)
  | descriptor (core : Fin 32)
  | groomDescriptor (k : Fin 8)
  | lock (core : Fin 32)
  | counter (core : Fin 32)
  | count (core : Fin 32)
  | groomCount (k : Fin 8)
  | loft (die : Fin 8) (bytes : Nat)
  | hbm (stack : Fin 8) (bytes : Nat)
deriving DecidableEq, Repr

/-- A gather that a shard holder issues (R369): the core that issues it; the bindings of the shard's completion count,
of the shard's own descriptor and of the descriptor that holds its delayed scale; the first block and the blocks of the
shard; the format of the shard and the narrow one; the multicast group; and the remote descriptor and first block that
take the scale block and the shard. -/
structure Gather where
  core : Fin 32
  count : Nat
  wide : Nat
  narrow : Nat
  first : Nat
  blocks : Nat
  fin : BitVec 3
  fmt : BitVec 3
  group : BitVec 13
  scaleTo : BitVec 12 × BitVec 11
  shardTo : BitVec 12 × BitVec 11
deriving DecidableEq, Repr

/-- The pipeline stage of an image (R378): stage `s` of `p`, the micro-batch count, and which of the two schedules. -/
structure Stage where
  s : Nat
  p : Nat
  m : Nat
  alternating : Bool
deriving DecidableEq, Repr

/-- A place in which the image names a binding (R120): a word of an installed register or of installed memory, the field
of it, and the bits of the bound value that stand there: the value shifted down, and then a number added. -/
structure Reloc where
  bind : Nat
  mem : Bool
  place : Nat
  lo : Nat
  width : Nat
  drop : Nat
  plus : Nat
deriving DecidableEq, Repr

/-- A signed image (R422): its 512-byte header, its body, and the public key that travels with it. -/
structure SignedImage where
  header : List Byte
  body : List Byte
  key : List Byte
deriving DecidableEq, Repr

/-- A program image as the loader reads it. The spec gives the header (R422) and what the body
declares, not the body's own format, so what the body declares stands beside its bytes. `installs` and
`bytes` are what a native image installs, and what lowering hands on unchanged of a portable one: rank
orders, formats and the keys of draws (R36), in which `relocs` put what the loader binds (R120). `tiles` are the tile
operations of a portable image, `gathers` the gathers it issues, `stage` its pipeline stage (none: the image declares no
schedule), and `depth` the deepest exact-class output tile of a native one (R174). -/
structure ProgramImage where
  signed : SignedImage
  portable : Bool
  contract : Nat
  shape : Shape
  cursor : W64
  batch : List W64
  split : Bool
  seed : Option (BitVec 128)
  binds : List Bind
  tiles : List TileOp
  depth : Nat
  installs : List (Nat × W32)
  bytes : List (Nat × Byte)
  templates : List Template
  stage : Option Stage
  gathers : List Gather
  relocs : List Reloc
deriving DecidableEq, Repr

/-- A restart record, which the host's RESTART names (R454). -/
structure RestartRecord where
  step : W64
  seed : BitVec 128
  epoch : W32
  flags : W32
  ranks : List W32
  streams : List (W64 × W32)
deriving DecidableEq, Repr

/-- What a restart finds out inside the paddock, none of it through the host attachment (R3): the manifest that
the coordinator reads for each rank, or none where no complete copy exists (R404, R405 step 7), the rows and
stalls of this device that the known-answer tiles find failing, numbered 8 times the core plus the stall (R393,
R405 step 5), and the image that a device which changes rank loads, where it does not hold it (R405 step 6). -/
structure RestartSeen where
  manifests : List (Option (List Byte))
  rows : List (Fin 256)
  stalls : List (Fin 256)
  image : Option ProgramImage
deriving DecidableEq, Repr

/-- What RESTART reads: the record that the host names (R454), and what the paddock has shown. -/
structure RestartRead where
  record : RestartRecord
  seen : RestartSeen
deriving DecidableEq, Repr

/-- A cage-to-Amiham control frame (R334): sequence, the 44 monitor samples, the status word, which holds
the bypass state and the cage temperature, and the CRC-32C. -/
structure OclFrame where
  seq : W16
  samples : List W16
  status : W16
  crc : W32
deriving DecidableEq, Repr

/-- A cage's commissioning record (R333): its bytes with their CRC-32C, and what they hold: the serial
number, each laser's reading, each ring's thermal coefficient and its tuning per heater code in MHz, and the
crosstalk matrix. -/
structure StoterRecord where
  bytes : List Byte
  crc : W32
  serial : Nat
  lasers : List W16
  coef : List W16
  tune : List W16
  cross : List (List W16)
deriving DecidableEq, Repr

/-- The outcome of one tone check (R337): the amplitudes of the nine position tones, the channel's
full scale, and the identity word of a frame decoded since the last check. -/
structure ToneReading where
  amps : List Nat
  fullScale : Nat
  frame : Option W32
deriving DecidableEq, Repr

/-- One ring's search (R341): the points of the coarse sweep and, for each candidate in ascending code, the
points of its fine sweep and the tone check at the code found. -/
structure RingSweep where
  coarse : List W16
  fine : List (List W16 × ToneReading)
deriving DecidableEq, Repr

/-- A lock that a ring retune has confirmed (R352): cage, ring, heater code and tone check. -/
structure RingLock where
  cage : Fin 12
  ring : Fin 27
  code : BitVec 14
  tone : ToneReading
deriving DecidableEq, Repr

/-- What a preparation has found (R327, R352): the retunes that locked, and the added lanes that trained. -/
structure Preparation where
  locks : List RingLock
  trained : List (Fin 24 × Fin 8)
deriving DecidableEq, Repr

/-- Where a ring locked: heater code and tone check. -/
structure LockFound where
  code : BitVec 14
  tone : ToneReading
deriving DecidableEq, Repr

/-- Errors of a lane over a window (R306, R328): in bits, and in symbols of its codewords. -/
structure LaneErrors where
  bits : Nat
  symbols : Nat
deriving DecidableEq, Repr

/-- What comes over a cage's control link (R334, R342): a frame, the commissioning record where the
Yardmaster has read it by now, and with the record the state of the spare that the cage reports, coded as
CAGE_STAT.SPARE, with its position (R357). -/
structure OclSeen where
  frame : OclFrame
  record : Option StoterRecord
  spare : Option (Fin 4 × Fin 8)
deriving DecidableEq, Repr

/-- What an upset leaves of a sector or word (R221, R238): an error that a stack's on-die ECC corrects, one
that a read corrects, or one that no read can correct. -/
inductive EccFind where
  | clean | corrected | uncorrectable
deriving DecidableEq, Repr

/-- A place of memory: a 32-byte sector of a stack, a 64-bit word of a Loft, or one of a Manger. -/
inductive MemPlace where
  | hbm (stack : Fin 8) (sector : Nat)
  | loft (die : Fin 8) (word : Nat)
  | manger (core : Fin 32) (word : Nat)
deriving DecidableEq, Repr

/-- Bits of memory that have flipped: where, and what the codes make of it. -/
structure Upset where
  place : MemPlace
  find : EccFind
deriving DecidableEq, Repr

/-- What the patrol scrubber reads (R239): a 32-byte sector of a stack, or a word of a Loft. -/
inductive ScrubTarget where
  | hbm (stack : Fin 8) (sector : Nat)
  | loft (die : Fin 8) (word : Nat)
deriving DecidableEq, Repr

/-- Which wait of a Groom its watchdog timed (R268). -/
inductive GroomWait where
  | gwait | exchange
deriving DecidableEq, Repr

/-- Groups whose ready reports gate the release order (R419). -/
inductive Group where
  | hbmDies | computeDies
deriving DecidableEq, Repr

/-- A group's ready report (R393, R419): the rows and stalls that its self-test finds failing, numbered 8 times
the core plus the stall. -/
structure GroupReport where
  group : Group
  rows : List (Fin 256)
  stalls : List (Fin 256)
deriving DecidableEq, Repr

/-- How the Farrier's lane repair ends (R392). -/
inductive RepairResult where
  | retrained | spareSwitched | channel
deriving DecidableEq, Repr

/-- The straps as the board ties them (R416). -/
structure Straps where
  bootSrc : BitVec 2
  clkMode : BitVec 2
  tackSel : BitVec 2
  feedId : BitVec 3
  twinSide : BitVec 1
  slotId : BitVec 6
deriving DecidableEq, Repr

/-- What causes a thermal trip (R410, R412). -/
inductive TripCause where
  | die (d : Fin 8) (temp : Nat)
deriving DecidableEq, Repr

/-- The commands. `space` names a sequence space (R320, R322): 0 data, 1 control, `2 + g` the flits of
group `g`. One constructor for each row of spec/opcode_table.json, in the table's order. -/
inductive Instr where
  | load (tag : W16) (img : ProgramImage)
  | stepCommit
  | enq (c : Fin 32) (x : Ctx)
  | enqComplete (c : Fin 32) (x : Ctx)
  | li (c : Fin 32) (x : Ctx)
  | alu (c : Fin 32) (x : Ctx)
  | br (c : Fin 32) (x : Ctx)
  | loop (c : Fin 32) (x : Ctx)
  | sumrd (c : Fin 32) (x : Ctx)
  | sld (c : Fin 32) (x : Ctx)
  | sst (c : Fin 32) (x : Ctx)
  | dget (c : Fin 32) (x : Ctx)
  | dset (c : Fin 32) (x : Ctx)
  | bar (c : Fin 32) (x : Ctx)
  | barRealign (c : Fin 32)
  | stop (c : Fin 32) (x : Ctx)
  | sync (c : Fin 32) (q : Q) (i : Fin 16)
  | cwait (c : Fin 32) (q : Q) (i : Fin 16)
  | creset (c : Fin 32) (q : Q) (i : Fin 16)
  | carm (c : Fin 32) (q : Q) (i : Fin 16)
  | copy (c : Fin 32) (q : Q) (i : Fin 16)
  | copyComplete (c : Fin 32) (barrow : Fin 4) (i : Nat)
  | tmul (c : Fin 32) (q : Q) (i : Fin 16)
  | tmulEdgeDone (c : Fin 32) (stall : Fin 8)
  | tmulDrain (c : Fin 32) (stall : Fin 8)
  | trg (c : Fin 32) (q : Q) (i : Fin 16)
  | troughChainStart (c : Fin 32)
  | troughChainComplete (c : Fin 32) (k : Nat)
  | rflush (c : Fin 32) (q : Q) (i : Fin 16)
  | rflushEffect (c : Fin 32) (q : Q)
  | streamHang (c : Fin 32)
  | flushF (c : Fin 32)
  | flushB (c : Fin 32)
  | flushW (c : Fin 32)
  | flushX (c : Fin 32)
  | flushDone (c : Fin 32) (q : Q)
  | coreRun (c : Fin 32) (v : Bool)
  | ostlerRunP (c : Fin 32) (v : Bool)
  | ostlerRunX (c : Fin 32) (v : Bool)
  | ostlerContextStopped (c : Fin 32) (x : Ctx)
  | lockPeakClr (c : Fin 32)
  | convStatClear (c : Fin 32)
  | syncArm (c : Fin 32) (counter : Fin 256) (value : BitVec 12) (all : Bool)
  | deviceEpochClose
  | barrierJoinMsg (rank : Nat) (req : Bool) (interval : Nat)
  | barrierCloseMsg (shadow storage : Bool)
  | hitchOpen (tag : W16) (ranks : List Nat) (limit : Nat)
  | hitchStage (tag hitch : W16) (rank : Nat) (action : Action)
  | hitchCommit (tag hitch : W16)
  | hitchAbort (tag hitch : W16)
  | hitchQuery (tag hitch : W16)
  | hitchPrepare (hitch : W16) (coord limit : Nat) (actions : List (Nat × Action))
  | hitchPrepared (hitch : W16) (found : Preparation)
  | hitchVote (hitch : W16) (rank : Nat) (cause : Fin 8)
  | hitchPrepareTimeout (hitch : W16)
  | hitchCommitted (hitch : W16)
  | hitchAborted (hitch : W16)
  | hitchUndoDone (hitch : W16)
  | hitchAck (hitch : W16) (rank : Nat)
  | hitchRelease (hitch : W16)
  | hitchDecisionTimeout (hitch : W16)
  | gwait (k : Fin 8)
  | gskip (k : Fin 8)
  | gopMom1 (k : Fin 8)
  | gopMom2 (k : Fin 8)
  | gopApply (k : Fin 8)
  | gopDecay (k : Fin 8)
  | gopSgd (k : Fin 8)
  | gopReanchor (k : Fin 8)
  | gopCast (k : Fin 8)
  | gopDone (k : Fin 8)
  | groomPartialMsg (holder : Fin 8) (block : Nat)
  | groomVerdictMsg (k : Fin 8) (block : Nat)
  | reanchorAgree
  | gsignal (k : Fin 8)
  | gend (k : Fin 8)
  | groomRun (k : Fin 8) (v : Bool)
  | groomStopped (k : Fin 8)
  | groomZeroCounts (k : Fin 8)
  | groomHang (k : Fin 8) (w : GroomWait)
  | loftPartitionChange (d : Fin 8) (v : BitVec 5)
  | loftPartitionDone (d : Fin 8)
  | loftFlush (d : Fin 8)
  | loftFlushDone (d : Fin 8)
  | hbmModeWrite (k : Fin 8) (mode : BitVec 2)
  | patrolScrub (t : ScrubTarget) (upsets : List Upset)
  | hbmTempSample (k : Fin 8) (temp : Byte)
  | hbmHaltTimeout (k : Fin 8)
  | hbmTempPeakClr (k : Fin 8)
  | hbmTgStart (k : Fin 8)
  | hbmTgStop (k : Fin 8)
  | hbmTgDone (k : Fin 8) (pc : Fin 64)
  | blockReceive (p : Fin 24) (b : Block)
  | linkAckTimeout (p : Fin 24)
  | blockPadTimeout (p : Fin 24)
  | flitReceive (p : Fin 24) (vc : Fin 4)
  | noRouteTimeout (src : Nat)
  | e2eResponse (src space : Nat) (cum : W16) (bitmap : List Nat) (fault : Option (W16 × W16))
  | e2eResendTimeout (dst space : Nat) (seq : W16)
  | deliveryLost (dst space : Nat) (seq : W16)
  | busyRetry (dst space : Nat) (seq : W16)
  | laneShed (p : Fin 24) (lane : Fin 8)
  | laneBerWindow (p : Fin 24) (lane : Fin 8) (errors : LaneErrors) (bits : Nat)
  | laneShedResume (p : Fin 24)
  | portTrain (p : Fin 24)
  | portTrainDone (p : Fin 24) (lanes : Byte) (seen : W32)
  | oclFrameReceive (g : Fin 12) (f : OclSeen)
  | oclFrameSend (g : Fin 12)
  | cageLinkLost (g : Fin 12)
  | ringLoopTick (g : Fin 12)
  | toneCheck (g : Fin 12) (ring : Fin 27) (r : ToneReading)
  | ringSearchDone (g : Fin 12) (ring : Fin 27) (w : RingSweep)
  | cageEnable (g : Fin 12) (v : Bool)
  | cageBringupSearched (g : Fin 12) (rings spare : List RingSweep) (decouple : List (List W16))
  | ringLockAcquire (g : Fin 12) (ring : Fin 27) (code : BitVec 14) (r : ToneReading)
  | laserFadeCheck (g : Fin 12) (laser : Fin 9) (rel : W16)
  | spareLocked (g : Fin 12) (x : LockFound)
  | swapNotice (p : Fin 24) (lane : Fin 8)
  | swapAck (g : Fin 12)
  | swapMaskExpire (p : Fin 24) (lane : Fin 8)
  | cageHoldOpen (g : Fin 12) (v : Bool)
  | bypassFault (g : Fin 12)
  | collEntryValidate (entry : Fin 256) (core : BitVec 5) (desc : BitVec 12)
  | riskTick (decay : List Nat)
  | twinPairing (haddr : BitVec 13) (side : BitVec 1) (feed : BitVec 3)
  | twinHeartbeat
  | twinHeartbeatTimeout
  | farrierLaneRepair (p : Fin 24) (lane : Fin 8) (r : RepairResult)
  | shadowStream
  | shadowAck (slot : Fin 2) (step : W64)
  | storageCkptDone
  | storageReadData (index : Nat) (data : List Byte)
  | storageReadTimeout (tag : BitVec 5)
  | restartReport (rank : Nat) (code : W16)
  | paddockStop (code : W16)
  | restart (tag : W16) (r : RestartRead)
  | powerOnReset
  | vinUndervoltageReset
  | railFault
  | rstInNReset
  | hostReset (key : Byte)
  | watchdogReset
  | thermalTrip (cause : TripCause)
  | twinRecover
  | trimLoadDone (segments : List (List Byte × W32)) (digest : List Byte)
  | rstOutRelease
  | strapLatch (s : Straps)
  | islandRelease (i : Fin 64)
  | bootImageFetched (img : Option SignedImage)
  | clockLost (i : Fin 64)
  | blockReset (kind : BitVec 3) (index : BitVec 5) (w : Writer)
  | blockIdle
  | blockIdleTimeout
  | secSeal
  | sealTimeout
  | mailboxGo
  | attest (tag : W16) (nonce : List Byte) (addr : W64)
  | tackSet (tag : W16) (t : BitVec 2)
  | tackTargetWrite (t : BitVec 2)
  | tackIslandSwitch (i : Fin 64)
  | tackChangeDone
  | powerCapTick (avg1ms avg10us : W16)
  | powerLimitFail
  | dieHot (d : Fin 8) (temp : Byte)
  | dieTempPeakClr (d : Fin 8)
  | pcieReset
  | cmdDoorbell (tail : BitVec 13)
  | cmdAccept (entry : List Byte)
  | registerWrite (bar : Bar) (off : Nat) (value : W32) (w : Writer)
  | copyLastByteRead (c : Fin 32) (barrow : Fin 4)
  | cutStateRead (k : Fin 8)
  | groupReportedReady (g : GroupReport)
  | laneReacquire (p : Fin 24) (lane : Fin 8)
  | heaterCodesTimeout (g : Fin 12)
  | dieHotClear (d : Fin 8) (temp : Byte)
  | thermalTripClear (dies hbms : List Byte)
  | registerRead (bar : Bar) (off : Nat)
deriving DecidableEq, Repr

end Sys2Proof
end

