-- ==== Sys2Proof/Machine/Tab.lean ====
section
/-!
DEFINITION. Sparse tables: every numbered array of the device (registers, counters, descriptors,
memory bytes) is a list of key and value pairs in one canonical form. Keys rise strictly and no entry
equals what an unlisted key reads as, so equal arrays are equal data.
-/
namespace Sys2Proof.Machine

/-- A sparse table from numbers to `α`, relative to a default that unlisted keys read as. -/
abbrev Tab (α : Type) := List (Nat × α)

/-- The value at key `k`; `d` where `k` is not listed. -/
def tabGet {α : Type} (d : α) : Tab α → Nat → α
  | [], _ => d
  | (k', v) :: t, k => if k = k' then v else tabGet d t k

/-- Put a value at its place in the rising order of keys. -/
def tabInsert {α : Type} : Tab α → Nat → α → Tab α
  | [], k, v => [(k, v)]
  | (k', v') :: t, k, v =>
    if k < k' then (k, v) :: (k', v') :: t
    else if k = k' then (k, v) :: t
    else (k', v') :: tabInsert t k v

/-- Write a value; writing the default removes the entry. -/
def tabSet {α : Type} [DecidableEq α] (d : α) (t : Tab α) (k : Nat) (v : α) : Tab α :=
  if v = d then t.filter (fun e => e.1 != k) else tabInsert t k v

/-- Change the value at one key. -/
def tabMod {α : Type} [DecidableEq α] (d : α) (t : Tab α) (k : Nat) (f : α → α) : Tab α :=
  tabSet d t k (f (tabGet d t k))

/-- Write several values, in the order listed. -/
def tabSetMany {α : Type} [DecidableEq α] (d : α) (t : Tab α) (l : List (Nat × α)) : Tab α :=
  l.foldl (fun t e => tabSet d t e.1 e.2) t

/-- The canonical form: keys rise strictly, and no entry holds the default. -/
abbrev tabWf {α : Type} [DecidableEq α] (d : α) (t : Tab α) : Prop :=
  t.Pairwise (fun a b => a.1 < b.1) ∧ ∀ e ∈ t, e.2 ≠ d

/-- A set of numbers, rising, without repeats: insertion. -/
def setAdd : List Nat → Nat → List Nat
  | [], k => [k]
  | k' :: t, k => if k < k' then k :: k' :: t else if k = k' then k' :: t else k' :: setAdd t k

/-- Removal from a set of numbers. -/
def setDel (l : List Nat) (k : Nat) : List Nat := l.filter (fun x => x != k)

/-- Bits `lo` to `lo + w - 1` of a number. -/
def bits (n lo w : Nat) : Nat := (n >>> lo) % 2 ^ w

/-- The number with bits `lo` to `lo + w - 1` replaced by `v`. -/
def putBits (n lo w v : Nat) : Nat :=
  (n >>> (lo + w)) <<< (lo + w) + (v % 2 ^ w) <<< lo + n % 2 ^ lo

/-- The two's complement value of a `w`-bit number. -/
def toSigned (w n : Nat) : Int := if 2 ^ (w - 1) ≤ n % 2 ^ w then (n % 2 ^ w : Int) - 2 ^ w else (n % 2 ^ w : Int)

/-- The `w`-bit two's complement code of an integer. -/
def ofSigned (w : Nat) (i : Int) : Nat := (i % (2 ^ w : Int)).toNat

/-- Little-endian value of a list of bytes. -/
def leNat : List Byte → Nat
  | [] => 0
  | b :: l => b.toNat + 256 * leNat l

/-- The `n` little-endian bytes of a number. -/
def leBytes : Nat → Nat → List Byte
  | 0, _ => []
  | n + 1, v => BitVec.ofNat 8 v :: leBytes n (v / 256)

/-- Ceiling of a quotient. -/
def ceilDiv (a b : Nat) : Nat := (a + b - 1) / b

/-- The bit of a Boolean. -/
def b2n (b : Bool) : Nat := if b then 1 else 0

end Sys2Proof.Machine
end

