-- ==== Sys2Proof/Machine/Digest.lean ====
section
/-!
DEFINITION. The checks and digests the spec names: CRC-32C and the block check of R235, CRC-64
(R301), CRC-8 (R336) and SHAKE256 (R37, R413, R422, R426). SHAKE256 is the function of FIPS 202,
which the spec names without printing (PRESUMED, assumption 6).
-/
namespace Sys2Proof.Machine

/-- One bit step of a reflected 32-bit CRC with the reflected polynomial of 0x1EDC_6F41. -/
def crc32cBit (c : W32) : W32 :=
  if c.getLsbD 0 then (c >>> 1) ^^^ 0x82F63B78#32 else c >>> 1

/-- Eight bit steps. -/
def crc32cByte (c : W32) (b : Byte) : W32 :=
  let c := c ^^^ b.setWidth 32
  crc32cBit (crc32cBit (crc32cBit (crc32cBit (crc32cBit (crc32cBit (crc32cBit (crc32cBit c)))))))

/-- CRC-32C of a list of bytes (R235). -/
def crc32c (l : List Byte) : W32 := (l.foldl crc32cByte 0xFFFFFFFF#32) ^^^ 0xFFFFFFFF#32

/-- The term of grain `j` in the block check (R235). -/
def grainCheck (grain : List Byte) (j : Nat) (metaLo : Nat) : W32 :=
  crc32c (grain ++ leBytes 4 j ++ leBytes 4 metaLo)

/-- block_check of R235 over grains numbered from `j`: the XOR of their terms. -/
def blockCheckFrom : List (List Byte) → Nat → Nat → W32
  | [], _, _ => 0
  | g :: l, j, m => grainCheck g j m ^^^ blockCheckFrom l (j + 1) m

/-- block_check of R235. -/
def blockCheck (grains : List (List Byte)) (metaLo : Nat) : W32 := blockCheckFrom grains 0 metaLo

/-- One bit step of the unreflected CRC-64 of ECMA-182 (R301). -/
def crc64Bit (c : W64) : W64 :=
  if c.getLsbD 63 then (c <<< 1) ^^^ 0x42F0E1EBA9EA3693#64 else c <<< 1

/-- Eight bit steps of CRC-64. -/
def crc64Byte (c : W64) (b : Byte) : W64 :=
  let c := c ^^^ (b.setWidth 64 <<< 56)
  crc64Bit (crc64Bit (crc64Bit (crc64Bit (crc64Bit (crc64Bit (crc64Bit (crc64Bit c)))))))

/-- CRC-64 of a list of bytes (R301). -/
def crc64 (l : List Byte) : W64 :=
  (l.foldl crc64Byte 0xFFFFFFFFFFFFFFFF#64) ^^^ 0xFFFFFFFFFFFFFFFF#64

/-- One bit step of CRC-8 with polynomial 0x07 (R336). -/
def crc8Bit (c : Byte) : Byte := if c.getLsbD 7 then (c <<< 1) ^^^ 0x07#8 else c <<< 1

/-- CRC-8 of a list of bytes, initial value 0 (R336). -/
def crc8 (l : List Byte) : Byte :=
  l.foldl (fun c b => crc8Bit (crc8Bit (crc8Bit (crc8Bit (crc8Bit (crc8Bit (crc8Bit (crc8Bit
    (c ^^^ b))))))))) 0

/-! ### SHAKE256

The sponge's state is one string of 1600 bits, the lane in column `x` of plane `y` at bit `320 y + 64 x`, so
that a block of bytes is absorbed, and the output read, as one little-endian number. -/

/-- A plane of five lanes with each lane rotated left by one bit. -/
def lanesTwist (p : BitVec 320) : BitVec 320 :=
  let tops : BitVec 320 := BitVec.replicate 5 (1#64)
  ((p &&& ~~~(tops <<< 63)) <<< 1) ||| ((p >>> 63) &&& tops)

/-- A plane of the state. -/
def plane (a : BitVec 1600) (y : Nat) : BitVec 320 := a.extractLsb' (320 * y) 320

/-- The mixing of columns: a lane takes the parity of the column before it, and that of the column after it
rotated. -/
def mixColumns (a : BitVec 1600) : BitVec 1600 :=
  let par := plane a 0 ^^^ plane a 1 ^^^ plane a 2 ^^^ plane a 3 ^^^ plane a 4
  a ^^^ BitVec.replicate 5 (par.rotateLeft 64 ^^^ lanesTwist (par.rotateRight 64))

/-- The walk over the 24 lanes that move: the lane at `(x, y)` goes to `(y, 2x + 3y)`, the `t`-th of them turned
by the `t`-th triangular number. -/
def moveLanes (a : BitVec 1600) : Nat → Nat → Nat → Nat → BitVec 1600 → BitVec 1600
  | 0, _, _, _, out => out
  | n + 1, t, x, y, out =>
    let lane : W64 := a.extractLsb' (320 * y + 64 * x) 64
    let y' := (2 * x + 3 * y) % 5
    let turned := lane.rotateLeft ((t + 1) * t / 2 % 64)
    moveLanes a n (t + 1) y y' (out ||| (turned.setWidth 1600 <<< (320 * y' + 64 * y)))

/-- The nonlinear step on a plane: a lane is changed where the next is clear and the one after it is set. -/
def mixPlane (p : BitVec 320) : BitVec 320 := p ^^^ (~~~(p.rotateRight 64) &&& p.rotateRight 128)

/-- A step of the register that the round constants come from. -/
def roundLfsr (r : Nat) : Nat := (2 * r) ^^^ (if 128 ≤ r then 0x171 else 0)

/-- The bits of a round's constant, at places 0, 1, 3, 7, 15, 31 and 63, and the register after them. -/
def roundBits (r : Nat) : Nat × BitVec 1600 :=
  (List.range 7).foldl (fun acc j =>
    (roundLfsr acc.1, if acc.1 % 2 = 1 then acc.2 ||| (1#1600 <<< (2 ^ j - 1)) else acc.2)) (r, 0)

/-- `n` rounds of the permutation. -/
def permute : Nat → Nat → BitVec 1600 → BitVec 1600
  | 0, _, a => a
  | n + 1, r, a =>
    let b := mixColumns a
    let c := moveLanes b 24 1 1 0 ((b.extractLsb' 0 64).setWidth 1600)
    let k := roundBits r
    let planes := (List.range 5).foldl (fun (o : BitVec 1600) y => o ||| ((mixPlane (plane c y)).setWidth 1600 <<< (320 * y))) 0
    permute n k.1 (planes ^^^ k.2)

/-- Absorb `n` whole blocks of 136 bytes and then the last, shorter one with its padding: the suffix 0x1F after
the message and the top bit of the block's last byte. -/
def absorb : Nat → List Byte → BitVec 1600 → BitVec 1600
  | 0, l, a => permute 24 1 (a ^^^ BitVec.ofNat 1600 (leNat l + 0x1F * 256 ^ l.length) ^^^ (1#1600 <<< 1087))
  | n + 1, l, a => absorb n (l.drop 136) (permute 24 1 (a ^^^ BitVec.ofNat 1600 (leNat (l.take 136))))

/-- SHAKE256 of a list of bytes, `n` bytes of output (at most 136). -/
def shake256 (l : List Byte) (n : Nat) : List Byte := (leBytes 136 (absorb (l.length / 136) l 0).toNat).take n

end Sys2Proof.Machine
end

