-- ==== Sys2Proof/Config.lean ====
section
/-!
DEFINITION. What one part or one run fixes and the spec leaves open: free values. None has a body,
so nothing can be proved of the value it takes. Those that vary from one use to the next are applied
to the counter that the state carries for that purpose.
-/
namespace Sys2Proof

/-- A word that the spec does not fix: a cycle count, a wait count, a control-loop reading or any
other value that R33 leaves uncovered (assumption 3). -/
opaque Config.freeWord : Nat → W32

/-- A byte that the spec does not fix (assumption 3). -/
opaque Config.freeByte : Nat → Byte

/-- A natural number that the spec does not fix (assumption 3). -/
opaque Config.freeNat : Nat → Nat

/-- How the two words of a fault-log entry's DETAIL place the numbers a block reports (R388 names
them and gives no layout; assumption 7): the kind of detail and up to two numbers. -/
opaque Config.logDetail : Nat → Nat → Nat → W32

/-- How DETAIL places a refused command and the state that refused it (R16, R388; assumption 7): the kind
of command, its two numbers, and the state. -/
opaque Config.refusedDetail : Nat → Nat → Nat → Nat → W32

/-- GLB_ID.VARIANT, from the fuses (R458). -/
opaque Config.variant : Bool

/-- GLB_SERIAL, from the fuses (R458). -/
opaque Config.serial : BitVec 64

/-- Whether an Ed448 signature over a digest verifies under a key: public key, message, signature
(R422; assumption 6). -/
opaque Config.ed448Verify : List Byte → List Byte → List Byte → Bool

/-- The Ed448 signature that a private key makes over a message: key, message (R427; assumption 6). -/
opaque Config.ed448Sign : List Byte → List Byte → List Byte

/-- The Ed448 public key of a private key (R427; assumption 6). -/
opaque Config.ed448Public : List Byte → List Byte

/-- The 256-bit unique device secret in the fuse array (R427). -/
opaque Config.deviceSecret : BitVec 256

/-- The fused SHAKE256 digest, 256 bits, of the public key of each key slot; none where the operator has not
programmed the slot (R422). -/
opaque Config.keyDigest : Nat → Option (List Byte)

/-- The key slots that the fuses revoke (R422, R437), by slot. -/
opaque Config.slotRevoked : Nat → Bool

/-- The fused counters of kinds 1 to 3 at manufacture (R422, R437). -/
opaque Config.fusedSvn : Nat → Nat

/-- The fused SHAKE256 digest of the trim load (R413). -/
opaque Config.trimDigest : List Byte

/-- A segment of the trim load serves an island: segment, island (R413; the spec gives no table, assumption 105). -/
opaque Config.trimServes : Nat → Nat → Bool

/-- CAGE_CTRL.EN in bit 0 and HOLD_OPEN in bit 1 that a board configuration record gives for a cage (R419; the spec
gives the record's body no layout, assumption 106). -/
opaque Config.boardCage : List Byte → Nat → BitVec 2

/-- The Ouvras vendor identifier (R451 gives no number). -/
opaque Config.pcieVendor : BitVec 16

/-- The schedule that the loader makes of a portable image for a shape (R36, R37: scheduling is the
loader's): register words and bytes beside those of its tile operations (assumption 39). -/
opaque Config.schedule : List Byte → Shape → List (Nat × W32) × List (Nat × Byte)

/-- Over how many chains the loader spreads the depths of an operation that may be spread (R119;
assumption 39). -/
opaque Config.spread : Nat → Nat

/-- The SHAKE256 digest of a paddock shape (R403); the spec gives no byte form of a shape: sizes of the
cuts, assignment, heritage numerics. -/
opaque Config.shapeDigest : List Nat → List (List Nat) → Bool → List Byte

/-- The format of a remote destination as the sender of a copy from its Manger knows it, by hall
address or group, core and descriptor (R300 counts destination blocks; how the sender learns their size
is not given). -/
opaque Config.destFormat : Nat → Nat → Nat → Nat

/-- The HINT of a copy that arrives from another device (R229): no field of a flit carries it (R300), so the
number that the destination sees comes from the surroundings (assumption 46). -/
opaque Config.remoteHint : Nat → Nat

/-- The bypass state that a control frame's status word reports: true is open (R334 names the word's contents
and gives no layout; assumption 92). -/
opaque Config.statusBypass : W16 → Bool

/-- The cage temperature in 1/64 °C that a control frame's status word reports (R334; assumption 92). -/
opaque Config.statusTemp : W16 → W16

/-- The cage that serves the peer of a port, which identity frames name (R337; no register holds it;
assumption 25). -/
opaque Config.peerCage : Nat → Nat

/-- The resonance shift in heater codes that the firmware controller makes of a ring's loop error, a
numerator and a denominator (R338 leaves the controller to the firmware). -/
opaque Config.loopShift : Nat → Int → Nat → Int

/-- The shift in heater codes that a thermal coefficient gives for a change of cage temperature (R339; the
units of the coefficient are not given). -/
opaque Config.thermalShift : Nat → Int → Int

/-- The reading of a receiver channel of a cage at R333's floor of -9.0 dBm (R349; the scale of the monitors is
not given). -/
opaque Config.tapFloor : Nat → Nat → Nat

/-- The row of a stack in which a sector lies, for post-package repair: by stack and sector (R393; the spec gives
no row geometry, assumption 96). -/
opaque Config.hbmRow : Nat → Nat → Nat

/-- How many rows of a stack post-package repair can make good, by manufacture (R230, R391). -/
opaque Config.pprRows : Nat → Nat

/-- The contract versions that the loader supports (R38 names none). -/
opaque Config.contractOk : Nat → Bool

end Sys2Proof
end

