-- ==== Sys2Proof/Machine/Codes.lean ====
section
/-!
DEFINITION. The status codes of R14, by their names, and the failure class of each (R384).
-/
namespace Sys2Proof.Machine

/-- R15 and the status tables of the chapters: one value for each name. -/
abbrev cOK : W16 := 0x0000
abbrev cCONTRACT_VERSION : W16 := 0x0101
abbrev cSHAPE_MISMATCH : W16 := 0x0102
abbrev cCAPACITY_EXCEEDED : W16 := 0x0103
abbrev cSTREAM_HANG : W16 := 0x0201
abbrev cFILLER_TOO_LONG : W16 := 0x0202
abbrev cREGION_ALIAS : W16 := 0x0203
abbrev cMANGER_RANGE : W16 := 0x0204
abbrev cOPCODE_ILLEGAL : W16 := 0x0301
abbrev cFIELD_ILLEGAL : W16 := 0x0302
abbrev cDESC_INVALID : W16 := 0x0303
abbrev cDESC_MISMATCH : W16 := 0x0304
abbrev cDESC_RANGE : W16 := 0x0305
abbrev cRANK_RANGE : W16 := 0x0306
abbrev cHANDLE_RANGE : W16 := 0x0307
abbrev cACC_CHAIN : W16 := 0x0308
abbrev cSUMMARY_EMPTY : W16 := 0x0309
abbrev cCHAIN_DEPTH : W16 := 0x0401
abbrev cSCALE_SKEW : W16 := 0x0601
abbrev cSCALE_BLOCK_BAD : W16 := 0x0602
abbrev cCHAIN_MISMATCH : W16 := 0x0701
abbrev cLATCH_UNSET : W16 := 0x0702
abbrev cTROUGH_FORM : W16 := 0x0703
abbrev cCSUM_FAIL : W16 := 0x0801
abbrev cHBM_UE : W16 := 0x0802
abbrev cSRAM_UE : W16 := 0x0803
abbrev cADDR_WINDOW : W16 := 0x0804
abbrev cGRAD_NONFINITE : W16 := 0x0901
abbrev cCOEF_ILLEGAL : W16 := 0x0902
abbrev cANCHOR_SPLIT : W16 := 0x0903
abbrev cCOLOCATION : W16 := 0x0904
abbrev cSTATE_REFUSED : W16 := 0x0A01
abbrev cCOUNTER_UNDERFLOW : W16 := 0x0A02
abbrev cCOUNTER_OVERFLOW : W16 := 0x0A03
abbrev cABANDONED : W16 := 0x0A04
abbrev cSYNC_DRIFT : W16 := 0x0A05
abbrev cCOUNT_SATURATED : W16 := 0x0A06
abbrev cHITCH_ABORTED : W16 := 0x0A07
abbrev cHITCH_TIMEOUT : W16 := 0x0A08
abbrev cROUTE_MISSING : W16 := 0x0B01
abbrev cDELIVERY_LOST : W16 := 0x0B02
abbrev cPADDOCK_REJECT : W16 := 0x0B03
abbrev cPORT_DOWN : W16 := 0x0B04
abbrev cLANE_SHED : W16 := 0x0B05
abbrev cWIRE_MISMATCH : W16 := 0x0B06
abbrev cPLAN_ILLEGAL : W16 := 0x0B07
abbrev cRING_MISLOCK : W16 := 0x0C01
abbrev cRING_NO_LOCK : W16 := 0x0C02
abbrev cLASER_FADE : W16 := 0x0C03
abbrev cLASER_SWAPPED : W16 := 0x0C04
abbrev cLASER_NO_SPARE : W16 := 0x0C05
abbrev cCAGE_LINK_LOST : W16 := 0x0C06
abbrev cSTOTER_INVALID : W16 := 0x0C07
abbrev cBYPASS_FAULT : W16 := 0x0C08
abbrev cCOLL_MISSING : W16 := 0x0D01
abbrev cCOLL_DOUBLE : W16 := 0x0D02
abbrev cCOLL_ILLEGAL : W16 := 0x0D03
abbrev cRESUME_SKEW : W16 := 0x0E01
abbrev cMANIFEST_BAD : W16 := 0x0E02
abbrev cNO_CONSISTENT_SET : W16 := 0x0E03
abbrev cDEVICE_LOST : W16 := 0x0E04
abbrev cTWIN_LOST : W16 := 0x0E05
abbrev cTWIN_CONFLICT : W16 := 0x0E06
abbrev cCO_FED : W16 := 0x0E07
abbrev cSPARE_EXHAUSTED : W16 := 0x0E08
abbrev cRISK_HIGH : W16 := 0x0E09
abbrev cSHADOW_FAILED : W16 := 0x0E0A
abbrev cCLOCK_LOST : W16 := 0x0F01
abbrev cBOOT_AUTH_FAIL : W16 := 0x0F02
abbrev cBOOT_ROLLBACK : W16 := 0x0F03
abbrev cBOOT_SOURCE_FAIL : W16 := 0x0F04
abbrev cTRIM_FAIL : W16 := 0x0F05
abbrev cSTRAP_ILLEGAL : W16 := 0x0F06
abbrev cRESET_HARD : W16 := 0x0F07
abbrev cSEAL_TIMEOUT : W16 := 0x0F08
abbrev cRING_BAD : W16 := 0x1001
abbrev cCMD_ILLEGAL : W16 := 0x1002
abbrev cPOWER_LIMIT_FAIL : W16 := 0x1003
abbrev cDIE_HOT : W16 := 0x1004
abbrev cRAIL_FAULT : W16 := 0x1005

/-- The four failure classes (R384), coded as CLASS of R388. -/
inductive Class where
  | report | masked | restart | stop
deriving DecidableEq, Repr

/-- CLASS as the log codes it (R388). -/
def Class.code : Class → Nat
  | .report => 0 | .masked => 1 | .restart => 2 | .stop => 3

/-- The class table of R384. STATE_REFUSED and ABANDONED take theirs from what raised them: a host
action gives report, an instruction stop; the caller says which. -/
def classOf (c : W16) : Class :=
  if c ∈ [cLASER_FADE, cLASER_NO_SPARE, cSYNC_DRIFT, cHITCH_ABORTED, cHITCH_TIMEOUT, cSTREAM_HANG,
      cRISK_HIGH, cSHADOW_FAILED, cTWIN_CONFLICT, cCO_FED, cSPARE_EXHAUSTED, cRESET_HARD,
      cSEAL_TIMEOUT, cRING_BAD, cCMD_ILLEGAL, cPOWER_LIMIT_FAIL, cDIE_HOT, cRAIL_FAULT,
      cSTATE_REFUSED, cOK] then .report
  else if c ∈ [cLANE_SHED, cPORT_DOWN, cWIRE_MISMATCH, cRING_MISLOCK, cRING_NO_LOCK, cLASER_SWAPPED,
      cCAGE_LINK_LOST, cBYPASS_FAULT, cSTOTER_INVALID, cPADDOCK_REJECT, cTWIN_LOST] then .masked
  else if c ∈ [cHBM_UE, cSRAM_UE, cCSUM_FAIL, cDELIVERY_LOST, cCLOCK_LOST, cDEVICE_LOST] then .restart
  else .stop

/-- The blocks of the fault log (R388). -/
inductive Blk where
  | global | security | port | cage | hbm | groom | core | stall | trough | die | coll | twin
deriving DecidableEq, Repr

/-- BLOCK as the log codes it (R388). -/
def Blk.code : Blk → Nat
  | .global => 0 | .security => 1 | .port => 2 | .cage => 3 | .hbm => 4 | .groom => 5
  | .core => 6 | .stall => 7 | .trough => 8 | .die => 9 | .coll => 10 | .twin => 11

end Sys2Proof.Machine
end

