-- ==== Sys2Proof/Machine/Isa.lean ====
section
/-!
DEFINITION. The native instruction word of R76 to R117: its fields, its decoding with the static
checks of R80, and an encoder. The fields of a decoded instruction are bit vectors of the widths the
encoding gives them.
-/
namespace Sys2Proof.Machine

/-- The common header below the opcode (R76). -/
structure Hdr where
  wctr : BitVec 8
  wamt : BitVec 4
  sctr : BitVec 8
  samt : BitVec 4
deriving DecidableEq, Repr

/-- COPY (R94). -/
structure CopyF where
  barrow : BitVec 2
  any : BitVec 1
  op : BitVec 3
  hint : BitVec 2
  srck : BitVec 2
  dstk : BitVec 2
  src : BitVec 32
  dst : BitVec 36
  len : BitVec 16
deriving DecidableEq, Repr

/-- TMUL (R101). -/
structure TmulF where
  stall : BitVec 3
  any : BitVec 1
  chain : BitVec 2
  mode : BitVec 3
  fmta : BitVec 3
  fmtb : BitVec 3
  fmtc : BitVec 3
  sout : BitVec 1
  a : BitVec 19
  b : BitVec 19
  c : BitVec 19
  k : BitVec 14
deriving DecidableEq, Repr

/-- TRG (R107). -/
structure TrgF where
  op : BitVec 6
  sa : BitVec 3
  sb : BitVec 3
  d : BitVec 3
  more : BitVec 1
  fin : BitVec 3
  fout : BitVec 3
  red : BitVec 3
  count : BitVec 12
  a : BitVec 19
  barg : BitVec 19
  dst : BitVec 19
deriving DecidableEq, Repr

/-- RFLUSH (R111). -/
structure RflushF where
  sel : BitVec 4
  post : BitVec 1
  clear : BitVec 1
  slot : BitVec 5
deriving DecidableEq, Repr

/-- The control-class layout (R113). -/
structure CtlF where
  rd : BitVec 5
  ra : BitVec 5
  rb : BitVec 5
  sub : BitVec 4
  x : BitVec 21
  imm : BitVec 48
deriving DecidableEq, Repr

/-- GOP (R116). -/
structure GopF where
  op : BitVec 6
  d0 : BitVec 10
  d1 : BitVec 10
  d2 : BitVec 10
  d3 : BitVec 10
  coef : BitVec 8
  first : BitVec 18
  nblk : BitVec 16
deriving DecidableEq, Repr

/-- The class fields of an instruction, by opcode (R78). -/
inductive NI where
  | sync
  | cwait (handle : BitVec 16) (target : BitVec 32)
  | creset (handle : BitVec 16)
  | carm (counter : BitVec 8) (value : BitVec 12)
  | copy (f : CopyF)
  | tmul (f : TmulF)
  | trg (f : TrgF)
  | rflush (f : RflushF)
  | ctl (op : BitVec 4) (f : CtlF)
  | gwait (handle : BitVec 16) (target : BitVec 32)
  | gskip (desc : BitVec 10)
  | gop (f : GopF)
  | gsignal (handle : BitVec 16)
  | gend
deriving DecidableEq, Repr

/-- A decoded instruction. -/
structure Native where
  hdr : Hdr
  body : NI
deriving DecidableEq, Repr

/-- The places of R79. -/
inductive Place where
  | queue | ostler | groom
deriving DecidableEq, Repr

/-- Bits `lo` to `lo + w - 1` of an instruction word. -/
abbrev fld (x : W128) (lo w : Nat) : BitVec w := x.extractLsb' lo w

/-- The opcodes of R78 that R79 allows in a place. -/
def opLegal (p : Place) (op : BitVec 8) : Bool :=
  match p with
  | .queue => decide (op.toNat ∈ [0x01, 0x02, 0x03, 0x04, 0x10, 0x20, 0x30, 0x40])
  | .ostler => decide (0x80 ≤ op.toNat ∧ op.toNat ≤ 0x8B)
  | .groom => decide (0xC0 ≤ op.toNat ∧ op.toNat ≤ 0xC4)

/-- The header of a word. -/
def hdrOf (x : W128) : Hdr := ⟨fld x 112 8, fld x 108 4, fld x 100 8, fld x 96 4⟩

/-- The class fields of a word, with no check: the fields by their positions alone. -/
def bodyOf (x : W128) : NI :=
  match (fld x 120 8).toNat with
  | 0x01 => .sync
  | 0x02 => .cwait (fld x 80 16) (fld x 0 32)
  | 0x03 => .creset (fld x 80 16)
  | 0x04 => .carm (fld x 88 8) (fld x 0 12)
  | 0x10 => .copy ⟨fld x 94 2, fld x 93 1, fld x 90 3, fld x 88 2, fld x 86 2, fld x 84 2, fld x 52 32,
      fld x 16 36, fld x 0 16⟩
  | 0x20 => .tmul ⟨fld x 93 3, fld x 92 1, fld x 90 2, fld x 87 3, fld x 84 3, fld x 81 3, fld x 78 3,
      fld x 77 1, fld x 58 19, fld x 39 19, fld x 20 19, fld x 6 14⟩
  | 0x30 => .trg ⟨fld x 90 6, fld x 87 3, fld x 84 3, fld x 81 3, fld x 80 1, fld x 77 3, fld x 74 3,
      fld x 71 3, fld x 59 12, fld x 38 19, fld x 19 19, fld x 0 19⟩
  | 0x40 => .rflush ⟨fld x 92 4, fld x 91 1, fld x 90 1, fld x 85 5⟩
  | 0xC0 => .gwait (fld x 80 16) (fld x 0 32)
  | 0xC1 => .gskip (fld x 86 10)
  | 0xC2 => .gop ⟨fld x 90 6, fld x 80 10, fld x 70 10, fld x 60 10, fld x 50 10, fld x 42 8, fld x 24 18,
      fld x 8 16⟩
  | 0xC3 => .gsignal (fld x 80 16)
  | 0xC4 => .gend
  | _ => .ctl (fld x 120 4) ⟨fld x 91 5, fld x 86 5, fld x 81 5, fld x 77 4, fld x 56 21, fld x 0 48⟩

/-- Reserved bits of the class fields read zero (R77): the reserved bits of each opcode. -/
def reservedZero (x : W128) : Bool :=
  match (fld x 120 8).toNat with
  | 0x01 => fld x 0 96 = 0
  | 0x02 => fld x 32 48 = 0
  | 0x03 => fld x 0 80 = 0
  | 0x04 => fld x 12 76 = 0
  | 0x20 => fld x 0 6 = 0
  | 0x30 => fld x 57 2 = 0
  | 0x40 => fld x 0 85 = 0
  | 0x10 => true
  | 0xC0 => fld x 32 48 = 0
  | 0xC1 => fld x 0 86 = 0
  | 0xC2 => fld x 0 8 = 0
  | 0xC3 => fld x 0 80 = 0
  | 0xC4 => fld x 0 96 = 0
  | _ => fld x 48 8 = 0

/-- The header rules of R77. -/
def hdrOk (h : Hdr) : Bool :=
  (h.wamt ≠ 0 ∨ h.wctr = 0) ∧ (h.samt ≠ 0 ∨ h.sctr = 0)

/-- The holder of a handle (R88). -/
abbrev handleHolder (h : BitVec 16) : Nat := (h.extractLsb' 12 4).toNat
/-- The index of a handle (R88). -/
abbrev handleIndex (h : BitVec 16) : Nat := (h.extractLsb' 0 12).toNat

/-- A handle names a count, or none (R88). -/
def handleOk (h : BitVec 16) : Bool :=
  let i := handleIndex h
  let k := handleHolder h
  if k = 0 then decide (i < 512)
  else if k ≤ 8 then decide (i < 256)
  else decide (k = 15 ∧ i = 0)

/-- Pairings of operation and destination kind (R97), and the operand forms of R94. -/
def copyOk (f : CopyF) : Bool :=
  let op := f.op.toNat
  let dk := f.dstk.toNat
  let sk := f.srck.toNat
  decide ((f.any = 0 ∨ f.barrow = 0) ∧ op ≤ 5 ∧ f.hint.toNat ≠ 3 ∧ sk ≤ 1 ∧ f.len ≠ 0) &&
  -- R97: pairings
  (match op with
   | 0 => true
   | 1 => decide (dk = 2)
   | 3 => decide (dk = 2)
   | _ => decide (dk ≤ 2)) &&
  -- operand forms of R94
  (if sk = 0 then decide (f.src.toNat < 2 ^ 19) else true) &&
  (if dk = 0 then decide (f.dst.toNat < 2 ^ 19) else if dk = 3 then decide (f.dst.toNat < 2 ^ 4) else true) &&
  -- R97: a copy to stall scale registers
  (if dk = 3 then decide (op = 0 ∧ f.len.toNat = 1 ∧ sk = 0) else true)

/-- Both operand formats are E4M3 or E5M2. -/
abbrev isFp8 (f : BitVec 3) : Bool := decide (f.toNat = 1 ∨ f.toNat = 2)

/-- The combinations of mode and format of R102, and the other static rules of TMUL. -/
def tmulOk (f : TmulF) : Bool :=
  let m := f.mode.toNat
  let fa := f.fmta.toNat
  let fb := f.fmtb.toNat
  let fc := f.fmtc.toNat
  decide (f.k ≠ 0) && decide (f.any = 0 ∨ (f.stall = 0 ∧ f.chain.toNat ≤ 1)) &&
  decide (f.sout = 0 ∨ fc ≠ 7) &&
  (match m with
   | 0 =>
     if fa = 4 ∨ fb = 4 then decide (fa = 4 ∧ fb = 4 ∧ fc = 4 ∧ f.k.toNat % 2 = 0)
     else ((decide (fa = 0 ∧ fb = 0)) || (isFp8 f.fmta && isFp8 f.fmtb) || (decide (fa = 3 ∧ fb = 3))) &&
       decide (fc = 7 ∨ fc = 4 ∨ fc = 1 ∨ fc = 2)
   | 5 => decide (fa = 3 ∧ fb = 3 ∧ (fc = 7 ∨ fc = 4))
   | 7 => false
   | _ => isFp8 f.fmta && isFp8 f.fmtb && decide (fc = 7 ∨ fc = 4))

/-- The operation codes of R107 that take one operand and no other (R108). -/
abbrev trgSingle (op : Nat) : Bool := decide (op ∈ [0x00, 0x06, 0x07, 0x08, 0x09, 0x0A, 0x0B])

/-- The static rules of TRG (R107, R108). CVTR belongs to "every other"; its own rules are R203's. -/
def trgOk (f : TrgF) : Bool :=
  let op := f.op.toNat
  let sa := f.sa.toNat
  let sb := f.sb.toNat
  let d := f.d.toNat
  decide (op ≤ 0x0D ∨ op = 0x10 ∨ op = 0x11 ∨ op = 0x12) && decide (sa ≤ 5) && decide (d ≤ 5) &&
  decide (f.fin.toNat ≤ 4 ∨ f.fin.toNat = 7) && decide (f.fout.toNat ≤ 4) &&
  (if trgSingle op then decide (sb = 7)
   else if op = 0x11 then decide (sb = 6)
   else if op = 0x12 then decide (sb = 5)
   else decide (sa ≤ 4 ∧ sb ≤ 5)) &&
  decide (sa ≠ 5 ∨ trgSingle op) &&
  decide (f.more = 1 ∨ ¬ (1 ≤ d ∧ d ≤ 4)) &&
  decide (sa = 0 ∨ f.a = 0) && decide (d = 0 ∨ f.dst = 0) &&
  (match sb with
   | 0 => true
   | 5 => decide (f.barg.toNat < 2 ^ 16)
   | 6 => decide (f.barg.toNat < 2 ^ 12)
   | _ => decide (f.barg = 0))

/-- The static rules of RFLUSH (R111, R213). -/
def rflushOk (f : RflushF) : Bool := decide (f.sel.toNat ≤ 6) && decide (f.post = 1 ∨ f.slot = 0)

/-- The fields that a control operation does not list are zero (R113), and its own static rules. -/
def ctlOk (op : BitVec 4) (f : CtlF) : Bool :=
  let rd0 : Bool := f.rd = 0
  let ra0 : Bool := f.ra = 0
  let rb0 : Bool := f.rb = 0
  let sub0 : Bool := f.sub = 0
  let x0 : Bool := f.x = 0
  let imm0 : Bool := f.imm = 0
  match op.toNat with
  | 0x0 => rd0 && rb0 && decide (f.sub.toNat ≤ 3) && decide (f.x.toNat < 256)
  | 0x1 => ra0 && rb0 && sub0 && x0
  | 0x2 => decide (f.sub.toNat ≤ 12) && decide (f.x.toNat ≤ 1)
  | 0x3 => rd0 && x0 && decide (f.sub.toNat ≤ 6) && decide (f.imm.toNat < 2 ^ 12)
  | 0x4 => ra0 && rb0 && sub0 && x0 && decide (f.imm.toNat < 2 ^ 12)
  | 0x5 => ra0 && rb0 && sub0 && imm0 && decide (f.x.toNat < 32)
  | 0x6 => rb0 && sub0 && x0
  | 0x7 => rd0 && sub0 && x0
  | 0x8 => ra0 && rb0 && imm0 && decide (f.x.toNat < 4096)
  | 0x9 => rd0 && ra0 && imm0 && decide (f.x.toNat < 4096)
  | 0xA => rd0 && ra0 && rb0 && x0 && imm0 && decide (f.sub.toNat ≤ 2)
  | _ => rd0 && ra0 && rb0 && sub0 && x0 && imm0

/-- The static rules of GOP (R116, R117): the descriptor operands each operation uses (R258). -/
def gopOk (f : GopF) : Bool :=
  decide (1 ≤ f.op.toNat ∧ f.op.toNat ≤ 7 ∧ f.nblk ≠ 0) &&
  (match f.op.toNat with
   | 0x03 => decide (f.d3 = 0)
   | 0x04 => decide (f.d1 = 0 ∧ f.d2 = 0 ∧ f.d3 = 0)
   | 0x06 => decide (f.d1 = 0 ∧ f.d2 = 0 ∧ f.d3 = 0 ∧ f.coef = 0)
      | _ => decide (f.d2 = 0 ∧ f.d3 = 0))

/-- The class rules that fail with FIELD_ILLEGAL. -/
def bodyOk (b : NI) : Bool :=
  match b with
  | .sync => true
  | .cwait h _ => decide (handleHolder h ≠ 15)
  | .creset h => decide (handleHolder h = 0)
  | .carm _ _ => true
  | .copy f => copyOk f
  | .tmul f => tmulOk f
  | .trg f => trgOk f
  | .rflush f => rflushOk f
  | .ctl op f => ctlOk op f
  | .gwait _ _ => true
  | .gskip _ => true
  | .gop f => gopOk f
  | .gsignal _ => true
  | .gend => true

/-- The class rules that fail with HANDLE_RANGE (R88). -/
def bodyHandleOk (b : NI) : Bool :=
  match b with
  | .cwait h _ => handleOk h
  | .creset h => handleOk h
  | _ => true

/-- The decoding of a word in a place, with the static checks in the precedence of R80. A Groom's
handles are judged apart, since they must name the Groom itself (R117). -/
def decodeNative (p : Place) (x : W128) : Except W16 Native :=
  if opLegal p (fld x 120 8) = false then .error cOPCODE_ILLEGAL
  else
    let h := hdrOf x
    let b := bodyOf x
    if hdrOk h = false ∨ reservedZero x = false ∨ bodyOk b = false ∨
        (p = .groom ∧ fld x 96 24 ≠ 0) then .error cFIELD_ILLEGAL
    else if bodyHandleOk b = false then .error cHANDLE_RANGE
    else .ok ⟨h, b⟩

/-- The opcode of an instruction (R78). -/
def opcodeOf (b : NI) : BitVec 8 :=
  match b with
  | .sync => 0x01
  | .cwait _ _ => 0x02
  | .creset _ => 0x03
  | .carm _ _ => 0x04
  | .copy _ => 0x10
  | .tmul _ => 0x20
  | .trg _ => 0x30
  | .rflush _ => 0x40
  | .ctl op _ => (0x8 : BitVec 4) ++ op
  | .gwait _ _ => 0xC0
  | .gskip _ => 0xC1
  | .gop _ => 0xC2
  | .gsignal _ => 0xC3
  | .gend => 0xC4

/-- The class fields of an instruction, bits [95:0]. -/
def encodeBody (b : NI) : BitVec 96 :=
  match b with
  | .sync => 0
  | .cwait h t => h ++ (0 : BitVec 48) ++ t
  | .creset h => h ++ (0 : BitVec 80)
  | .carm c v => c ++ (0 : BitVec 76) ++ v
  | .copy f => f.barrow ++ f.any ++ f.op ++ f.hint ++ f.srck ++ f.dstk ++ f.src ++ f.dst ++ f.len
  | .tmul f => f.stall ++ f.any ++ f.chain ++ f.mode ++ f.fmta ++ f.fmtb ++ f.fmtc ++ f.sout ++ f.a ++
      f.b ++ f.c ++ f.k ++ (0 : BitVec 6)
  | .trg f => f.op ++ f.sa ++ f.sb ++ f.d ++ f.more ++ f.fin ++ f.fout ++ f.red ++ f.count ++
      (0 : BitVec 2) ++ f.a ++ f.barg ++ f.dst
  | .rflush f => f.sel ++ f.post ++ f.clear ++ f.slot ++ (0 : BitVec 85)
  | .ctl _ f => f.rd ++ f.ra ++ f.rb ++ f.sub ++ f.x ++ (0 : BitVec 8) ++ f.imm
  | .gwait h t => h ++ (0 : BitVec 48) ++ t
  | .gskip d => d ++ (0 : BitVec 86)
  | .gop f => f.op ++ f.d0 ++ f.d1 ++ f.d2 ++ f.d3 ++ f.coef ++ f.first ++ f.nblk ++ (0 : BitVec 8)
  | .gsignal h => h ++ (0 : BitVec 80)
  | .gend => 0

/-- The encoding of an instruction (R76). -/
def encodeNative (i : Native) : W128 :=
  opcodeOf i.body ++ i.hdr.wctr ++ i.hdr.wamt ++ i.hdr.sctr ++ i.hdr.samt ++ encodeBody i.body

/-- The place where an instruction's class is legal (R79). -/
def placeOf (b : NI) : Place :=
  match b with
  | .ctl _ _ => .ostler
  | .gwait _ _ | .gskip _ | .gop _ | .gsignal _ | .gend => .groom
  | _ => .queue

/-- A well-formed native instruction: the rules of its header and class hold (R77 to R117). -/
def nativeWf (i : Native) : Bool :=
  hdrOk i.hdr && bodyOk i.body && bodyHandleOk i.body &&
  (match i.body with
   | .ctl op _ => decide (op.toNat ≤ 0xB)
   | _ => true) &&
  (if placeOf i.body = .groom then decide (i.hdr = ⟨0, 0, 0, 0⟩) else true)

end Sys2Proof.Machine
end

