-- ==== Sys2Proof/Machine/Numeric.lean ====
section
/-!
DEFINITION. Exact values, the element formats of R144 to R153, and the roundings of R157 to R167 and
R173. A finite value is a dyadic number held exactly; a result that is no dyadic number (a
reciprocal, a root, a logarithm, a power of two) is held truncated far below half a unit of every
target grid, which rounds to nearest with ties away exactly as the mathematical value does.
-/
namespace Sys2Proof.Machine

/-- A finite value `(-1)^neg * m * 2^q`. -/
structure Dy where
  neg : Bool
  m : Nat
  q : Int
deriving DecidableEq, Repr

/-- A value of R198: finite, an infinity, or NaN. -/
inductive Val where
  | fin (d : Dy)
  | inf (neg : Bool)
  | nan
deriving DecidableEq, Repr

/-- +0. -/
def dyZero : Dy := ⟨false, 0, 0⟩

/-- Number of bits of a natural number; 0 for 0. -/
def bitLen (n : Nat) : Nat := if n = 0 then 0 else Nat.log2 n + 1

/-- The dyadic of an integer and an exponent; zero is +0 (R155). -/
def dyOfInt (i q : Int) : Dy := if i = 0 then dyZero else ⟨decide (i < 0), i.natAbs, q⟩

/-- The integer that a dyadic is, in units of `2^e`, for `e` at or below its exponent. -/
def dyUnits (d : Dy) (e : Int) : Int :=
  let k := (d.m * 2 ^ (d.q - e).toNat : Nat)
  if d.neg then -(k : Int) else k

/-- Exact sum; an exact zero is +0 (R155). -/
def dyAdd (a b : Dy) : Dy :=
  if a.m = 0 then (if b.m = 0 then dyZero else b)
  else if b.m = 0 then a
  else
    let e := min a.q b.q
    dyOfInt (dyUnits a e + dyUnits b e) e

/-- Change of sign; the negative of a zero is +0 (R201). -/
def dyNeg (a : Dy) : Dy := if a.m = 0 then dyZero else { a with neg := !a.neg }

/-- Exact difference. -/
def dySub (a b : Dy) : Dy := dyAdd a (dyNeg b)

/-- Exact product; an exact zero is +0 (R155). -/
def dyMul (a b : Dy) : Dy :=
  if a.m = 0 ∨ b.m = 0 then dyZero else ⟨a.neg != b.neg, a.m * b.m, a.q + b.q⟩

/-- Multiplication by a power of two, exact (R163). -/
def dyShift (a : Dy) (k : Int) : Dy := if a.m = 0 then a else { a with q := a.q + k }

/-- Binade of a nonzero dyadic: `2^e ≤ |v| < 2^(e+1)`. -/
def dyBinade (a : Dy) : Int := (bitLen a.m : Int) - 1 + a.q

/-- Strict order of values; zeros of either sign are equal (R155). -/
def dyLt (a b : Dy) : Bool :=
  if a.m = 0 then (if b.m = 0 then false else !b.neg)
  else if b.m = 0 then a.neg
  else if a.neg != b.neg then a.neg
  else
    let ea := dyBinade a
    let eb := dyBinade b
    if ea < eb then !a.neg else if eb < ea then a.neg
    else
      let e := min a.q b.q
      decide (dyUnits a e < dyUnits b e)

/-- Equality of values. -/
def dyEq (a b : Dy) : Bool := !dyLt a b && !dyLt b a

/-- A grid of R144 and R157: significant bits, exponent of the smallest normal, and the exponent of
the top binade with the largest significand there (so the largest finite value is
`maxSig * 2^(emax - p + 1)`). -/
structure Grid where
  p : Nat
  emin : Int
  emax : Int
  maxSig : Nat
deriving DecidableEq, Repr

/-- The integer nearest to `m * 2^q` in units of `2^g`, ties away from zero (R157). -/
def roundUnits (m : Nat) (q g : Int) : Nat :=
  let sh := g - q
  if 0 < sh then
    (if sh.toNat ≤ bitLen m + 1 then (m >>> sh.toNat) + (m >>> (sh.toNat - 1)) % 2 else 0)
  else m <<< (-sh).toNat

/-- The rounded magnitude `r * 2^g`, its saturation report, under the procedure of R157. -/
def roundMag (gr : Grid) (m : Nat) (q : Int) : Nat × Int × Bool :=
  if m = 0 then (0, gr.emin - (gr.p - 1), false)
  else
    let b : Int := (bitLen m : Int) - 1
    let e := max (b + q) gr.emin
    let g := e - (gr.p - 1)
    if gr.emax < b + q then (gr.maxSig, gr.emax - (gr.p - 1), true)
    else
      let r := roundUnits m q g
      let big := (e = gr.emax ∧ gr.maxSig < r) ∨ gr.emax < e
      if big then (gr.maxSig, gr.emax - (gr.p - 1), true)
      else if r = 2 ^ gr.p then (2 ^ (gr.p - 1), g + 1, false)
      else (r, g, false)

/-- Round to nearest, ties away from zero, saturating (R157, R158). A nonzero value that rounds to
zero keeps its sign; an exact zero is +0 (R155). -/
def roundDy (gr : Grid) (d : Dy) : Dy × Bool :=
  if d.m = 0 then (dyZero, false)
  else
    let r := roundMag gr d.m d.q
    (⟨d.neg, r.1, r.2.1⟩, r.2.2)

/-- The lane grid of R198: p = 64, emin = -16,382. -/
def gLane : Grid := ⟨64, -16382, 16383, 2 ^ 64 - 1⟩
/-- The 40-bit accumulator of R134: 30 significant bits, exponents 1 to 1,022 biased by 511. -/
def gAcc40 : Grid := ⟨30, -510, 511, 2 ^ 30 - 1⟩

/-- Element format codes of R86. -/
abbrev fFP4 : Nat := 0
abbrev fE4M3 : Nat := 1
abbrev fE5M2 : Nat := 2
abbrev fINT8 : Nat := 3
abbrev fBF16 : Nat := 4
abbrev fAX16 : Nat := 5
abbrev fLG16 : Nat := 6
abbrev fX64 : Nat := 7

/-- Bits of one element (R86). -/
def fmtBits : Nat → Nat
  | 0 => 4 | 1 => 8 | 2 => 8 | 3 => 8 | 4 => 16 | 5 => 16 | 6 => 16 | _ => 64

/-- Bytes of `n` elements, FP4 packed two to a byte (R145). -/
def fmtBytes (f n : Nat) : Nat := n * fmtBits f / 8

/-- Bytes of one tensor block (R86, R87). -/
def blockBytes (f : Nat) : Nat := fmtBytes f 16384

/-- The grids of R144. INT8, LG16 and X64 have none. -/
def fmtGrid (f : Nat) (anchor : Int) : Grid :=
  match f with
  | 0 => ⟨2, 0, 2, 3⟩
  | 1 => ⟨4, -6, 8, 14⟩
  | 2 => ⟨3, -14, 15, 7⟩
  | 4 => ⟨8, -126, 127, 255⟩
  | _ => ⟨12, anchor - 14, anchor, 4095⟩

/-- Exponent field bias of R144. -/
def fmtBias (f : Nat) (anchor : Int) : Int :=
  match f with
  | 0 => 1 | 1 => 7 | 2 => 15 | 4 => 127 | _ => 15 - anchor

/-- Encoding of a finite value already on the grid of a floating-point format (R157). -/
def encodeFloat (f : Nat) (anchor : Int) (d : Dy) : Nat :=
  let gr := fmtGrid f anchor
  let fb := gr.p - 1
  let sgn := if d.neg then 2 ^ (fmtBits f - 1) else 0
  if d.m < 2 ^ fb then sgn + d.m
  else
    let e := d.q + fb + fmtBias f anchor
    sgn + e.toNat * 2 ^ fb + (d.m - 2 ^ fb)

/-- Decoding of a floating-point encoding whose exponent field is not a non-finite one (R145). -/
def decodeFloat (f : Nat) (anchor : Int) (c : Nat) : Dy :=
  let gr := fmtGrid f anchor
  let fb := gr.p - 1
  let w := fmtBits f
  let neg := c / 2 ^ (w - 1) % 2 == 1
  let e := c / 2 ^ fb % 2 ^ (w - 1 - fb)
  let fr := c % 2 ^ fb
  if e = 0 then ⟨neg, fr, gr.emin - fb⟩
  else ⟨neg, 2 ^ fb + fr, (e : Int) - fmtBias f anchor - fb⟩

/-- The value of an LG16 code (R162): `2^((c - 49152)/1024)` on the 30-bit grid; the root is exact
integer arithmetic: `m` is the largest integer with `m^1024 ≤ 2^(n + 1024 * 40)`. -/
def rootFloor (k n : Nat) : Nat → Nat → Nat
  | 0, lo => lo
  | i + 1, lo => if (lo + 2 ^ i) ^ k ≤ n then rootFloor k n i (lo + 2 ^ i) else rootFloor k n i lo

/-- LG16 decode (R152, R162). -/
def decodeLG (c : Nat) : Dy :=
  if c = 0 then dyZero
  else
    let n : Int := (c : Int) - 49152
    let i := n / 1024
    let fr := (n % 1024).toNat
    let m := rootFloor 1024 (2 ^ (fr + 1024 * 36)) 38 0
    (roundDy gAcc40 ⟨false, m, i - 36⟩).1

/-- LG16 encode of a finite value (R161): code and saturation report. `1024 * log2 v` rounded to
nearest is `(floor(2048 * log2 v) + 1) / 2`. -/
def encodeLG (d : Dy) : Nat × Bool :=
  if d.m = 0 then (0, false)
  else if d.neg then (0, true)
  else
    let t2 : Int := (Nat.log2 (d.m ^ 2048) : Int) + 2048 * d.q
    let t := (t2 + 1) / 2 + 49152
    if t ≤ 0 then (0, false) else if 65536 ≤ t then (0xFFFF, true) else (t.toNat, false)

/-- INT8 conversion (R160). -/
def encodeI8 (d : Dy) : Nat × Bool :=
  let mag := if d.m ≠ 0 ∧ 16 < dyBinade d then 1000 else roundUnits d.m d.q 0
  let v : Int := if d.neg then -(mag : Int) else mag
  if v < -128 then (0x80, true) else if 127 < v then (0x7F, true) else (ofSigned 8 v, false)

/-- What a conversion reports beside its code: saturated, non-finite (R158, R159). -/
structure Conv where
  code : Nat
  sat : Bool
  nf : Bool
deriving DecidableEq, Repr

/-- Conversion of a value into an element format (R157 to R161). -/
def encode (f : Nat) (anchor : Int) : Val → Conv
  | .nan =>
    let c := match f with
      | 0 => 0x0 | 1 => 0x7F | 2 => 0x7F | 3 => 0x00 | 4 => 0x7FC0 | 5 => 0x0000 | 6 => 0xFFFF
      | _ => 2 ^ 63
    ⟨c, false, true⟩
  | .inf neg =>
    let c := match f with
      | 0 => if neg then 0xF else 0x7
      | 1 => 0x7F
      | 2 => if neg then 0xFC else 0x7C
      | 3 => if neg then 0x80 else 0x7F
      | 4 => if neg then 0xFF80 else 0x7F80
      | 5 => if neg then 0xFFFF else 0x7FFF
      | 6 => if neg then 0x0000 else 0xFFFF
      | _ => 2 ^ 63
    ⟨c, false, true⟩
  | .fin d =>
    if f = fINT8 then let r := encodeI8 d; ⟨r.1, r.2, false⟩
    else if f = fLG16 then let r := encodeLG d; ⟨r.1, r.2, false⟩
    else
      let r := roundDy (fmtGrid f anchor) d
      ⟨encodeFloat f anchor r.1, r.2, false⟩

/-- The window of each 3-bit code W (R129). -/
def windowL : Nat → Nat
  | 0 => 0 | 1 => 2 | 2 => 3 | 3 => 5 | 4 => 12 | 5 => 16 | 6 => 17 | _ => 18

/-- X64 fields (R132). -/
def x64 (nf : Bool) (w : Nat) (value : Int) : Nat :=
  (if nf then 2 ^ 63 else 0) + (w % 8) * 2 ^ 60 + (if nf then 0 else ofSigned 60 value)

/-- Reading an element exactly (R145 to R152, R200). -/
def decode (f : Nat) (anchor : Int) (c : Nat) : Val :=
  match f with
  | 1 => if c % 128 = 127 then .nan else .fin (decodeFloat 1 0 c)
  | 2 =>
    if c / 4 % 32 = 31 then (if c % 4 = 0 then .inf (c / 128 % 2 == 1) else .nan)
    else .fin (decodeFloat 2 0 c)
  | 3 => .fin (dyOfInt (toSigned 8 c) 0)
  | 4 =>
    if c / 128 % 256 = 255 then (if c % 128 = 0 then .inf (c / 32768 % 2 == 1) else .nan)
    else .fin (decodeFloat 4 0 c)
  | 6 => .fin (decodeLG c)
  | 7 =>
    if c / 2 ^ 63 % 2 = 1 then .nan
    else .fin (dyOfInt (toSigned 60 c) (-(windowL (c / 2 ^ 60 % 8) : Int)))
  | _ => .fin (decodeFloat f anchor c)

/-- Non-finite values (R154). -/
def Val.isNf : Val → Bool
  | .fin _ => false
  | _ => true

/-- ADD_X64 on two encodings, source and destination (R133). -/
def addX64 (src dst : Nat) : Nat :=
  let ws := src / 2 ^ 60 % 8
  let wd := dst / 2 ^ 60 % 8
  if ws ≠ wd then x64 true wd 0
  else
    let nf := src / 2 ^ 63 % 2 = 1 ∨ dst / 2 ^ 63 % 2 = 1
    (if nf then 2 ^ 63 else 0) + wd * 2 ^ 60 + (src % 2 ^ 60 + dst % 2 ^ 60) % 2 ^ 60

/-- Align a term to its window's unit, once (R130): the integer of units of `2^-L`. -/
def alignTerm (d : Dy) (l : Nat) : Int :=
  let mag := roundUnits d.m d.q (-(l : Int))
  if d.neg then -(mag : Int) else mag

/-- Addition of values (R201): opposite infinities are NaN. -/
def vAdd : Val → Val → Val
  | .nan, _ => .nan
  | _, .nan => .nan
  | .inf a, .inf b => if a = b then .inf a else .nan
  | .inf a, .fin _ => .inf a
  | .fin _, .inf b => .inf b
  | .fin a, .fin b => .fin (dyAdd a b)

/-- Negation of values (R201). -/
def vNeg : Val → Val
  | .nan => .nan
  | .inf n => .inf (!n)
  | .fin a => .fin (dyNeg a)

/-- Multiplication of values (R201): 0 times an infinity is NaN. -/
def vMul : Val → Val → Val
  | .nan, _ => .nan
  | _, .nan => .nan
  | .inf a, .inf b => .inf (a != b)
  | .inf a, .fin b => if b.m = 0 then .nan else .inf (a != b.neg)
  | .fin a, .inf b => if a.m = 0 then .nan else .inf (a.neg != b)
  | .fin a, .fin b => .fin (dyMul a b)

/-- Strict order of values that are not NaN. -/
def vLt : Val → Val → Bool
  | .fin a, .fin b => dyLt a b
  | .inf a, .inf b => a && !b
  | .inf a, .fin _ => a
  | .fin _, .inf b => !b
  | _, _ => false

/-- Equality of values that are not NaN. -/
def vEq : Val → Val → Bool
  | .fin a, .fin b => dyEq a b
  | .inf a, .inf b => a == b
  | _, _ => false

/-- A zero as +0 (R155). -/
def vPlus : Val → Val
  | .fin d => if d.m = 0 then .fin dyZero else .fin d
  | v => v

/-- The greater of two values; of +0 and -0 it is +0 (R155, R201). -/
def vMax : Val → Val → Val
  | .nan, _ => .nan
  | _, .nan => .nan
  | a, b => vPlus (if vLt a b then b else a)

/-- The lesser of two values; of +0 and -0 it is +0 (R155, R201). -/
def vMin : Val → Val → Val
  | .nan, _ => .nan
  | _, .nan => .nan
  | a, b => vPlus (if vLt b a then b else a)

/-- Magnitude (R201). -/
def vAbs : Val → Val
  | .nan => .nan
  | .inf _ => .inf false
  | .fin d => .fin { d with neg := false }

/-- Sign and exactness kept, an exact zero made +0 (R155). -/
def vPass : Val → Val
  | .fin d => if d.m = 0 then .fin dyZero else .fin d
  | v => v

/-- Extra bits held of a result that is no dyadic number: far below half a unit of the 64-bit lane
grid. -/
abbrev guardBits : Nat := 96

/-- 1 ÷ A (R201). -/
def vRecip : Val → Val
  | .nan => .nan
  | .inf _ => .fin dyZero
  | .fin d =>
    if d.m = 0 then .inf d.neg
    else
      let k := bitLen d.m + guardBits
      .fin ⟨d.neg, 2 ^ k / d.m, -d.q - k⟩

/-- 1 ÷ √A (R201). -/
def vRsqrt : Val → Val
  | .nan => .nan
  | .inf neg => if neg then .nan else .fin dyZero
  | .fin d =>
    if d.m = 0 then .inf false
    else if d.neg then .nan
    else
      let m := if d.q % 2 = 0 then d.m else 2 * d.m
      let e := if d.q % 2 = 0 then d.q / 2 else (d.q - 1) / 2
      let k := bitLen m + guardBits
      .fin ⟨false, Nat.sqrt (2 ^ (2 * k) / m), -e - k⟩

/-- The floor of the `2^j`-th root, as `j` integer square roots. -/
def rootPow2 : Nat → Nat → Nat
  | 0, n => n
  | j + 1, n => rootPow2 j (Nat.sqrt n)

/-- 2^A (R201): for a fractional part `F / 2^j` the significand is the floor of
`2^guard * 2^(F / 2^j)`, the `2^j`-th root of `2^(guard * 2^j + F)`. -/
def vExp2 : Val → Val
  | .nan => .nan
  | .inf neg => if neg then .fin dyZero else .inf false
  | .fin d =>
    if 0 ≤ d.q then .fin ⟨false, 1, dyUnits d 0⟩
    else
      let j := (-d.q).toNat
      let n := dyUnits d d.q
      let i := n / (2 ^ j : Int)
      let fr := (n % (2 ^ j : Int)).toNat
      if fr = 0 then .fin ⟨false, 1, i⟩
      else .fin ⟨false, rootPow2 j (2 ^ (guardBits * 2 ^ j + fr)), i - guardBits⟩

/-- Fractional bits kept of a logarithm. -/
abbrev logBits : Nat := 160

/-- log₂ A (R201): `floor(2^k * log2 m)` is the binary length of `m^(2^k)` less one. -/
def vLog2 : Val → Val
  | .nan => .nan
  | .inf neg => if neg then .nan else .inf false
  | .fin d =>
    if d.m = 0 then .inf true
    else if d.neg then .nan
    else if d.m = 2 ^ Nat.log2 d.m then .fin (dyOfInt ((Nat.log2 d.m : Int) + d.q) 0)
    else
      let t : Int := (Nat.log2 (d.m ^ (2 ^ logBits)) : Int) + d.q * 2 ^ logBits
      if 0 ≤ t then .fin ⟨false, t.toNat, -logBits⟩ else .fin ⟨true, (-t - 1).toNat, -logBits⟩

/-- Rounding of a value to the lane grid (R201): value and saturation report. -/
def laneRound : Val → Val × Bool
  | .fin d => let r := roundDy gLane d; (.fin r.1, r.2)
  | v => (v, false)

/-- Rounding to the 40-bit accumulator (R134, R135). It has no subnormals: a sum below the least
normal value becomes the nearer of zero and that value. A sum beyond the largest finite value is
non-finite (R137). -/
def acc40Round : Val → Val
  | .fin d =>
    if d.m = 0 then .fin dyZero
    else if dyBinade d < -510 then
      (if dyBinade d = -511 then .fin ⟨d.neg, 1, -510⟩ else .fin dyZero)
    else
      let r := roundDy gAcc40 d
      if r.2 then .nan else .fin r.1
  | _ => .nan

/-- Stochastic rounding (R165) of an exact value to a float format with draw `d16`: code and
saturation. -/
def stochRound (f : Nat) (anchor : Int) (x : Dy) (d16 : Nat) : Nat × Bool :=
  if x.m = 0 then (0, false)
  else
    let gr := fmtGrid f anchor
    let e := max (dyBinade x) gr.emin
    if gr.emax < e then (encodeFloat f anchor ⟨x.neg, gr.maxSig, gr.emax - (gr.p - 1)⟩, true)
    else
      let g := e - (gr.p - 1)
      let sh := g - x.q
      if sh ≤ 0 then (encodeFloat f anchor ⟨x.neg, x.m <<< (-sh).toNat, g⟩, false)
      else
        let a := x.m >>> sh.toNat
        let rest := x.m % 2 ^ sh.toNat
        let r16 := rest * 65536 / 2 ^ sh.toNat
        let r := if rest = 0 then a else if d16 < r16 then a + 1 else a
        let mag := if r = 2 ^ gr.p then (2 ^ (gr.p - 1), g + 1) else (r, g)
        if e = gr.emax ∧ gr.maxSig < r then
          (encodeFloat f anchor ⟨x.neg, gr.maxSig, gr.emax - (gr.p - 1)⟩, true)
        else (encodeFloat f anchor ⟨x.neg, mag.1, mag.2⟩, false)

/-- One round of the counter stream (R167). -/
def drawRound (tensor : W64) (s : W64 × W64) : W64 × W64 :=
  let y := s.2 + 0x9E3779B97F4A7C15#64 + tensor
  let x := s.1 + y
  let y := y.rotateLeft 16 ^^^ x
  (x.rotateLeft 40, y)

/-- draw16 of R167. -/
def draw16 (seed : BitVec 128) (step tensor i : W64) : Nat :=
  let s0 : W64 × W64 := (seed.setWidth 64 ^^^ step, (seed >>> 64).setWidth 64 ^^^ (i >>> 2))
  let s := drawRound tensor (drawRound tensor (drawRound tensor (drawRound tensor s0)))
  bits (s.1 ^^^ s.2).toNat (16 * (i.toNat % 4)) 16

/-- Keep 24 significant bits, ties to even (R173). -/
def roundRne24 (a : Int) : Int :=
  let n := a.natAbs
  if n < 2 ^ 24 then a
  else
    let sh := bitLen n - 24
    let r := n >>> sh
    let rest := n % 2 ^ sh
    let r := if 2 ^ (sh - 1) < rest ∨ (rest = 2 ^ (sh - 1) ∧ r % 2 = 1) then r + 1 else r
    if a < 0 then -((r <<< sh : Nat) : Int) else ((r <<< sh : Nat) : Int)

/-- IEEE 754 binary32 (R257): none when non-finite. -/
def decodeB32 (c : Nat) : Option Dy :=
  let neg := c / 2 ^ 31 % 2 == 1
  let e : Nat := c / 2 ^ 23 % 256
  let fr : Nat := c % 2 ^ 23
  if e = 255 then none
  else if e = 0 then some ⟨neg, fr, -149⟩
  else some ⟨neg, 2 ^ 23 + fr, (e : Int) - 150⟩

/-- The required exponent ρ (R177) of the largest finite magnitude `a`: the least σ from -128 to 127
with `a * 2^-σ` at most the format's largest finite value. -/
def maxFinite (f : Nat) : Dy :=
  match f with
  | 0 => ⟨false, 3, 1⟩
  | 1 => ⟨false, 14, 5⟩
  | 2 => ⟨false, 7, 13⟩
  | 3 => ⟨false, 127, 0⟩
  | _ => ⟨false, 255, 120⟩

/-- Search of the least σ upward from -128. -/
def rhoFrom (f : Nat) (a : Dy) : Nat → Int → Int
  | 0, s => s
  | n + 1, s => if dyLt (maxFinite f) (dyShift a (-s)) then rhoFrom f a n (s + 1) else s

/-- ρ of R177. -/
def rho (f : Nat) (a : Dy) : Int :=
  if a.m = 0 then -128 else rhoFrom f { a with neg := false } 255 (-128)

end Sys2Proof.Machine
end

