-- ==== Sys2Proof/Machine/RegMap.lean ====
section
/-!
DEFINITION. The register map (R452): the fields of every register, their access codes (R11) and reset
values, as the field tables of R75, R143, R197, R218, R247, R248, R270, R295, R328, R329, R358, R383,
R409, R436, R437, R458 and R459 give them. Offsets that no table names are reserved (R12): no field,
reading zero.
-/
namespace Sys2Proof.Machine

/-- The access codes of R11. -/
inductive Access where
  | ro | rw | w1c | wo | lk
deriving DecidableEq, Repr

/-- One field: lowest bit, width, access and reset value. -/
structure Fld where
  lo : Nat
  w : Nat
  acc : Access
  rst : Nat
deriving DecidableEq, Repr

/-- Blocks of BAR0 (R452), with the block number and the offset inside the block. -/
inductive Where where
  | glb (o : Nat)
  | sec (o : Nat)
  | port (p o : Nat)
  | common (o : Nat)
  | coll (o : Nat)
  | cage (c o : Nat)
  | hbm (k o : Nat)
  | core (n o : Nat)
  | die (d o : Nat)
  | none
deriving DecidableEq, Repr

/-- Base offsets of R452. -/
abbrev oSec : Nat := 0x0010_0000
abbrev oPort (p : Nat) : Nat := 0x0020_0000 + p * 0x1000
abbrev oCommon : Nat := 0x0021_8000
abbrev oColl : Nat := 0x0022_0000
abbrev oCage (c : Nat) : Nat := 0x0040_0000 + c * 0x4000
abbrev oHbm (k : Nat) : Nat := 0x0080_0000 + k * 0x0010_0000
abbrev oGroom (k : Nat) : Nat := oHbm k + 0x1_0000
abbrev oCore (n : Nat) : Nat := 0x0100_0000 + n * 0x0010_0000
abbrev oStall (n s : Nat) : Nat := oCore n + 0x4000 + s * 0x800
abbrev oDie (d : Nat) : Nat := 0x0300_0000 + d * 0x0010_0000

/-- Which block an offset of BAR0 lies in (R452). -/
def whereIs (off : Nat) : Where :=
  if off < 0x0000_5000 then .glb off
  else if oSec ≤ off ∧ off < oSec + 0x1000 then .sec (off - oSec)
  else if oPort 0 ≤ off ∧ off < oPort 24 then .port ((off - oPort 0) / 0x1000) ((off - oPort 0) % 0x1000)
  else if oCommon ≤ off ∧ off < oCommon + 0x1000 then .common (off - oCommon)
  else if oColl ≤ off ∧ off < oColl + 0x1000 then .coll (off - oColl)
  else if oCage 0 ≤ off ∧ off < oCage 12 then .cage ((off - oCage 0) / 0x4000) ((off - oCage 0) % 0x4000)
  else if oHbm 0 ≤ off ∧ off < oHbm 8 then .hbm ((off - oHbm 0) / 0x10_0000) ((off - oHbm 0) % 0x10_0000)
  else if oCore 0 ≤ off ∧ off < oCore 32 then .core ((off - oCore 0) / 0x10_0000) ((off - oCore 0) % 0x10_0000)
  else if oDie 0 ≤ off ∧ off < oDie 8 then .die ((off - oDie 0) / 0x10_0000) ((off - oDie 0) % 0x10_0000)
  else .none

/-- Short forms for the tables. -/
abbrev fRO (lo w rst : Nat) : Fld := ⟨lo, w, .ro, rst⟩
abbrev fRW (lo w rst : Nat) : Fld := ⟨lo, w, .rw, rst⟩
abbrev fWC (lo w : Nat) : Fld := ⟨lo, w, .w1c, 0⟩
abbrev fWO (lo w : Nat) : Fld := ⟨lo, w, .wo, 0⟩
abbrev fLK (lo w rst : Nat) : Fld := ⟨lo, w, .lk, rst⟩

/-- R75. -/
def coreFields (n o : Nat) : List Fld :=
  match o with
  | 0x0000 => [fRO 0 5 n, fRO 5 3 (n / 4)]
  | 0x0004 => [fRW 0 1 0, fRW 1 1 0, fWO 8 1, fWO 9 1, fWO 10 1, fWO 11 1]
  | 0x0008 => [fRW 0 1 0]
  | 0x0010 | 0x0014 | 0x0018 | 0x001C => [fRO 0 2 0, fRO 2 11 0, fRO 16 5 0]
  | 0x0020 | 0x0024 | 0x0028 | 0x002C => [fRO 0 16 0, fRO 16 10 0]
  | 0x0030 => [fRW 0 1 0, fRW 1 1 0, fRW 2 2 0, fRW 8 8 0x07]
  | 0x0034 => [fRW 0 16 0x0200]
  | 0x0040 => [fRO 0 11 0, fRO 16 11 0, fWO 31 1]
  | 0x0044 => [fRW 0 20 0x04000]
  | 0x0050 => [fWC 0 1, fWC 1 1, fWC 2 1, fWC 3 1, fWC 4 1, fWC 5 1]
  | 0x0054 => [fRW 0 1 1, fRW 1 1 1, fRW 2 1 1, fRW 3 1 1, fRW 4 1 1, fRW 5 1 1]
  | 0x0060 => [fRW 0 1 0, fRW 1 1 0, fRO 2 1 0, fRO 3 1 0]
  | 0x0064 | 0x0068 => [fRW 0 12 0]
  | 0x0080 | 0x0084 => [fRO 0 32 0]
  | 0x0090 | 0x0094 | 0x0098 | 0x009C | 0x00A0 | 0x00A4 | 0x00A8 => [fRO 0 32 0]
  | 0x1000 | 0x1010 | 0x1020 | 0x1030 => [fRO 0 1 0, fRO 4 4 0, fRO 16 16 0]
  | _ => []

/-- R143, at an offset inside the stall's block. -/
def stallFields (s o : Nat) : List Fld :=
  match o with
  | 0x000 => [fRO 0 3 s, fRO 3 1 0, fRO 4 1 0]
  | 0x004 => [fRO 0 1 0, fRO 1 1 0, fRO 2 1 0, fRO 3 2 0, fRO 5 3 0, fRO 8 1 0]
  | 0x008 => [fRO 0 19 0]
  | 0x010 => [fWC 0 1, fWC 1 1, fWC 2 1, fWC 3 1]
  | 0x014 => [fRW 0 1 0, fRW 1 1 0, fRW 2 1 1, fRW 3 1 1]
  | 0x020 | 0x024 => [fRO 0 16 0]
  | 0x200 | 0x204 | 0x208 | 0x20C | 0x210 | 0x214 => [fRO 0 32 0]
  | _ => if 0x100 ≤ o ∧ o ≤ 0x1FC ∧ o % 4 = 0 then [fRO 0 32 0] else []

/-- R218 and R197, at an offset inside the core's block. -/
def troughFields (o : Nat) : List Fld :=
  match o with
  | 0x8000 => [fRO 0 1 0, fRO 1 2 0, fRO 4 5 0, fRO 9 1 0]
  | 0x8010 => [fWC 0 1, fWC 1 1, fWC 2 1]
  | 0x8014 => [fRW 0 1 0, fRW 1 1 0, fRW 2 1 1]
  | 0x8040 => [fRW 0 2 0, fRW 2 3 0, fRW 8 7 0]
  | 0x8044 | 0x8048 | 0x8050 | 0x8060 | 0x8064 | 0x8068 | 0x806C | 0x8070 => [fRO 0 32 0]
  | 0x8F00 => [fRW 0 1 0, fWO 1 1, fRW 4 3 1, fRW 7 1 1]
  | 0x8F08 | 0x8F0C | 0x8F10 | 0x8F14 | 0x8F18 | 0x8F1C => [fRO 0 32 0]
  | _ => []

/-- R295, at an offset inside the core's block. -/
def syncFields (o : Nat) : List Fld :=
  if o < 0x1_0400 then [fRO 0 32 0]
  else if o = 0x1_0400 then [fRW 0 8 0, fRW 8 12 0, fRW 20 1 0, fWO 31 1]
  else if 0x1_0410 ≤ o ∧ o ≤ 0x1_042C then [fRW 0 32 0]
  else if o = 0x1_0440 then [fWC 0 1, fWC 1 1, fWC 2 1, fWC 3 1, fWC 4 1, fWC 5 1]
  else if o = 0x1_0444 then [fRW 0 1 1, fRW 1 1 1, fRW 2 1 1, fRW 3 1 1, fRW 4 1 0, fRW 5 1 1]
  else if o = 0x1_0448 then [fRO 0 16 0, fRO 16 9 0, fRO 25 1 0]
  else if o ∈ [0x1_044C, 0x1_0450, 0x1_0460, 0x1_0468, 0x1_046C] then [fRO 0 32 0]
  else if 0x1_0480 ≤ o ∧ o ≤ 0x1_04BC then [fRO 0 32 0]
  else if 0x1_0800 ≤ o ∧ o ≤ 0x1_0FFC then [fRO 0 32 0]
  else []

/-- R247. The generator registers 0x104 to 0x120 are banked by HBM_TG_SEL. -/
def hbmFields (k o : Nat) : List Fld :=
  match o with
  | 0x000 => [fRO 0 3 k, fRO 3 5 16, fRO 8 8 40]
  | 0x004 => [fRW 0 2 0, fRW 2 1 1]
  | 0x008 => [fRO 0 2 0, fRO 2 1 0, fRO 3 2 0]
  | 0x010 => [fRO 0 8 0, fRO 8 8 0, fWO 31 1]
  | 0x014 => [fLK 0 8 85, fLK 8 8 95, fLK 16 8 105]
  | 0x018 => [fRW 0 5 24]
  | 0x020 => [fWC 0 1, fWC 1 1, fWC 2 1, fWC 3 1, fWC 4 1, fWC 5 1]
  | 0x024 => [fRW 0 1 0, fRW 1 1 1, fRW 2 1 1, fRW 3 1 1, fRW 4 1 1, fRW 5 1 0]
  | 0x030 | 0x034 | 0x050 | 0x040 | 0x044 | 0x048 | 0x04C => [fRO 0 32 0]
  | 0x038 => [fRO 0 23 0, fRO 23 3 0, fRO 26 6 0]
  | 0x100 => [fRW 0 6 0]
  | 0x104 => [fWO 0 1, fWO 1 1, fRW 2 2 0, fRW 4 3 0, fRW 7 1 0]
  | 0x108 | 0x10C | 0x110 => [fRW 0 31 0]
  | 0x114 => [fRO 0 1 0, fRO 1 1 0, fRO 2 1 0, fRO 16 16 0]
  | 0x118 | 0x11C | 0x120 => [fRO 0 32 0]
  | _ => []

/-- R270, at an offset inside the stack's block. -/
def groomFields (k o : Nat) : List Fld :=
  match o with
  | 0x1_0000 => [fRO 0 3 k]
  | 0x1_0004 => [fRW 0 1 0, fWO 1 1]
  | 0x1_0008 => [fRO 0 2 0, fRO 2 1 0, fRO 3 1 0]
  | 0x1_000C | 0x1_0010 => [fRW 0 12 0]
  | 0x1_0018 | 0x1_001C => [fRW 0 32 0]
  | 0x1_0020 => [fRO 0 16 0, fRO 16 12 0]
  | 0x1_0030 => [fRW 10 22 0]
  | 0x1_0034 => [fRW 0 16 0]
  | 0x1_0038 => [fRW 0 32 0]
  | 0x1_003C => [fRW 0 20 0x04000]
  | 0x1_0040 | 0x1_0044 | 0x1_0048 | 0x1_004C => [fRO 0 32 0]
  | 0x1_0050 | 0x1_0054 | 0x1_0058 | 0x1_0070 | 0x1_0074 | 0x1_0078 | 0x1_007C | 0x1_0080 => [fRO 0 32 0]
  | 0x1_0060 => [fWC 0 1, fWC 1 1, fWC 2 1, fWC 3 1, fWC 4 1]
  | 0x1_0064 => [fRW 0 1 1, fRW 1 1 1, fRW 2 1 1, fRW 3 1 0, fRW 4 1 1]
  | _ => if (0x1_1000 ≤ o ∧ o ≤ 0x1_13FC) ∨ (0x1_2000 ≤ o ∧ o ≤ 0x1_23FC) then [fRO 0 32 0] else []

/-- R248. -/
def dieFields (d o : Nat) : List Fld :=
  match o with
  | 0x000 => [fRO 0 3 d]
  | 0x004 => [fRW 0 5 0]
  | 0x008 => [fRO 0 5 0, fRO 8 1 0]
  | 0x00C => [fWO 0 1]
  | 0x010 => [fWC 0 1, fWC 1 1, fWC 2 1]
  | 0x014 => [fRW 0 1 0, fRW 1 1 1, fRW 2 1 1]
  | 0x020 | 0x024 | 0x050 | 0x030 | 0x034 | 0x038 | 0x03C | 0x040 | 0x044 => [fRO 0 32 0]
  | _ => []

/-- R328. -/
def portFields (p o : Nat) : List Fld :=
  match o with
  | 0x000 => [fRO 0 5 p]
  | 0x004 => [fLK 0 2 0, fLK 2 4 0, fLK 6 1 0, fRW 8 4 2]
  | 0x008 => [fLK 0 13 0, fLK 13 5 0, fLK 31 1 0]
  | 0x00C => [fRO 0 13 0, fRO 13 5 0, fRO 31 1 0]
  | 0x010 => [fRO 0 3 0, fRO 4 8 0, fRO 12 4 0]
  | 0x014 => [fRW 0 8 0xFF, fRW 8 4 5]
  | 0x020 => [fWC 0 1, fWC 1 1, fWC 2 1, fWC 3 1, fWC 4 1, fWC 5 1]
  | 0x024 => [fRW 0 1 1, fRW 1 1 1, fRW 2 1 0, fRW 3 1 1, fRW 4 1 1, fRW 5 1 1]
  | 0x040 => [fRW 0 14 0]
  | 0x044 => [fRW 0 32 0]
  | 0x050 | 0x054 => [fRO 0 10 0, fRO 16 10 0]
  | _ => if ((0x100 ≤ o ∧ o ≤ 0x12C) ∨ (0x200 ≤ o ∧ o ≤ 0x21C)) ∧ o % 4 = 0 then [fRO 0 32 0] else []

/-- R329. PORT_HADDR.SLOT is the strap, read live. -/
def commonFields (o : Nat) : List Fld :=
  match o with
  | 0x000 => [fRO 0 6 0, fLK 6 7 0]
  | 0x004 => [fRW 0 16 0, fRW 16 13 0]
  | 0x008 => [fRW 0 14 0]
  | 0x010 => [fRW 0 13 0]
  | 0x014 => [fRW 0 13 0, fRW 31 1 0]
  | 0x018 => [fRW 0 14 0]
  | 0x01C => [fRW 0 32 0]
  | 0x020 => [fRW 0 4 0, fRW 4 10 0]
  | 0x024 => [fRW 0 13 0, fRW 31 1 0]
  | 0x028 => [fRW 0 10 0, fRW 10 6 0]
  | 0x02C => [fRW 0 13 0, fRW 31 1 0]
  | 0x030 => [fRW 0 16 100, fRW 16 16 10]
  | 0x040 | 0x044 | 0x048 | 0x04C | 0x050 | 0x054 => [fRO 0 32 0]
  | _ => []

/-- R383. The entry registers 0x004 to 0x024 are banked by PORT_COLL_INDEX. -/
def collFields (o : Nat) : List Fld :=
  match o with
  | 0x000 => [fRW 0 8 0]
  | 0x004 => [fRW 0 5 0, fRW 5 12 0, fRW 31 1 0]
  | 0x008 => [fRW 0 32 0]
  | 0x00C => [fRW 0 16 0]
  | 0x010 => [fRW 0 13 0, fRW 13 8 0]
  | 0x014 => [fRW 8 24 0]
  | 0x018 => [fRW 0 16 0]
  | 0x01C => [fRW 0 10 0]
  | 0x020 => [fRO 0 32 0]
  | 0x024 => [fRO 0 24 0]
  | 0x100 => [fRW 0 13 0]
  | 0x104 => [fRW 0 13 0]
  | 0x200 => [fWC 0 1, fWC 1 1, fWC 2 1]
  | 0x204 => [fRW 0 1 1, fRW 1 1 1, fRW 2 1 1]
  | 0x210 | 0x214 | 0x218 => [fRO 0 32 0]
  | _ => []

/-- R358. -/
def cageFields (c o : Nat) : List Fld :=
  match o with
  | 0x000 => [fRO 0 4 c]
  | 0x004 => [fRW 0 1 0, fRW 1 1 0, fRW 2 1 1]
  | 0x008 => [fRO 0 3 0, fRO 3 1 0, fRO 4 2 0, fRO 6 3 0, fRO 9 1 0]
  | 0x00C => [fRW 0 10 0, fRW 31 1 0]
  | 0x010 => [fRW 0 8 10, fRW 8 8 20, fRW 16 4 6]
  | 0x014 => [fRW 0 10 512]
  | 0x020 => [fWC 0 1, fWC 1 1, fWC 2 1, fWC 3 1, fWC 4 1, fWC 5 1, fWC 6 1, fWC 7 1]
  | 0x024 => [fRW 0 1 1, fRW 1 1 1, fRW 2 1 1, fRW 3 1 1, fRW 4 1 1, fRW 5 1 1, fRW 6 1 1, fRW 7 1 1]
  | 0x028 => [fRO 0 16 0]
  | _ =>
    if 0x040 ≤ o ∧ o ≤ 0x05C ∧ o % 4 = 0 then [fRW 0 2 0, fRW 2 13 0, fRW 16 13 0]
    else if 0x100 ≤ o ∧ o ≤ 0x168 ∧ o % 4 = 0 then [fRO 0 14 0, fRO 14 3 0, fRO 17 4 0xF, fRO 21 1 0]
    else if 0x200 ≤ o ∧ o ≤ 0x2AC ∧ o % 4 = 0 then [fRO 0 16 0, fRO 16 16 0]
    else if 0x300 ≤ o ∧ o ≤ 0x320 ∧ o % 4 = 0 then [fRO 0 4 0xF, fRO 16 16 0]
    else if 0x400 ≤ o ∧ o ≤ 0x414 ∧ o % 4 = 0 then [fRO 0 32 0]
    else if 0x1000 ≤ o ∧ o ≤ 0x1B60 ∧ o % 4 = 0 then [fRO 0 16 0]
    else []

/-- R458, R436 and R409. Strap and kept fields are read live. -/
def glbFields (o : Nat) : List Fld :=
  match o with
  | 0x0000 => [fRO 0 16 0x8640, fRO 16 8 0x10, fRO 24 1 0]
  | 0x0004 | 0x0008 | 0x0010 | 0x0014 | 0x0018 | 0x001C | 0x0020 => [fRO 0 32 0]
  | 0x1000 => [fRW 0 16 3200]
  | 0x1004 => [fRO 0 16 0, fRO 16 16 0]
  | 0x1008 => [fRO 0 1 0, fRO 1 1 0, fRO 16 12 0]
  | 0x100C => [fRO 0 16 0, fRO 16 16 0]
  | 0x1010 => [fLK 0 8 100]
  | 0x1020 | 0x1024 | 0x1028 | 0x102C | 0x1030 | 0x1034 | 0x1038 | 0x103C =>
    [fRO 0 8 0, fRO 8 8 0, fWO 31 1]
  | 0x2000 => [fRO 0 1 0, fRO 1 1 0, fRO 2 1 0, fRO 3 1 0, fWC 4 1, fWC 5 1, fWC 6 1]
  | 0x3000 => [fRO 0 3 0, fRO 8 8 0, fRO 16 16 0]
  | 0x3004 => [fWO 0 8, fWO 8 1]
  | 0x3008 => [fRO 0 16 0]
  | 0x3010 => [fRW 0 3 0, fRW 3 5 0, fWO 31 1]
  | 0x3014 => [fRO 0 2 0, fRO 16 16 0]
  | 0x3018 => [fRW 0 16 100]
  | 0x3020 => [fLK 0 16 1000, fRO 16 16 0]
  | 0x3030 | 0x3034 => [fRO 0 32 0]
  | 0x3038 => [fRO 0 16 0, fRO 16 6 0]
  | 0x3040 => [fRW 0 2 0, fRO 2 2 0, fRO 4 1 0]
  | 0x4000 => [fRO 0 16 0, fRO 16 1 0]
  | 0x4004 => [fRW 0 16 0x3000, fRW 16 8 10]
  | 0x4008 => [fRW 0 1 1, fRW 1 1 1, fRW 4 12 120]
  | 0x400C | 0x4010 => [fRW 0 10 0]
  | 0x4014 => [fRW 0 8 60, fRW 8 4 0, fRW 12 1 1, fRO 13 8 60]
  | 0x4018 => [fRO 0 3 0, fRO 3 3 0, fRO 6 3 0, fRO 9 13 0]
  | 0x4020 => [fRW 0 6 0]
  | 0x4024 => [fRW 8 24 0]
  | 0x4028 => [fRW 0 16 0]
  | 0x402C => [fRW 0 32 0]
  | 0x4030 | 0x4034 | 0x4038 | 0x403C | 0x4040 | 0x4044 => [fRO 0 32 0xFFFFFFFF]
  | 0x4048 => [fRO 0 8 0, fRO 8 8 0, fRO 16 9 0]
  | 0x404C => [fRO 0 24 0]
  | 0x4050 => [fRO 0 8 0]
  | 0x4060 => [fWC 0 1, fWC 1 1, fWC 2 1, fWC 3 1, fWC 4 1, fWC 5 1, fWC 6 1]
  | 0x4064 => [fRW 0 1 0, fRW 1 1 0, fRW 2 1 1, fRW 3 1 1, fRW 4 1 1, fRW 5 1 1, fRW 6 1 1]
  | 0x4070 => [fRO 0 10 0]
  | 0x4074 => [fRW 0 10 0]
  | 0x4078 | 0x407C | 0x4080 | 0x4084 | 0x4090 | 0x4094 => [fRO 0 32 0]
  | _ => []

/-- R437. -/
def secFields (o : Nat) : List Fld :=
  match o with
  | 0x000 => [fRO 0 3 0, fRO 3 2 0, fRO 5 1 0, fRO 16 16 0]
  | 0x004 => [fWO 0 1, fRO 1 1 0]
  | 0x010 | 0x014 | 0x018 => [fRO 0 32 0]
  | 0x01C => [fLK 0 32 0]
  | 0x020 => [fLK 1 3 0, fRO 4 3 0]
  | 0x024 => [fLK 0 32 0]
  | 0x060 => [fLK 0 1 0, fLK 1 1 1]
  | 0x140 => [fRO 0 9 0]
  | _ =>
    if 0x040 ≤ o ∧ o ≤ 0x05C ∧ o % 4 = 0 then [fLK 0 16 0, fLK 16 16 0]
    else if 0x100 ≤ o ∧ o ≤ 0x13C ∧ o % 4 = 0 then [fRO 0 32 0]
    else if 0x200 ≤ o ∧ o ≤ 0x238 ∧ o % 4 = 0 then [fRO 0 32 0]
    else []

/-- R459. The MSI-X table at 0x4000 has the layout of PCI (assumption 30). -/
def bar2Fields (o : Nat) : List Fld :=
  match o with
  | 0x0_0000 | 0x0_0004 => [fRW 0 32 0]
  | 0x0_0008 => [fRW 0 24 0]
  | 0x0_000C => [fWO 0 1]
  | 0x0_0010 => [fRO 0 2 0, fRO 16 16 0]
  | 0x0_1000 | 0x0_1100 | 0x0_1200 => [fRW 12 20 0]
  | 0x0_1004 | 0x0_1104 | 0x0_1204 => [fRW 0 32 0]
  | 0x0_1008 | 0x0_1108 | 0x0_1208 => [fRW 0 4 4, fRW 31 1 0]
  | 0x0_100C => [fRO 0 13 0]
  | 0x0_110C | 0x0_120C => [fRW 0 13 0]
  | 0x0_1010 => [fRW 0 13 0]
  | 0x0_1110 | 0x0_1210 => [fRO 0 13 0]
  | 0x0_1214 => [fRO 0 32 0]
  | 0x0_5000 => [fRO 0 4 0]
  | _ =>
    if 0x0_4000 ≤ o ∧ o ≤ 0x0_403C ∧ o % 4 = 0 then
      (match o % 16 with
       | 0 => [fRW 2 30 0]
       | 12 => [fRW 0 1 1]
       | _ => [fRW 0 32 0])
    else []

/-- The configuration space of the PCIe function (R451), with the identifiers that the spec gives. The header, the
Power Management, MSI-X and PCI Express capabilities and Advanced Error Reporting have the registers of the PCI
specifications (PRESUMED, assumption 107); where the capabilities stand is a DESIGN CHOICE (assumption 107). VENDOR is
in bits 15:0 of offset 0. -/
def cfgFields (o : Nat) : List Fld :=
  match o with
  | 0x000 => [fRO 16 16 0x8640]
  | 0x004 => [fRW 1 2 0, fRO 20 1 1]
  | 0x008 => [fRO 8 24 0x120000]
  | 0x010 => [fRO 0 4 4, fRW 26 6 0]
  | 0x014 => [fRW 0 32 0]
  | 0x018 => [fRO 0 4 4, fRW 20 12 0]
  | 0x01C => [fRW 0 32 0]
  | 0x034 => [fRO 0 8 0x40]
  | 0x040 => [fRO 0 8 0x01, fRO 8 8 0x50, fRO 16 3 3]
  | 0x044 => [fRW 0 2 0, fRO 3 1 1]
  | 0x050 => [fRO 0 8 0x11, fRO 8 8 0x70, fRO 16 11 3, fRW 30 1 0, fRW 31 1 0]
  | 0x054 => [fRO 0 3 2, fRO 3 29 0x800]
  | 0x058 => [fRO 0 3 2, fRO 3 29 0xA00]
  | 0x070 => [fRO 0 8 0x10, fRO 16 4 2]
  | 0x074 => [fRO 0 3 1]
  | 0x078 => [fRW 0 4 0, fRW 5 3 0]
  | 0x100 => [fRO 0 16 1, fRO 16 4 2]
  | 0x104 => [fWC 20 1]
  | 0x108 => [fRW 20 1 0]
  | 0x10C => [fRW 20 1 0]
  | _ => []

/-- A descriptor word (R89): its RW bits. -/
def descFields (w : Nat) : List Fld :=
  match w with
  | 0 => [fRW 0 32 0]
  | 1 => [fRW 0 24 0]
  | 2 => [fRW 0 32 0]
  | 3 => [fRW 0 16 0, fRW 16 16 0xF000]
  | 4 => [fRW 0 32 0]
  | 5 => [fRW 0 32 0]
  | 6 => [fRW 0 32 0]
  | 7 => [fRW 0 10 0]
  | 8 | 9 | 10 | 11 => [fRW 0 32 0]
  | _ => []

/-- The fields of a BAR0 offset (R452). -/
def fieldsOf (off : Nat) : List Fld :=
  if off % 4 ≠ 0 then []
  else match whereIs off with
  | .glb o => glbFields o
  | .sec o => secFields o
  | .port p o => portFields p o
  | .common o => commonFields o
  | .coll o => collFields o
  | .cage c o => cageFields c o
  | .hbm k o =>
    if o < 0x1000 then hbmFields k o
    else if o < 0x1_3000 then groomFields k o
    else if 0x2_0000 ≤ o ∧ o < 0x3_0000 then descFields (o / 4 % 16)
    else if 0x4_0000 ≤ o ∧ o < 0x5_0000 then [fRW 0 32 0]
    else []
  | .core n o =>
    if o < 0x2000 then coreFields n o
    else if 0x4000 ≤ o ∧ o < 0x8000 then stallFields ((o - 0x4000) / 0x800) ((o - 0x4000) % 0x800)
    else if 0x8000 ≤ o ∧ o < 0x9000 then troughFields o
    else if 0x1_0000 ≤ o ∧ o < 0x1_1000 then syncFields o
    else if 0x2_0000 ≤ o ∧ o < 0x6_0000 then descFields (o / 4 % 16)
    else if 0x8_0000 ≤ o ∧ o < 0x9_0000 then [fRW 0 32 0]
    else []
  | .die d o => dieFields d o
  | .none => []

/-- The word that a field table gives at reset. -/
def resetWord (l : List Fld) : W32 := BitVec.ofNat 32 (l.foldl (fun n f => n + f.rst % 2 ^ f.w * 2 ^ f.lo) 0)

/-- The mask of the fields of one kind of access. -/
def accMask (l : List Fld) (a : Access) : W32 :=
  BitVec.ofNat 32 (l.foldl (fun n f => if f.acc = a then n + (2 ^ f.w - 1) * 2 ^ f.lo else n) 0)

/-- Reset value of a BAR0 offset (R10, and the At reset columns). -/
def regReset (off : Nat) : W32 := resetWord (fieldsOf off)

/-- Reset value of a BAR2 offset (R459). -/
def reg2Reset (off : Nat) : W32 := if off % 4 = 0 then resetWord (bar2Fields off) else 0

/-- Reset value of a word of configuration space. -/
def cfgReset (off : Nat) : W32 := resetWord (cfgFields off)

end Sys2Proof.Machine
end

