-- ==== Sys2Proof/Machine/State.lean ====
section
/-!
DEFINITION. The state of one Amiham as plain data, and its state after the power-on reset. Numbered
arrays are sparse tables whose unlisted keys read as the value at reset. Other devices, the host, the
board and the switches are surroundings: what they send arrives as a command, and what the device
sends them is appended to `outbox`.
-/
namespace Sys2Proof.Machine

/-! ### Core: queues, contexts, counters -/

/-- A region lock (R52, R53): the rounded byte range `[lo, hi)` of the Manger, and its kind. -/
structure Lock where
  lo : Nat
  hi : Nat
  wr : Bool
deriving DecidableEq, Repr

/-- Where an instruction of a queue stands: not yet issued, in flight, complete with its signal not
yet retired (R48), or ended by a fault. -/
inductive EntSt where
  | waiting | issued | done | failed
deriving DecidableEq, Repr

/-- An instruction that a queue still holds: its serial number in the queue, its word, where it
stands, its region locks and the descriptors it names while in flight (R92). -/
structure Ent where
  sn : Nat
  word : W128
  st : EntSt
  locks : List Lock
  descs : List Nat
deriving DecidableEq, Repr

/-- The stored part of a queue's state (R70); idle and running follow from its contents. -/
inductive QMode where
  | normal | halted | flushing
deriving DecidableEq, Repr

/-- A queue: its instructions, oldest first, from the oldest whose signal has not retired; the
serial number of the next instruction to enter; its mode; the class that an ABANDONED which follows
its halt carries (R384); and the accumulation chains that stand open after the instructions that have
retired, by stall, each with its opening TMUL and its k-steps (R105, R131). -/
structure Queue where
  live : List Ent
  next : Nat
  mode : QMode
  cls : Class
  chains : Tab (Option (TmulF × Nat))
deriving DecidableEq, Repr

/-- An enqueue that has begun and waits for room (R43): target queue, the rest of its block, its
header signal, and the index of the ENQ. -/
structure EnqSt where
  q : Q
  rest : List W128
  sctr : Nat
  samt : Nat
deriving DecidableEq, Repr

/-- Where a context stands at a BAR: waiting for idle queues, or joined to an epoch (R283). -/
inductive BarSt where
  | waiting | device | step
deriving DecidableEq, Repr

/-- An Ostler context (R42): program counter, scalar registers, whether it has not yet stopped
(R463), an enqueue in progress, a BAR in progress, the filler context's running sum of nominal
occupancies (R65), whether a DSET has begun and waits for its descriptor (R92, R463), the index at which
the host last set the context running, which is a program's entry point, and whether the context runs
again from there after a paddock restart (R67). -/
structure CtxSt where
  pc : BitVec 12
  regs : Tab W64
  active : Bool
  enq : Option EnqSt
  bar : Option BarSt
  chainOcc : Nat
  dset : Bool
  entry : BitVec 12
  again : Bool
deriving DecidableEq, Repr

/-- A sync counter (R271): count, rest value, and poison with the class that an ABANDONED it causes
carries (R384). -/
structure Ctr where
  c : BitVec 12
  r : BitVec 12
  poison : Option Class
deriving DecidableEq, Repr

/-- Why a completion count is poisoned (R281). -/
inductive CPoison where
  | abandoned (c : Class)
  | saturated
deriving DecidableEq, Repr

/-- A completion count (R281). `nf` is the NF bit of a Groom's arrival count (R254). -/
structure CCount where
  n : W32
  poison : Option CPoison
  nf : Bool
deriving DecidableEq, Repr

/-- A sidecar entry or the low bits of block metadata (R180, R222). -/
structure Side where
  tag : W16
  sat : Bool
  nf : Bool
deriving DecidableEq, Repr

/-! ### Core: engines -/

/-- An accumulator of a cell: an exact integer in window units, a 40-bit float, or non-finite. -/
inductive Acc where
  | exact (i : Int)
  | flt (d : Dy)
  | nf
deriving DecidableEq, Repr

/-- A tile in an accumulator: the queue and serial number of its latest TMUL, the chain's fixed
fields (R105), the k-steps taken, the cells in row-major order, and the tags recorded of the A and B
granules read (R465). -/
structure Tile where
  q : Q
  sn : Nat
  f : TmulF
  ksteps : Nat
  acc : List Acc
  tagsA : List W16
  tagsB : List W16
deriving DecidableEq, Repr

/-- A stall: the tile in its active accumulator, whether a TMUL still feeds it k-steps, whether a
chain is open, the C lock of the chain (R54), the tiles that drain, a tile held after SCALE_SKEW
(R192), the scale sets and tags (R138), and the mode of the open or last tile (R143). -/
structure Stall where
  act : Option Tile
  busy : Bool
  chainOpen : Bool
  cLock : Option Lock
  drains : List Tile
  stuck : Option Tile
  rowScale : Tab Byte
  colScale : Tab Byte
  rowTag : W16
  colTag : W16
  mode : BitVec 3
deriving DecidableEq, Repr

/-- The accumulators of the reduction unit for one queue (R209). `maxSeen` holds the row max lanes
that have received an element since the last clear; `argSeen` counts the elements of each row argmax
lane and `argBest` holds its greatest element with that element's count (R210). -/
structure RedSet where
  rowMax : Tab Val
  maxSeen : List Nat
  argSeen : Tab Nat
  argBest : Tab (Option (Val × Nat))
  rowSum : Tab Val
  rowAmax : Tab Val
  colSum : Tab Val
  colMax : Tab Val
  elems : W64
  nfs : W64
deriving DecidableEq, Repr

/-- An issued member of the open Trough chain, with the descriptor a CVTD read at issue. -/
structure Member where
  sn : Nat
  f : TrgF
  desc : BitVec 512
deriving DecidableEq, Repr

/-- A Trough chain that has issued a member and has not ended (R203, R204): its queue, its members,
whether its last member has issued, and, once started, the accumulators as they stood at its start
(R211). -/
structure Chain where
  q : Q
  members : List Member
  closed : Bool
  started : Option RedSet
deriving DecidableEq, Repr

/-- Metadata that a copy carries: the 8-byte metadata word of each source unit, a block (R234) or a
granule (R222), with the span of a unit and the offset of the copy's first byte in the first unit. -/
structure CopyMeta where
  blocks : Bool
  span : Nat
  start : Nat
  units : List W64
deriving DecidableEq, Repr

/-- An issued copy that a Barrow holds (R62): its copy slot (R300), its source descriptor, whether it has
fetched its source, which waits while a stack is at HALT (R233), what it read, whether its source is
checksummed (R236), and where it delivers. -/
structure Copy where
  q : Q
  sn : Nat
  slot : Nat
  f : CopyF
  sdesc : BitVec 512
  fetched : Bool
  data : List Byte
  units : CopyMeta
  srcNf : Bool
  csum : Bool
  ddesc : BitVec 512
  readDone : Bool
deriving DecidableEq, Repr

/-- An issued RFLUSH that has not taken effect (R212). -/
structure RflSt where
  q : Q
  sn : Nat
  f : RflushF
deriving DecidableEq, Repr

/-- One core (R39). `lastQ` holds the rotating queue that last issued to each unit (R50), and `events` the
event bits delivered to the primary context (R75). -/
structure Core where
  qF : Queue
  qB : Queue
  qW : Queue
  qX : Queue
  ctxP : CtxSt
  ctxX : CtxSt
  iram : Tab W128
  desc : Tab (BitVec 512)
  sync : Tab Ctr
  ccnt : Tab CCount
  stalls : Tab Stall
  chains : List Chain
  red : Tab RedSet
  rfl : List RflSt
  slots : Tab (Option W64)
  barrows : Tab (List Copy)
  lastQ : Tab Nat
  events : W32
deriving DecidableEq, Repr

/-- A command as a refusal records it (R16): a register write or read, a command of the ring by opcode and
tag (R454), or the board's request for recovery (R425). -/
inductive RefCmd where
  | write (bar : Bar) (off value : Nat)
  | read (bar : Bar) (off : Nat)
  | ring (op : Nat) (tag : W16)
  | recover
deriving DecidableEq, Repr

/-- What a DETAIL of the fault log names (R388), and what a refusal records with it: the command and the
state that refused it, as the word that shows the state of the block (R16). An instruction that is refused is
the command: its word stands beside its slot or index. -/
inductive Detail where
  | none
  | refused (c : RefCmd) (st : Nat)
  | slotRefused (q : Q) (slot : Nat) (w : W128) (st : Nat)
  | contextRefused (x : Ctx) (pc : Nat) (w : W128) (st : Nat)
  | groomRefused (pc : Nat) (w : W128) (st : Nat)
  | slot (q : Q) (slot : Nat)
  | context (x : Ctx) (pc : Nat)
  | num (n : Nat)
  | num2 (a b : Nat)
deriving DecidableEq, Repr

/-- A fault log entry (R388). -/
structure LogEnt where
  seq : W64
  code : W16
  blk : Blk
  idx : Nat
  cls : Class
  detail : Detail
deriving DecidableEq, Repr

/-! ### Grooms -/

/-- A GOP in progress at a Groom (R262): its fields, its descriptors at the start, whether it is past
the agreement of a REANCHOR, and the new anchor once a REANCHOR's range is known (R261). -/
structure GopSt where
  f : GopF
  d0 : BitVec 512
  d1 : BitVec 512
  d2 : BitVec 512
  agreed : Bool
  anchor : Option Int
deriving DecidableEq, Repr

/-- One Groom (R249 to R270). PC, ENTRY, SECTION and the other registers stand in the register file;
`ngop` counts the GOPs that have ended in the section, and `loading` says that the load of the coefficient
table waits for a stack at HALT (R257, R243). -/
structure Groom where
  uram : Tab W128
  desc : Tab (BitVec 512)
  counts : Tab CCount
  coef : Tab W32
  active : Bool
  halted : Bool
  skip : Bool
  skipDone : Bool
  gop : Option GopSt
  ngop : Nat
  cutWait : Bool
  loading : Bool
deriving DecidableEq, Repr

/-- What a keeper holds of a block in exchange (R262, R263): the GOP with its descriptors, the holders
that have reported, the XOR of the partials of each checked input, whether a holder met an uncorrectable
sector or a non-finite gradient element, the bytes that the holders have read (by 128 times the operand's
number plus the grain), the verdict once it is known, the holders that have written the block, and whether
one of them saturated. -/
structure Exch where
  f : GopF
  d0 : BitVec 512
  d1 : BitVec 512
  d2 : BitVec 512
  from_ : List Nat
  part0 : W32
  part1 : W32
  part2 : W32
  ue : Bool
  nf : Bool
  held : Tab (List Byte)
  verdict : Option W16
  wrote : List Nat
  sat : Bool
deriving DecidableEq, Repr

/-! ### Memory side -/

/-- A mark of a cache line (R229). -/
inductive Mark where
  | none | first | keep
deriving DecidableEq, Repr

/-- A line of a cache partition (R228): the pseudo-channel and local index of its grain, the way of its set that
it takes, and the sectors of its grain that could not be read when it was filled (R238). -/
structure Line where
  pc : Nat
  u : Nat
  dirty : Bool
  mark : Mark
  way : Fin 16
  ue : List Nat
deriving DecidableEq, Repr

/-- A partition change or a flush in progress in a die (R227, R248). -/
inductive LoftOp where
  | idle | change (v : Nat) | flush
deriving DecidableEq, Repr

/-- A traffic generator (R244, R245, R247). -/
structure TrafGen where
  op : Nat
  pattern : Nat
  loop : Bool
  base : W32
  len : W32
  seed : W32
  busy : Bool
  stopping : Bool
  done : Bool
  fail : Bool
  passes : W16
  errs : W32
  failGrain : W32
  failXor : W32
deriving DecidableEq, Repr

/-- Memory and its protection: bytes by device data address (R219), SRAM words and HBM sectors that no read
can correct, the sectors of them that a read has met, which are poisoned, and those that a read corrects (R221, R238), the Manger sidecars (R222), cache sets by die and set (R228), partition
operations in progress, and the traffic generators by stack and pseudo-channel. -/
structure MemSt where
  bytes : List Host.Cell
  badSram : List Nat
  badHbm : List Nat
  poison : List Nat
  softSram : List Nat
  softHbm : List Nat
  sidecar : Tab Side
  cache : Tab (List Line)
  loft : Tab LoftOp
  tg : Tab TrafGen
deriving DecidableEq, Repr

/-! ### The fabric -/

/-- A flit that its sender holds until it is acknowledged (R320): its sequence number, the copy it
belongs to (core, queue and serial number), and the members of its group that have not acknowledged it
(R322; empty for a flit to one device). -/
structure Unacked where
  seq : Nat
  flit : Flit
  owner : Option (Nat × Q × Nat)
  awaits : List Nat
deriving DecidableEq, Repr

/-- The sender's side of a sequence space (R320): the next number, the flits held, those that wait
for the window of 4,096, and, newest first, the numbers of the acknowledged flits of copies in flight with the copy
that each belongs to, which a late fault names (R100). -/
structure E2eTx where
  next : Nat
  held : List Unacked
  waiting : List Unacked
  past : List (Nat × Nat × Q × Nat)
deriving DecidableEq, Repr

/-- The destination's side of a sequence space (R320): the number below which it holds every flit, and
the numbers above that it holds. -/
structure E2eRx where
  base : Nat
  got : List Nat
deriving DecidableEq, Repr

/-- A block that a port has sent (R303): its sequence number, its flits, and the channel and number of the
credits that its tail returns, which go with the block each time it is sent. -/
structure SentBlk where
  seq : Nat
  flits : List Flit
  cvc : Nat
  credits : Nat
deriving DecidableEq, Repr

/-- A port (R303, R304): the input buffer and the output queue, oldest first; the resend buffer; the
next sequence number to send and the one expected; whether NAK is owed; flits unreturned and credits
owed for each virtual channel; lanes under a swap mask (R347) and lanes dark under it; the hitches
that hold the port (R289); lane adds made for each lane (R392); lanes that a preparing hitch has trained;
whether the port has gone DOWN for good until a reset or a lane add (R307); the flits that arrived on TAP
lanes, those that wait for the SOURCE lane, and the number of its next block (R350, R351); and the lanes
that the Yardmaster is to add once no other hitch is in the way (R344 step 5, R335); and the lanes that stay out
of service until the next restart, and until a reset (R392). -/
structure Port where
  rx : List Flit
  tx : List Flit
  sent : List SentBlk
  next : Nat
  expect : Nat
  nak : Bool
  unret : Tab Nat
  owed : Tab Nat
  masks : List Nat
  dark : List Nat
  held : List W16
  adds : Tab Nat
  trained : List Nat
  out : Bool
  tap : List Flit
  btx : List Flit
  bnext : Nat
  want : List Nat
  barred : List Nat
  broken : List Nat
deriving DecidableEq, Repr

/-- The collective entry that a ranked copy matched at its first flit (R321, R361): its number, the copy's
fold position, and the entry's first block, number of ranks and capacity in staged grains then. -/
structure CollUse where
  entry : Nat
  pos : Nat
  first : Nat
  p : Nat
  cap : Nat
deriving DecidableEq, Repr

/-- A landing record (R321), keyed by SRC, CORE and TAG: the descriptor index and the copy of it read
at the first flit, the copy's block range, operation and hint, the grains taken, the metadata words received
by block and the metadata flits taken, the copy word, the bytes of each grain as it arrived, the bytes whose
result is non-finite, the grains whose granules have their entries (R223), whether a delivered block or a
fold saturated, whether it failed, and the collective entry of a ranked copy (R361). -/
structure Landing where
  src : Nat
  core : Nat
  tag : Nat
  di : Nat
  desc : BitVec 512
  first : Nat
  len : Nat
  op : Option Nat
  hint : Nat
  got : List Nat
  metas : Tab (Option W64)
  metaGot : List Nat
  copyWord : Option W64
  data : Tab (List Byte)
  bad : List Nat
  stamped : List Nat
  sat : Bool
  failed : Bool
  coll : Option CollUse
deriving DecidableEq, Repr

/-- A staged grain of a ranked collective (R363): entry, grain of the entry's range, fold position, the
contributing copy (SRC, CORE, TAG and grain), its bytes, and the sequence space and number of the flit that
brought it, for the response that returns a fault of its fold (R100, R321). -/
structure Staged where
  entry : Nat
  grain : Nat
  pos : Nat
  src : Nat
  core : Nat
  tag : Nat
  off : Nat
  data : List Byte
  space : Nat
  seq : Nat
deriving DecidableEq, Repr

/-- The fabric (R296 to R329) and the collective block (R361 to R367): ports; the routing tables by port
and entry, port 24 being the injection table; rank map, intermediate sets, groups, collective entry
registers and order pool; the sequence spaces; landings; flits that wait for a candidate port with
their source, flits held by a hitch, and flits that wait for their stack (R227, R233); staged grains; and
the folds made for each destination grain of each entry. -/
structure Fabric where
  ports : Tab Port
  rt : Tab W32
  map : Tab W32
  midset : Tab W32
  group : Tab W32
  coll : Tab W32
  order : Tab W32
  tx : Tab E2eTx
  rx : Tab E2eRx
  landings : List Landing
  stuck : List (Nat × Flit)
  heldInj : List Flit
  arrivals : List Flit
  staged : List Staged
  folds : Tab Nat
deriving DecidableEq, Repr

/-! ### Hitches (R285 to R292) -/

/-- The states of a hitch (R285). -/
inductive HState where
  | opened | preparing | committed | aborted | done
deriving DecidableEq, Repr

/-- Where a hitch comes from (R292): the host, a template, or the Yardmaster. -/
inductive HSource where
  | host | template | yard
deriving DecidableEq, Repr

/-- The coordinator's record of a hitch: number, participants, prepare limit, staged actions by rank,
state, cause, whether the prepare limit ran out, ranks that voted READY and that acknowledged, its
source, the tag of the HITCH_COMMIT that waits for DONE, and the tags of HITCH_ABORTs that wait for the decision of
the device that coordinates. -/
structure HitchC where
  num : W16
  ranks : List Nat
  limit : Nat
  acts : List (Nat × Action)
  st : HState
  cause : Nat
  timedOut : Bool
  votes : List Nat
  acks : List Nat
  src : HSource
  tag : Option W16
  aborts : List W16
deriving DecidableEq, Repr

/-- Where a participant stands. -/
inductive PState where
  | preparing | voted | applied | undoing
deriving DecidableEq, Repr

/-- A participant's record of a hitch: the coordinator's rank, its actions in staged order, the ring words
to return to on an abort (R290), by cage and ring, the ports that were in service at PREPARE (R327),
whether it aborts on its own account (R291), and the rings that failed their confirmation (R290, R357). -/
structure HitchP where
  num : W16
  coord : Nat
  limit : Nat
  acts : List Action
  st : PState
  saved : List (Nat × W32)
  up : List Nat
  lone : Bool
  bad : List Nat
deriving DecidableEq, Repr

/-- Hitches, and the number that the next HITCH_OPEN returns. -/
structure HitchSt where
  coord : List HitchC
  part : List HitchP
  next : W16
deriving DecidableEq, Repr

/-! ### Cages (R330 to R358) -/

/-- A swap of the spare laser (R346): the position, and how far it has come. `acked` waits for a hitch that
holds the cage (R357). -/
inductive SwapSt where
  | none | warming (pos : Nat) | noticed (pos : Nat) | acked (pos : Nat)
deriving DecidableEq, Repr

/-- A cage beyond its registers: the laser words (R334: ON, TONE, IDENT_EN in bits 0, 4:1 and 5), the
heater code of the spare laser, the code that a search gave each ring for each position (16 times the ring
plus the position, R341), consecutive bad tone and frame checks of each ring (R343), failed recoveries
(R344), consecutive readings at the warning and swap thresholds of each laser (R345), the swap, whether the
heartbeat runs, whether heater codes go on after it stopped, and the codes of that time (R355), the frame
sequences, the quarantined lanes, whether the searches of the bring-up have ended (R342), the commissioning
record (R333), the monitor samples of the last 1,000 frames, newest first (R358), the reading of each
ring with it parked (R338), the cage temperature when each ring's position was last measured
and up to which its heater follows since then (R339), the lasers that the bring-up has compared (R342 step 4), and
the sources of a swap condition that has been acted on and stands, by laser, or 16 plus the lane of an error ratio
(R345, R348). -/
structure Cage where
  lasers : Tab Nat
  spareCode : Nat
  calib : Tab Nat
  badTone : Tab Nat
  badFrame : Tab Nat
  fails : Tab Nat
  warns : Tab Nat
  swaps : Tab Nat
  swap : SwapSt
  beat : Bool
  codesOn : Bool
  keep : List Nat
  seqTx : W16
  seqRx : W16
  quar : List Nat
  searched : Bool
  record : Option StoterRecord
  hist : List (List W16)
  parked : Tab Nat
  tempAt : Tab W16
  tempLoop : Tab W16
  compared : List Nat
  acted : List Nat
deriving DecidableEq, Repr

/-! ### The job, checkpoints, the health monitor -/

/-- What a load leaves (R35 to R38, R29): numerics mode, backward form, start cursor and batch schedule
(R23), seed (R21), shape, the digest of the lowered image, templates with whether each has opened in
this step (R292), and the image, from which a restart rebuilds the tables (R291, R405). -/
structure Job where
  loaded : Bool
  heritage : Bool
  split : Bool
  start : W64
  batch : List W64
  seed : BitVec 128
  shape : Shape
  digest : List Byte
  templates : List Template
  opened : List Nat
  image : Option ProgramImage
deriving DecidableEq, Repr

/-- The paddock step-end epoch as the coordinator sees it (R283, R390): the ranks joined, the OR of
their requests, and the least interval reported; `broken` says that a device has reported a restart-class
event, so the epoch does not close (R284). `closed` says that the epoch has closed on this device and what
cuts the commit carries. -/
structure Epoch where
  joined : List Nat
  req : Bool
  interval : Nat
  sent : Bool
  broken : Bool
  closed : Option (Bool × Bool)
deriving DecidableEq, Repr

/-- A cut in progress (R399): the values it records, which copies it feeds, the core descriptor tables
as frozen at the commit, the Grooms frozen with their descriptor tables, the Grooms whose ranges have
been read, and whether the stream has gone out. -/
structure Cut where
  step : W64
  cursor : W64
  epoch : W32
  evseq : W64
  shadow : Bool
  storage : Bool
  slot : Nat
  coreDesc : Tab (Tab (BitVec 512))
  groomDesc : Tab (Tab (BitVec 512))
  frozen : List Nat
  read : List Nat
  streamed : Bool
deriving DecidableEq, Repr

/-- A restore (R402, R405 step 8): the record, this device's rank in it, the manifests of all ranks as the
coordinator has read them, this device's own manifest, which it reads itself where its source is storage, the switch
it reads from, or none where the device at a hall address sends its shadow, the grains still missing of the image,
with their requests by tag, and the grains that wait for their stack (R227, R233). -/
structure Restore where
  record : RestartRecord
  rank : Nat
  others : List (List Byte)
  manifest : List Byte
  switch : Option Nat
  holder : Nat
  reqs : Tab (Option (Nat × Nat))
  nextGrain : Nat
  total : Nat
  got : List Nat
  image : List Host.Cell
  parked : List (Nat × List Byte)
deriving DecidableEq, Repr

/-- A shadow of the twin that is arriving in a slot (R400): the low 16 bits of its step, and the grains that are
written. -/
structure Incoming where
  step : Nat
  got : List Nat
deriving DecidableEq, Repr

/-- A shadow that this device holds and sends to the device at a hall address, which restores from it (R405 step 8):
its slot and step. -/
structure Serving where
  dest : Nat
  slot : Nat
  step : W64
deriving DecidableEq, Repr

/-- Checkpoint state: the cut, the steps of the shadows the twin has acknowledged by slot, the restore
in progress, whether the paddock has stopped (R405), whether this device has sent its pairing flit (R395), the twin's shadows
that are arriving, by slot (R400), and the shadows that this device is to send (R405 step 8). -/
structure CkptSt where
  cut : Option Cut
  shadows : Tab (Option W64)
  restore : Option Restore
  stopped : Bool
  sentPairing : Bool
  incoming : Tab (Option Incoming)
  serving : List Serving
deriving DecidableEq, Repr

/-! ### Reset, boot, power -/

/-- The Farrier's record, in the standby domain (R391 to R394, R409): rows and stalls that await their spare and
those whose spare is in service, numbered 8 times the core plus the stall; the HBM rows repaired soft since the
reset, and those repaired hard, as stack and row. -/
structure Farrier where
  rowsPend : List Nat
  stallsPend : List Nat
  rows : List Nat
  stalls : List Nat
  soft : List (Nat × Nat)
  hard : List (Nat × Nat)
deriving DecidableEq, Repr

/-- A trim register value that an island holds (R413): its segment, the generation it was written with, its bytes. -/
structure Trim where
  seg : Nat
  gen : Nat
  bytes : List Byte
deriving DecidableEq, Repr

/-- Reset and boot (R410 to R430): whether RST_OUT_N is high, THERM_TRIP_N is low, the trim attempts
and whether this generation's load has passed, the straps, islands released, groups that reported
ready, whether the next boot takes the twin, the images that passed in this boot (R424), the log of
measurements (R426), the block reset in progress, whether the reset was cold (R410), whether the standby
domain sealed (R429), the fused counters blown since manufacture (R437), and whether a spare was
exhausted (R394); whether the fabric plan was legal when the fabric was released (R298); the Farrier's record; the trims
that each island holds (R413); and the cages that the board record has been applied to (R419). -/
structure Boot where
  rstOut : Bool
  thermTrip : Bool
  trimTries : Nat
  trimOk : Bool
  trimFail : Bool
  straps : Straps
  latched : Bool
  released : List Nat
  ready : List Group
  fromTwin : Bool
  images : List SignedImage
  log : List (Nat × Nat × List Byte)
  block : Option (Nat × Nat)
  cold : Bool
  sealTimedOut : Bool
  svn : Tab Nat
  exhausted : Bool
  planOk : Bool
  farrier : Farrier
  trims : Tab (List Trim)
  cagesSet : List Nat
deriving DecidableEq, Repr

/-- The power controller (R431 to R434, R442 to R444): the tack set of each island (R434), the clock that the cap
requests of every compute island, in MHz (1,800 or more asks for nothing), and the dies that are hot. -/
structure Power where
  tack : Tab Nat
  capLimit : Nat
  hot : List Nat
deriving DecidableEq, Repr

/-! ### Messages -/

/-- What a Yardmaster message says (R323, R395, R347, R400, R402). -/
inductive Msg where
  | join (rank : Nat) (req : Bool) (interval : Nat)
  | close (shadow storage : Bool)
  | prepare (hitch : W16) (limit : Nat) (acts : List (Nat × Action))
  | hitch (num : W16) (limit : Nat) (ranks : List Nat) (acts : List (Nat × Action))
  | abort (num : W16)
  | vote (hitch : W16) (cause : Nat)
  | decision (hitch : W16) (commit : Bool)
  | ack (hitch : W16)
  | release (hitch : W16)
  | report (rank : Nat) (code : W16)
  | stop (code : W16)
  | pairing (haddr side feed : Nat)
  | shadowAck (slot : Nat) (step : W64)
  | heartbeat
  | swapNotice (lane : Nat)
  | swapAck (lane : Nat)
  | storageRead (grain count tag : Nat) (step : W64)
deriving DecidableEq, Repr

/-- What leaves the device: completion and event entries, as bytes, and interrupts to the host, unsupported requests,
attestation reports; boot images to the twin at a hall address; link blocks, broadcast blocks with their lane, the contents of control and response flits; control
frames to a cage; the contents of a shadow whose flits go to the twin. -/
inductive Out where
  | completion (entry : List Byte)
  | event (entry : List Byte)
  | msix (vector : Nat)
  | unsupported
  | readData (value : W32)
  | report (addr : W64) (bytes : List Byte)
  | images (dst : Nat) (l : List SignedImage)
  | block (port : Nat) (b : Block)
  | bcast (port lane : Nat) (b : Block)
  | message (dst : Nat) (m : Msg) (evseq : W64)
  | response (dst space cum : Nat) (bitmap : List Nat) (seq : Nat) (fault : Option W16) (busy : Bool)
  | frame (cage : Nat) (seq : W16) (heaters lasers : List Nat) (command : W64) (crc : W32)
  | shadow (slot : Nat) (manifest snapshot : List Byte) (ranges : List (Nat × List Byte))
deriving DecidableEq, Repr

/-- A host command that has been accepted and has not completed (R454): its 64-byte entry, whether it has begun to
execute, and whether its completion is to be discarded (R457). -/
structure HostCmd where
  entry : List Byte
  begun : Bool
  mute : Bool
deriving DecidableEq, Repr

/-- The host attachment beyond its registers (R453 to R457): whether the completion and event rings
have wrapped an odd number of times, the commands in execution, and completions that wait for room:
tag, status, cause, hitch number and result; and the event entries that wait while D3hot suspends the rings (R451). -/
structure HostSt where
  cplFlip : Bool
  evtFlip : Bool
  running : List HostCmd
  waiting : List (W16 × W16 × Nat × W16 × Nat)
  evWait : List (Option LogEnt)
deriving DecidableEq, Repr

/-- The log and the event sequence number, in the standby domain (R387, R388), and the risk
monitor's event terms, each with its weight and its age in milliseconds (R389), and the restart-class and stop-class
statuses that the Yardmaster has still to report to the coordinator, with the rank that one concerns which is not
this device's own (R396, R405). `heard` holds, for each event bit (32 × the
offset of its register, plus the bit), the event sequence number of its last delivery to the health monitor
(R13, R326). -/
structure LogSt where
  evseq : W64
  ring : Tab (Option LogEnt)
  next : Nat
  terms : List (Nat × Nat)
  reports : List (W16 × Option Nat)
  heard : Tab W64
deriving DecidableEq, Repr

/-! ### The state -/

/-- The state of the device. -/
structure State where
  pending : List Instr
  free : Nat
  hostRead : W32
  regs : Tab W32
  regs2 : Tab W32
  cfg : Tab W32
  latches : Tab W32
  mem : MemSt
  cores : Tab Core
  grooms : Tab Groom
  exch : Tab (Option Exch)
  fab : Fabric
  hitch : HitchSt
  cages : Tab Cage
  job : Job
  epoch : Epoch
  ckpt : CkptSt
  boot : Boot
  power : Power
  log : LogSt
  host : HostSt
  outbox : List Out
deriving DecidableEq, Repr

/-- No handler raises a fault: every command of the table has an effect, and an access the spec
refuses records a status. The type is empty (safe). -/
inductive Fault where
deriving DecidableEq, Repr

/-- Why a command has no meaning in the model. -/
inductive Refusal where
  /-- Raised by an arm of `exec` for a command that is not modelled yet (safe: the run ends there). -/
  | notModelled (mnemonic : String)
deriving DecidableEq, Repr

/-! ### Values at reset -/

/-- An empty queue. -/
def queueReset : Queue := ⟨[], 0, .normal, .report, []⟩
/-- A context at reset: stopped at index 0, registers zero (R113). -/
def ctxReset : CtxSt := ⟨0, [], false, none, none, 0, false, 0, false⟩
/-- A sync counter at reset: poisoned, c = r = 0 (R278). -/
def ctrReset : Ctr := ⟨0, 0, some .report⟩
/-- A core's completion count at reset: poisoned, 0 (R295). -/
def ccntReset : CCount := ⟨0, some (.abandoned .report), false⟩
/-- A sidecar entry at reset (R241). -/
def sideReset : Side := ⟨0, false, false⟩
/-- A stall at reset. -/
def stallReset : Stall := ⟨none, false, false, none, [], none, [], [], 0, 0, 0⟩
/-- An accumulator set after a clear (R209). -/
def redReset : RedSet := ⟨[], [], [], [], [], [], [], [], 0, 0⟩
/-- A descriptor at reset: zero but CCOUNT, which names no count (R89). -/
def descReset : BitVec 512 := BitVec.ofNat 512 (0xF000 * 2 ^ 112)
/-- A core at reset. -/
def coreReset : Core :=
  ⟨queueReset, queueReset, queueReset, queueReset, ctxReset, ctxReset, [], [], [], [], [], [], [], [],
    [], [], [], 0⟩
/-- A Groom's completion count at reset: 0, not poisoned (R270). -/
def gcntReset : CCount := ⟨0, none, false⟩
/-- A Groom at reset. -/
def groomReset : Groom := ⟨[], [], [], [], false, false, false, false, none, 0, false, false⟩
/-- A traffic generator at reset (R247). -/
def tgReset : TrafGen := ⟨0, 0, false, 0, 0, 0, false, false, false, false, 0, 0, 0, 0⟩
/-- The event log at power-on (R387, R388). -/
def logReset : LogSt := ⟨0, [], 0, [], [], []⟩
/-- The host attachment at reset (R457). -/
def hostReset : HostSt := ⟨false, false, [], [], []⟩
/-- Memory at power-on: zeros everywhere (R241). -/
def memReset : MemSt := ⟨[], [], [], [], [], [], [], [], [], []⟩
/-- A sequence space's sender before its first flit. -/
def txReset : E2eTx := ⟨0, [], [], []⟩
/-- A sequence space's destination before its first flit. -/
def rxReset : E2eRx := ⟨0, []⟩
/-- A port at reset. -/
def portReset : Port := ⟨[], [], [], 0, 0, false, [], [], [], [], [], [], [], false, [], [], 0, [], [], []⟩
/-- The fabric at reset: nothing queued, every table entry not VALID. -/
def fabReset : Fabric := ⟨[], [], [], [], [], [], [], [], [], [], [], [], [], [], []⟩
/-- Hitches at reset. -/
def hitchReset : HitchSt := ⟨[], [], 0⟩
/-- A cage at reset: lasers off, no heartbeat. -/
def cageReset : Cage := 
  ⟨[], 0, [], [], [], [], [], [], .none, false, false, [], 0, 0, [], false, none, [], [], [], [], [], []⟩
/-- No job is loaded. -/
def jobReset : Job := ⟨false, false, false, 0, [], 0, ⟨[], [], false⟩, [], [], [], none⟩
/-- No join has arrived. -/
def epochReset : Epoch := ⟨[], false, 255, false, false, none⟩
/-- No cut and no restore. -/
def ckptReset : CkptSt := ⟨none, [], none, false, false, [], []⟩
/-- The straps before they are latched (assumption 5). -/
def strapsReset : Straps := ⟨0, 0, 0, 0, 0, 0⟩
/-- The Farrier's record of a device that has spared nothing. -/
def farrierReset : Farrier := ⟨[], [], [], [], [], []⟩
/-- Reset and boot at the first edge of a cold reset. -/
def bootReset : Boot :=
  ⟨false, false, 0, false, false, strapsReset, false, [], [], false, [], [], none, true, false, [], false, false, farrierReset, [], []⟩
/-- The power controller at reset. -/
def powerReset : Power := ⟨[], 1800, []⟩

/-- The machine right after the power-on reset. -/
def State.reset : State :=
  { pending := [], free := 0, hostRead := 0, regs := [], regs2 := [], cfg := [], latches := [], mem := memReset,
    cores := [], grooms := [], exch := [], fab := fabReset, hitch := hitchReset, cages := [],
    job := jobReset, epoch := epochReset, ckpt := ckptReset, boot := bootReset, power := powerReset,
    log := logReset, host := hostReset, outbox := [] }

end Sys2Proof.Machine
end

