-- ==== Sys2Proof/Machine/Ops.lean ====
section
/-!
DEFINITION. The named operations over the state: registers and their fields, the numbered arrays of
cores and Grooms, free values, messages that leave the device, and the host rings (R453).
-/
namespace Sys2Proof.Machine

/-! ### Registers -/

/-- The stored word of a BAR0 register. -/
def regGet (s : State) (off : Nat) : W32 := tabGet (regReset off) s.regs off

/-- Store a BAR0 register's word. -/
def regSet (off : Nat) (v : W32) (s : State) : State :=
  { s with regs := tabSet (regReset off) s.regs off v }

/-- A field of a BAR0 register. -/
def rf (s : State) (off lo w : Nat) : Nat := bits (regGet s off).toNat lo w

/-- Set a field of a BAR0 register. -/
def rfSet (off lo w v : Nat) (s : State) : State :=
  regSet off (BitVec.ofNat 32 (putBits (regGet s off).toNat lo w v)) s

/-- The stored word of a BAR2 register. -/
def reg2Get (s : State) (off : Nat) : W32 := tabGet (reg2Reset off) s.regs2 off

/-- Store a BAR2 register's word. -/
def reg2Set (off : Nat) (v : W32) (s : State) : State :=
  { s with regs2 := tabSet (reg2Reset off) s.regs2 off v }

/-- A field of a BAR2 register. -/
def rf2 (s : State) (off lo w : Nat) : Nat := bits (reg2Get s off).toNat lo w

/-- Set a field of a BAR2 register. -/
def rf2Set (off lo w v : Nat) (s : State) : State :=
  reg2Set off (BitVec.ofNat 32 (putBits (reg2Get s off).toNat lo w v)) s

/-- The stored word of configuration space. -/
def cfgGet (s : State) (off : Nat) : W32 := tabGet (cfgReset off) s.cfg off

/-- Store a word of configuration space. -/
def cfgSet (off : Nat) (v : W32) (s : State) : State := { s with cfg := tabSet (cfgReset off) s.cfg off v }

/-- A field of configuration space. -/
def cf (s : State) (off lo w : Nat) : Nat := bits (cfgGet s off).toNat lo w

/-- Add to a wrapping 32-bit count. -/
def regAdd (off n : Nat) (s : State) : State := regSet off (regGet s off + BitVec.ofNat 32 n) s

/-- Add to a 64-bit count held as LO and HI words. -/
def regAdd64 (off n : Nat) (s : State) : State :=
  let v := (regGet s off).toNat + 2 ^ 32 * (regGet s (off + 4)).toNat + n
  regSet (off + 4) (BitVec.ofNat 32 (v / 2 ^ 32)) (regSet off (BitVec.ofNat 32 v) s)

/-- A 64-bit value held as LO and HI words. -/
def reg64 (s : State) (off : Nat) : Nat := (regGet s off).toNat + 2 ^ 32 * (regGet s (off + 4)).toNat

/-- Store a 64-bit value as LO and HI words. -/
def reg64Set (off v : Nat) (s : State) : State :=
  regSet (off + 4) (BitVec.ofNat 32 (v / 2 ^ 32)) (regSet off (BitVec.ofNat 32 v) s)

/-! ### Free values -/

/-- Advance the counter of free values. -/
def bumpFree (s : State) : State := { s with free := s.free + 1 }

/-- Store a free word in an uncovered register. -/
def regFree (off : Nat) (s : State) : State := bumpFree (regSet off (Config.freeWord s.free) s)

/-! ### Arrays -/

/-- Core `n`. -/
def coreOf (s : State) (n : Nat) : Core := tabGet coreReset s.cores n
/-- Replace core `n`. -/
def coreSet (n : Nat) (c : Core) (s : State) : State := { s with cores := tabSet coreReset s.cores n c }
/-- Change core `n`. -/
def coreMod (n : Nat) (f : Core → Core) (s : State) : State := coreSet n (f (coreOf s n)) s

/-- Groom `k`. -/
def groomOf (s : State) (k : Nat) : Groom := tabGet groomReset s.grooms k
/-- Replace Groom `k`. -/
def groomSet (k : Nat) (g : Groom) (s : State) : State := { s with grooms := tabSet groomReset s.grooms k g }
/-- Change Groom `k`. -/
def groomMod (k : Nat) (f : Groom → Groom) (s : State) : State := groomSet k (f (groomOf s k)) s

/-- Number of a queue, as registers code it. -/
def qNum : Q → Nat
  | .F => 0 | .B => 1 | .W => 2 | .X => 3

/-- A queue of a core. -/
def Core.queue (c : Core) : Q → Queue
  | .F => c.qF | .B => c.qB | .W => c.qW | .X => c.qX

/-- Replace a queue of a core. -/
def Core.setQueue (c : Core) (q : Q) (v : Queue) : Core :=
  match q with
  | .F => { c with qF := v }
  | .B => { c with qB := v }
  | .W => { c with qW := v }
  | .X => { c with qX := v }

/-- A context of a core. -/
def Core.ctx (c : Core) : Ctx → CtxSt
  | .primary => c.ctxP | .filler => c.ctxX

/-- Replace a context of a core. -/
def Core.setCtx (c : Core) (x : Ctx) (v : CtxSt) : Core :=
  match x with
  | .primary => { c with ctxP := v }
  | .filler => { c with ctxX := v }

/-- A stall of a core. -/
def Core.stall (c : Core) (i : Nat) : Stall := tabGet stallReset c.stalls i
/-- Replace a stall of a core. -/
def Core.setStall (c : Core) (i : Nat) (v : Stall) : Core :=
  { c with stalls := tabSet stallReset c.stalls i v }

/-- An accumulator set of a core's reduction unit. -/
def Core.redSet (c : Core) (q : Q) : RedSet := tabGet redReset c.red (qNum q)

/-- A sync counter of a core. -/
def Core.ctr (c : Core) (i : Nat) : Ctr := tabGet ctrReset c.sync i
/-- Replace a sync counter. -/
def Core.setCtr (c : Core) (i : Nat) (v : Ctr) : Core := { c with sync := tabSet ctrReset c.sync i v }

/-- A completion count of a core. -/
def Core.cc (c : Core) (i : Nat) : CCount := tabGet ccntReset c.ccnt i
/-- Replace a completion count. -/
def Core.setCc (c : Core) (i : Nat) (v : CCount) : Core := { c with ccnt := tabSet ccntReset c.ccnt i v }

/-- A descriptor of a core. -/
def Core.dsc (c : Core) (i : Nat) : BitVec 512 := tabGet descReset c.desc i
/-- Replace a descriptor. -/
def Core.setDsc (c : Core) (i : Nat) (v : BitVec 512) : Core :=
  { c with desc := tabSet descReset c.desc i v }

/-- Change a queue of a core. -/
def queueMod (n : Nat) (q : Q) (f : Queue → Queue) (s : State) : State :=
  coreMod n (fun c => c.setQueue q (f (c.queue q))) s

/-- Change a context of a core. -/
def ctxMod (n : Nat) (x : Ctx) (f : CtxSt → CtxSt) (s : State) : State :=
  coreMod n (fun c => c.setCtx x (f (c.ctx x))) s

/-- Change a stall of a core. -/
def stallMod (n i : Nat) (f : Stall → Stall) (s : State) : State :=
  coreMod n (fun c => c.setStall i (f (c.stall i))) s

/-! ### Messages that leave the device -/

/-- Append what leaves the device. -/
def emit (o : Out) (s : State) : State := { s with outbox := s.outbox ++ [o] }

/-- Advance the device event sequence number (R387). -/
def evAdvance (s : State) : State := { s with log := { s.log with evseq := s.log.evseq + 1 } }

/-! ### The PCIe function (R451, R459) -/

/-- D3hot: ring service is suspended (R451). -/
def suspended (s : State) : Bool := cf s 0x044 0 2 == 3

/-- A vector may be sent: MSI-X is enabled, and neither the function nor the vector is masked (assumption 107). -/
def msixOpen (s : State) (v : Nat) : Bool :=
  cf s 0x050 31 1 == 1 && cf s 0x050 30 1 == 0 && rf2 s (0x400C + 16 * v) 0 1 == 0

/-- Raise an MSI-X vector (R456): it is sent, or its pending bit is set until it may be (R459). -/
def msix (v : Nat) (s : State) : State := if msixOpen s v then emit (.msix v) s else rf2Set 0x5000 v 1 1 s

/-- Vectors that are pending and may be sent by now are sent. -/
def msixGo (s : State) : State :=
  (List.range 4).foldl (fun s v =>
    if rf2 s 0x5000 v 1 = 1 ∧ msixOpen s v = true then emit (.msix v) (rf2Set 0x5000 v 1 0 s) else s) s

/-- An access that is not served completes as an Unsupported Request (R451), which Advanced Error Reporting notes. -/
def unsupported (s : State) : State := emit .unsupported (cfgSet 0x104 (cfgGet s 0x104 ||| 0x00100000#32) s)

/-- The device is sealed (R428). -/
def isSealed (s : State) : Bool := rf s (oSec + 0x004) 1 1 == 1

/-- A block has been asked to go idle, and has not been reset yet (R421). -/
def asked (s : State) (k i : Nat) : Bool := s.boot.block == some (k, i)

/-! ### Host rings (R453, R455) -/

/-- Base offsets of the three rings in BAR2. -/
abbrev oCmd : Nat := 0x1000
abbrev oCpl : Nat := 0x1100
abbrev oEvt : Nat := 0x1200

/-- Entries of a ring: 2^N. -/
def ringSize (s : State) (r : Nat) : Nat := 2 ^ rf2 s (r + 8) 0 4

/-- A ring is in service. -/
def ringOn (s : State) (r : Nat) : Bool := rf2 s (r + 8) 31 1 == 1

/-- Entries between HEAD and TAIL, modulo 2^N. -/
def ringHeld (s : State) (r : Nat) : Nat :=
  (rf2 s (r + 0x10) 0 13 + ringSize s r - rf2 s (r + 0xC) 0 13 % ringSize s r) % ringSize s r

/-- A ring the device writes is full: one more entry would make TAIL equal HEAD (assumption 20). -/
def ringFull (s : State) (r : Nat) : Bool := decide (ringSize s r ≤ ringHeld s r + 1)

/-- Advance a producer index, modulo 2^N. -/
def ringAdvance (r : Nat) (s : State) : State :=
  rf2Set (r + 0x10) 0 13 ((rf2 s (r + 0x10) 0 13 + 1) % ringSize s r) s

/-- The phase of the next entry of a ring: 1 on the first pass (assumption 20), flipped on every
wrap (R453). -/
def ringPhase (s : State) (r : Nat) : Bool := if r = oCpl then !s.host.cplFlip else !s.host.evtFlip

/-- Write one entry of a ring: TAIL advanced, the phase flipped on a wrap. -/
def ringWrote (r : Nat) (s : State) : State :=
  let t := ringAdvance r s
  if rf2 t (r + 0x10) 0 13 = 0 then
    (if r = oCpl then { t with host := { t.host with cplFlip := !t.host.cplFlip } }
     else { t with host := { t.host with evtFlip := !t.host.evtFlip } })
  else t

end Sys2Proof.Machine
end

