-- ==== Sys2Proof/Machine/Counts.lean ====
section
/-!
DEFINITION. Counts that no command keeps step by step: of cycles, of corrected symbols, of time without frames and of kicks (R33, R75,
R143, R218, R247, R248, R270, R328, R358, R436, R464). Each is stored. It goes on by a free amount when it is read and
when its clock is about to stop, and only where it may have counted, so that it is 0 after a reset of its island,
holds while the clock is stopped and continues from there (assumption 101).
-/
namespace Sys2Proof.Machine

/-- Offsets of a core's counts of cycles, inside its block: CORE_CYCLE, LOCK_WAIT, TABLE_FULL, the Trough's IDLE,
GRANT_WAIT and MEMBER_WAIT, and EDGE_IDLE, DRAIN_WAIT and ACCEPT_WAIT of each stall. -/
def coreCounts : List Nat :=
  [0x80, 0xA4, 0xA8, 0x8068, 0x806C, 0x8070] ++
    (List.range 8).flatMap (fun i => [0x4000 + i * 0x800 + 0x208, 0x4000 + i * 0x800 + 0x210, 0x4000 + i * 0x800 + 0x214])

/-- The counts of an island (R441), by offset in BAR0. -/
def islandCounts (i : Nat) : List Nat :=
  if i < 32 then coreCounts.map (fun o => oCore i + o)
  else if i < 40 then [oDie (i - 32) + 0x050]
  else if i < 48 then [oHbm (i - 40) + 0x050, oGroom (i - 40) + 0x080]
  else if 56 ≤ i ∧ i < 60 then (List.range 6).flatMap (fun j => [oPort (6 * (i - 56) + j) + 0x118, oPort (6 * (i - 56) + j) + 0x120])
  else if i = 60 then (List.range 12).map (fun g => oCage g + 0x410)
  else if i = 61 then [0x3020]
  else []

/-- The island whose count stands at an offset. -/
def countIsland (off : Nat) : Option Nat :=
  let i? : Option Nat := match whereIs off with
    | .glb _ => some 61
    | .port p _ => some (56 + p / 6)
    | .hbm k _ => some (40 + k)
    | .core n _ => some n
    | .die d _ => some (32 + d)
    | .cage _ _ => some 60
    | _ => none
  i?.filter (fun i => decide (off ∈ islandCounts i))

/-- Instructions that have entered the queues of a core since its reset. -/
def enteredIn (c : Core) : Nat := c.qF.next + c.qB.next + c.qW.next + c.qX.next

/-- What a count counts can have come about since its reset or since it last went on. An instruction holds at
most 3 region locks, so LOCK_WAIT needs two instructions and TABLE_FULL 342 of them. -/
def countMay (s : State) (off : Nat) : Bool :=
  match whereIs off with
  | .core n o =>
    let e := enteredIn (coreOf s n)
    if o = 0x80 ∨ o = 0x8068 ∨ (0x4000 ≤ o ∧ o < 0x8000 ∧ o % 0x800 = 0x208) then true
    else if o = 0xA4 then decide (2 ≤ e)
    else if o = 0xA8 then decide (342 ≤ e)
    else decide (1 ≤ e)
  | .die d _ => decide (2 ≤ rf s (oHbm d + 0x008) 3 2)
  | .hbm k o => if o < 0x1_0000 then decide (2 ≤ rf s (oHbm k + 0x008) 3 2) else (groomOf s k).active
  | .port p o =>
    if o = 0x118 then [0x108, 0x10C, 0x114, 0x11C].any (fun r => regGet s (oPort p + r) != 0)
    else [0x100, 0x104].any (fun r => regGet s (oPort p + r) != 0) || decide ((tabGet portReset s.fab.ports p).tx ≠ [])
  | .cage g _ => rf s (oCage g + 0x004) 0 1 == 1 && rf s (oCage g + 0x008) 9 1 == 0
  | _ => true

/-- The clock of an island runs: it is released, and it is neither a core nor a Groom in Rest (R464). -/
def clockRuns (s : State) (i : Nat) : Bool :=
  decide (i ∈ s.boot.released) && !(decide (i < 32 ∨ (40 ≤ i ∧ i < 48)) && decide (tabGet 0 s.power.tack i = 3))

/-- A count goes on by a free amount, where it may have counted. CORE_CYCLE has 64 bits, KICKS 16. -/
def countOn (off : Nat) (s : State) : State :=
  match countIsland off with
  | none => s
  | some i =>
    if clockRuns s i = false ∨ countMay s off = false then s
    else
      let n := Config.freeNat s.free
      let s := bumpFree s
      if off = 0x3020 then rfSet 0x3020 16 16 (rf s 0x3020 16 16 + n) s
      else if off = oCore i + 0x80 then regAdd64 off n s
      else regAdd off n s

/-- Every count of an island goes on, as before its clock stops (R464). -/
def countAll (i : Nat) (s : State) : State := (islandCounts i).foldl (fun s o => countOn o s) s

end Sys2Proof.Machine
end

