-- ==== Sys2Proof/Machine/Flags.lean ====
section
/-!
DEFINITION. The flags of the device: event bits and their enables (R387, R409), the host event ring
(R453, R455), the fault log (R388), and the status that a command records (R15, R16).
-/
namespace Sys2Proof.Machine

/-- The register offset of a context's RUN bit is CORE_OSTLER_CTRL; the bit's number. -/
def runBit : Ctx → Nat
  | .primary => 0
  | .filler => 1

/-- A word of a fault log entry (R388). -/
def logWord (e : LogEnt) (w : Nat) : Nat :=
  match w with
  | 0 => e.seq.toNat % 2 ^ 32
  | 1 => e.seq.toNat / 2 ^ 32
  | 2 => e.code.toNat + e.blk.code * 2 ^ 16 + e.idx % 32 * 2 ^ 20 + e.cls.code * 2 ^ 25
  | _ =>
    (match e.detail with
     | .none => (0#32).toNat
     | .refused c st =>
       (match c with
        | .write b o v => (Config.refusedDetail (b2n (b == .bar2)) o v st).toNat
        | .read b o => (Config.refusedDetail (2 + b2n (b == .bar2)) o 0 st).toNat
        | .ring op tag => (Config.refusedDetail 4 op tag.toNat st).toNat
        | .recover => (Config.refusedDetail 5 0 0 st).toNat)
     | .slotRefused q i w st => (Config.refusedDetail (6 + qNum q) i w.toNat st).toNat
     | .contextRefused x pc w st => (Config.refusedDetail (10 + runBit x) pc w.toNat st).toNat
     | .groomRefused pc w st => (Config.refusedDetail 12 pc w.toNat st).toNat
     | .slot q i => (Config.logDetail 0 (qNum q) i).toNat
     | .context x pc => (Config.logDetail 1 (runBit x) pc).toNat
     | .num n => (Config.logDetail 2 n 0).toNat
     | .num2 a b => (Config.logDetail 3 a b).toNat)

/-- An event entry (R455): the fault log entry in bytes 0 to 15, the phase in bit 0 of byte 16. A bit that comes with
no log entry leaves the bytes 0. -/
def eventBytes (e : Option LogEnt) (phase : Bool) : List Byte :=
  (match e with
   | some x => (List.range 4).flatMap (fun w => leBytes 4 (logWord x w))
   | none => List.replicate 16 0) ++ leBytes 1 (b2n phase) ++ List.replicate 15 0

/-- The device writes an event entry, or drops it and counts (R453, R455). In D3hot the entry waits (R451). -/
def eventWrite (e : Option LogEnt) (s : State) : State :=
  if ringOn s oEvt = false then s
  else if suspended s then { s with host := { s.host with evWait := s.host.evWait ++ [e] } }
  else if ringFull s oEvt then reg2Set (oEvt + 0x14) (reg2Get s (oEvt + 0x14) + 1) s
  else msix 1 (ringWrote oEvt (emit (.event (eventBytes e (ringPhase s oEvt))) s))

/-- Offsets of the health event registers (R409). -/
abbrev oHealthEv : Nat := 0x4060

/-- Set a bit of GLB_HEALTH_EVENT; an enabled bit is delivered to the host (R409, R455). -/
def health (bit : Nat) (e : Option LogEnt) (s : State) : State :=
  let t := rfSet oHealthEv bit 1 1 s
  if rf t (oHealthEv + 4) bit 1 = 1 then eventWrite e t else t

/-! ### Event bits and the fault log -/

/-- The health monitor takes note of the delivery of an event, under its sequence number (R13, R326). -/
def hear (key : Nat) (s : State) : State :=
  { s with log := { s.log with heard := tabSet 0 s.log.heard key s.log.evseq } }

/-- Set an event bit of a block's EVENT register, whose enable register follows it; a bit that is
enabled is delivered to the health monitor, which advances the event sequence number (R387). -/
def raise (off bit : Nat) (s : State) : State :=
  let t := rfSet off bit 1 1 s
  if rf t (off + 4) bit 1 = 1 then hear (off * 32 + bit) (evAdvance t) else t

/-- Append an entry to the fault log (R387, R388). -/
def logAppend (code : W16) (blk : Blk) (idx : Nat) (cls : Class) (d : Detail) (s : State) : State :=
  let t := evAdvance s
  let e : LogEnt := ⟨t.log.evseq, code, blk, idx, cls, d⟩
  { t with log := { t.log with
      ring := tabSet none t.log.ring t.log.next (some e), next := (t.log.next + 1) % 1024 } }

/-- The newest entry of the log. -/
def logLast (s : State) : Option LogEnt := tabGet none s.log.ring ((s.log.next + 1023) % 1024)

/-- Weight of the event term that a status adds to the risk (R389). -/
def riskWeight (code : W16) : Nat :=
  if code = cLANE_SHED ∨ code = cRING_MISLOCK then 1024
  else if code = cLASER_SWAPPED then 2048
  else if code = cSTREAM_HANG then 4096
  else 0

/-- Add an event term to the risk estimate (R389). -/
def riskAdd (w : Nat) (s : State) : State :=
  if w = 0 then s else { s with log := { s.log with terms := s.log.terms ++ [(w, 0)] } }

/-- The rank that a report to the coordinator names beside the device's own: the lost twin's (R396). -/
def reportOf (code : W16) (d : Detail) : Option Nat :=
  match d with
  | .num r => if code = cDEVICE_LOST then some r else none
  | _ => none

/-- Record a status: the fault log, the health events of R409, and the risk term of R389. -/
def record (code : W16) (blk : Blk) (idx : Nat) (cls : Class) (d : Detail) (s : State) : State :=
  let t := riskAdd (riskWeight code) (logAppend code blk idx cls d s)
  let e := logLast t
  let t : State := if cls = .restart ∨ cls = .stop then
    { t with log := { t.log with reports := t.log.reports ++ [(code, reportOf code d)] } } else t
  let t := if cls = .restart then health 4 e t else t
  let t := if cls = .stop then health 5 e t else t
  let t := if code = cTWIN_LOST ∨ code = cTWIN_CONFLICT ∨ code = cCO_FED then health 2 e t else t
  let t := if code = cSPARE_EXHAUSTED then health 3 e t else t
  if code = cRISK_HIGH then health 6 e t else t

/-- The register that shows the state of a block which refuses (R16): RUN bits, mode and status. -/
def stateReg (blk : Blk) (idx : Nat) : Nat :=
  match blk with
  | .security => oSec + 0x004
  | .port => oPort idx + 0x008
  | .cage => oCage idx + 0x008
  | .hbm => oHbm idx + 0x008
  | .groom => oGroom idx + 0x004
  | .core | .stall | .trough => oCore idx + 0x004
  | .die => oDie idx + 0x008
  | .global | .coll | .twin => 0x3040

/-- The number of RUN bits of cores and Grooms that are 1. -/
def runBits (s : State) : Nat :=
  (List.range 32).countP (fun n => rf s (oCore n + 0x004) 0 1 == 1 || rf s (oCore n + 0x060) 0 2 != 0) +
    (List.range 8).countP (fun k => rf s (oGroom k + 0x004) 0 1 == 1)

/-- The state that a refusal records: the word of the block's state register, and how many RUN bits of
cores and Grooms are 1 (assumption 78). -/
def refState (blk : Blk) (idx : Nat) (s : State) : Nat := (regGet s (stateReg blk idx)).toNat + 2 ^ 32 * runBits s

/-- A command that the present state refuses: nothing takes effect, and STATE_REFUSED is recorded with the
command and the state (R16). -/
def refuse (c : RefCmd) (blk : Blk) (idx : Nat) (s : State) : State :=
  record cSTATE_REFUSED blk idx .report (.refused c (refState blk idx s)) s

end Sys2Proof.Machine
end

