-- ==== Sys2Proof/Machine/Memory.lean ====
section
/-!
DEFINITION. The device data address space (R219): bytes, error correction (R221, R238), the sidecar
(R222), the pseudo-channel hash (R231), the cache partitions (R228, R229), block metadata (R234), and
the window checks of R220.
-/
namespace Sys2Proof.Machine

/-- First address past HBM (R219). -/
abbrev hbmTop : Nat := 0xA0_0000_0000
/-- The Loft window of a die (R219). -/
abbrev loftBase (d : Nat) : Nat := 0xA0_0000_0000 + d * 0x8000_0000
/-- The Manger window of a core (R219). -/
abbrev mangerBase (n : Nat) : Nat := 0xA4_0000_0000 + n * 0x200_0000
/-- First address past the Manger windows (R219). -/
abbrev windowTop : Nat := 0xA4_4000_0000
/-- Bytes of a Manger: 24 MiB. -/
abbrev mangerSize : Nat := 0x180_0000
/-- Bytes of a Loft: 2 GiB. -/
abbrev loftSize : Nat := 0x8000_0000

/-- The canonical form of memory: addresses rise strictly, and no entry is zero, which an unlisted
byte reads as (R241). -/
abbrev Memory.wf (m : List Host.Cell) : Prop := tabWf 0 m

/-- Bytes of a table between two addresses replaced by a list; entries equal to zero are not kept. -/
def tabSplice (t : List Host.Cell) (a : Nat) (l : List Byte) : List Host.Cell :=
  t.filter (fun e => decide (e.1 < a)) ++
    (l.zipIdx a).filterMap (fun e => if e.1 = 0 then none else some (e.2, e.1)) ++
    t.filter (fun e => decide (a + l.length ≤ e.1))

/-- One byte of memory; an unlisted byte is zero (R241). -/
def memByte (s : State) (a : Nat) : Byte := tabGet 0 s.mem.bytes a

/-- `n` bytes of memory. -/
def memRead (s : State) (a n : Nat) : List Byte :=
  let seg := s.mem.bytes.filter (fun e => decide (a ≤ e.1 ∧ e.1 < a + n))
  (List.range n).map (fun i => tabGet 0 seg (a + i))

/-- Drop the members of a rising set that lie in `[lo, hi)`. -/
def setCut (l : List Nat) (lo hi : Nat) : List Nat := l.filter (fun x => decide (¬ (lo ≤ x ∧ x < hi)))

/-! ### The hash -/

/-- The pseudo-channel of a grain address, 0 to 511 (R231). -/
def pcOf (addr : Nat) : Nat :=
  let u := bits addr 17 23
  bits addr 8 9 ^^^ bits u 0 9 ^^^ bits u 9 9 ^^^ bits u 18 5

/-- The stack of an HBM address (R231). -/
def stackOf (addr : Nat) : Nat := pcOf addr / 64
/-- The local grain index of an HBM address (R231). -/
def uOf (addr : Nat) : Nat := bits addr 17 23

/-- The address of the grain of a stack's pseudo-channel with local index `u` (R231). -/
def hbmAddr (stack pc u : Nat) : Nat :=
  let h := bits u 0 9 ^^^ bits u 9 9 ^^^ bits u 18 5
  u * 2 ^ 17 + ((stack * 64 + pc) ^^^ h) * 256

/-! ### The tags of the cache partitions -/

/-- What a die's partition does. -/
def loftOf (s : State) (d : Nat) : LoftOp := tabGet .idle s.mem.loft d

/-- Cache partition in force, in units of 128 MiB (R226). -/
def cacheNow (s : State) (d : Nat) : Nat := rf s (oDie d + 0x008) 0 5

/-- Sets of a die's partition (R228). -/
def cacheSets (s : State) (d : Nat) : Nat := cacheNow s d * 32768

/-- Key of a set in the table of sets. -/
abbrev setKey (d i : Nat) : Nat := d * 2 ^ 20 + i

/-- The line of the partition of its stack that holds the grain of an HBM address (R228). -/
def lineOf (s : State) (addr : Nat) : Option Line :=
  let k := stackOf addr
  if cacheSets s k = 0 then none
  else
    (tabGet [] s.mem.cache (setKey k (uOf addr % cacheSets s k))).find?
      (fun x => decide (x.pc = pcOf addr % 64 ∧ x.u = uOf addr))

/-- The partition of its stack holds the grain of an HBM address (R228). -/
def cached (s : State) (addr : Nat) : Bool := (lineOf s addr).isSome

/-- Where the Loft of a die holds way `w` of set `i` of its partition: sets follow one another, each with its 16
ways (R226, R228; the spec does not say where a line lies: DESIGN CHOICE, assumption 102). -/
def wayAddr (s : State) (d i w : Nat) : Nat :=
  loftBase d + loftSize - cacheNow s d * 0x800_0000 + (i * 16 + w) * 256

/-- The HBM address whose bytes a word of SRAM serves, where the word lies in a line of a partition (R225). -/
def servedBy (s : State) (word : Nat) : Option Nat :=
  let a := word * 8
  if a < loftBase 0 ∨ mangerBase 0 ≤ a then none
  else
    let d := (a - loftBase 0) / loftSize
    if a < wayAddr s d 0 0 then none
    else
      let g := (a - wayAddr s d 0 0) / 256
      ((tabGet [] s.mem.cache (setKey d (g / 16))).find? (fun x => x.way.val = g % 16)).map
        (fun x => hbmAddr d x.pc x.u + a % 256)

/-! ### Writing -/

/-- A line whose grain a write of `n` bytes from `a` covers whole holds fresh sectors. -/
def lineFresh (d a n : Nat) (x : Line) : Line :=
  let g := hbmAddr d x.pc x.u
  if x.ue ≠ [] ∧ a ≤ g ∧ g + 256 ≤ a + n then { x with ue := [] } else x

/-- Fresh codes for a range (R221, R225, R238): every word of SRAM that it reaches or that serves it, which a
write always covers whole, and every grain of HBM that it covers whole. -/
def freshCodes (s : State) (a n : Nat) (m : MemSt) : MemSt :=
  let w (l : List Nat) : List Nat :=
    (setCut l (a / 8) ((a + n + 7) / 8)).filter (fun x => !(servedBy s x).any (fun h => decide (a < h + 8 ∧ h < a + n)))
  let g (l : List Nat) : List Nat := setCut l ((a + 255) / 256 * 8) ((a + n) / 256 * 8)
  { m with badSram := w m.badSram, softSram := w m.softSram, badHbm := g m.badHbm, softHbm := g m.softHbm,
           poison := g m.poison, cache := m.cache.map (fun e => (e.1, e.2.map (lineFresh (e.1 / 2 ^ 20) a n))) }

/-- Write bytes, with fresh codes. A write of part of a grain of HBM, as of a metadata word, leaves a
poisoned sector of the grain poisoned (R238). -/
def memWrite (a : Nat) (l : List Byte) (s : State) : State :=
  if l = [] then s
  else { s with mem := freshCodes s a l.length { s.mem with bytes := tabSplice s.mem.bytes a l } }

/-- Zero a range with valid codes (R227, R241). -/
def memZero (a n : Nat) (s : State) : State :=
  { s with mem := freshCodes s a n { s.mem with
      bytes := s.mem.bytes.filter (fun e => decide (¬ (a ≤ e.1 ∧ e.1 < a + n))) } }

/-! ### Errors -/

/-- An address lies in HBM (R219). -/
abbrev isHbm (a : Nat) : Prop := a < hbmTop

/-- The members of a set of units of `w` bytes that the range of `n` bytes from `a` reaches. -/
def unitsIn (w : Nat) (l : List Nat) (a n : Nat) : List Nat :=
  l.filter (fun x => decide (0 < n ∧ a < x * w + w ∧ x * w < a + n))

/-- The address at which a read meets a word of SRAM: of the grain that it serves, or its own (R225). -/
def wordAddr (s : State) (x : Nat) : Nat := (servedBy s x).getD (x * 8)

/-- The members of a set of SRAM words that a read of a range meets. -/
def wordsIn (s : State) (l : List Nat) (a n : Nat) : List Nat :=
  l.filter (fun x => decide (0 < n ∧ a < wordAddr s x + 8 ∧ wordAddr s x < a + n))

/-- A read of a sector that no read can correct meets it: the stack is read, or its line was filled with it
(assumption 88). -/
def sectorMet (s : State) (x : Nat) : Bool := (lineOf s (x * 32)).all (fun l => decide (x % 8 ∈ l.ue))

/-- The first uncorrectable sector that a read of a range of HBM meets. -/
def hbmUeIn (s : State) (a n : Nat) : Option Nat := (unitsIn 32 s.mem.badHbm a n).find? (sectorMet s)

/-- The first faulting SRAM word of a range. -/
def sramUeIn (s : State) (a n : Nat) : Option Nat := (wordsIn s s.mem.badSram a n).head?

/-- The die whose Loft or Mangers hold an SRAM address. -/
def dieOf (a : Nat) : Nat :=
  if a < mangerBase 0 then (a - loftBase 0) / loftSize else (a - mangerBase 0) / 0x200_0000 / 4

/-- Report an uncorrectable sector, which is poisoned from now on (R238). -/
def hbmUe (sector : Nat) (s : State) : State :=
  let addr := sector * 32
  let k := stackOf addr
  let pc := pcOf addr % 64
  raise (oHbm k + 0x020) 1 <|
    regAdd (oHbm k + 0x034) 1 <|
    regSet (oHbm k + 0x038) (BitVec.ofNat 32 (uOf addr + bits addr 5 3 * 2 ^ 23 + pc * 2 ^ 26)) <|
    { s with mem := { s.mem with badHbm := setAdd s.mem.badHbm sector, poison := setAdd s.mem.poison sector } }

/-- Report an uncorrectable word (R221). -/
def sramUe (word : Nat) (s : State) : State :=
  let d := dieOf (word * 8)
  raise (oDie d + 0x010) 1 (regAdd (oDie d + 0x024) 1 s)

/-- A sector is read corrected, and written back corrected (R238, R389). -/
def hbmCe (sector : Nat) (s : State) : State :=
  let k := stackOf (sector * 32)
  riskAdd 16 <| raise (oHbm k + 0x020) 0 <| regAdd (oHbm k + 0x030) 1 <|
    { s with mem := { s.mem with softHbm := setDel s.mem.softHbm sector } }

/-- A word of SRAM is read corrected, which changes nothing but the count (R221, R389). -/
def sramCe (word : Nat) (s : State) : State :=
  let d := dieOf (word * 8)
  riskAdd 8 (raise (oDie d + 0x010) 0 (regAdd (oDie d + 0x020) 1 s))

/-- The corrected errors that a read of a range meets. -/
def readCorrected (a n : Nat) (s : State) : State :=
  let hs := (unitsIn 32 s.mem.softHbm a n).filter (fun x => !cached s (x * 32))
  (wordsIn s s.mem.softSram a n).foldl (fun s x => sramCe x s) (hs.foldl (fun s x => hbmCe x s) s)

/-- Reading a range meets its errors: the code of the fault, and the reports (R221, R238). A read that
faults meets the corrected errors below the unit that faults. -/
def readErrors (a n : Nat) (s : State) : Option W16 × State :=
  match hbmUeIn s a n with
  | some x => (some cHBM_UE, hbmUe x (readCorrected a (x * 32 - a) s))
  | none =>
    match sramUeIn s a n with
    | some w => (some cSRAM_UE, sramUe w (readCorrected a (wordAddr s w - a) s))
    | none => (none, readCorrected a n s)

/-! ### The sidecar -/

/-- The sidecar entry of a granule of a core (R222). -/
def sideGet (s : State) (n m : Nat) : Side := tabGet sideReset s.mem.sidecar (n * 3072 + m)

/-- Set the sidecar entry of a granule. -/
def sideSet (n m : Nat) (v : Side) (s : State) : State :=
  { s with mem := { s.mem with sidecar := tabSet sideReset s.mem.sidecar (n * 3072 + m) v } }

/-- The granules that a Manger range overlaps. -/
def granules (off n : Nat) : List Nat :=
  if n = 0 then [] else (List.range ((off + n - 1) / 8192 - off / 8192 + 1)).map (fun i => off / 8192 + i)

/-- A write of `[off, off + n)` stamps the granules it reaches with a tag and flags: the flags
replace the old ones where the write covers the whole granule, and are ORed in elsewhere (R223). -/
def sideStamp (c off n : Nat) (tag : Nat → W16) (fl : Nat → Bool × Bool) (s : State) : State :=
  (granules off n).foldl (fun s m =>
    let old := sideGet s c m
    let f := fl m
    let whole : Bool := decide (off ≤ m * 8192 ∧ m * 8192 + 8192 ≤ off + n)
    sideSet c m ⟨tag m, if whole then f.1 else old.sat || f.1, if whole then f.2 else old.nf || f.2⟩ s) s

/-! ### The cache partitions -/

/-- Words of a line that no read can correct, in a set of words. -/
def lineWords (s : State) (k : Nat) (x : Line) (l : List Nat) : List Nat :=
  unitsIn 8 l (wayAddr s k (x.u % cacheSets s k) x.way) 256

/-- Write back a dirty line: a whole grain written to HBM, in which the sectors that were lost when the line was
filled stay as they were (R229, R238). A word of the Loft that cannot be corrected is reported (R221), and the
sector that it would have filled can then not be read (the spec does not say: DESIGN CHOICE, assumption 102). -/
def writeBack (k : Nat) (x : Line) (s : State) : State :=
  let g := hbmAddr k x.pc x.u / 32
  let bad := lineWords s k x s.mem.badSram
  let cut (l : List Nat) : List Nat := l.filter (fun y => !decide (g ≤ y ∧ y < g + 8) || decide (y - g ∈ x.ue))
  let lost := bad.map (fun w => g + w * 8 % 256 / 32)
  let m := s.mem
  let s := bad.foldl (fun s w => sramUe w s)
    { s with mem := { m with badHbm := lost.foldl setAdd (cut m.badHbm), poison := cut m.poison, softHbm := cut m.softHbm } }
  regAdd64 (oHbm k + 0x048) 1 (regAdd64 (oDie k + 0x040) 1 s)

/-- The line to evict of a full set, least recently used first in the list (R229). -/
def victim (l : List Line) : Option Line :=
  match l.find? (fun x => x.mark = .first) with
  | some x => some x
  | none =>
    match l.find? (fun x => x.mark = .none) with
    | some x => some x
    | none => l.head?

/-- A line is filled: its words in the Loft hold fresh codes (R221). -/
def lineFill (k i w : Nat) (s : State) : State :=
  let a := wayAddr s k i w / 8
  { s with mem := { s.mem with badSram := setCut s.mem.badSram a (a + 32), softSram := setCut s.mem.softSram a (a + 32) } }

/-- One access to a grain of HBM through the partition of its stack (R228, R229). A hint of none is an
access with no hint, served as a stream. Lists of lines run from least to most recently used. -/
def cacheAccess (addr hint : Nat) (write : Bool) (s : State) : State :=
  let k := stackOf addr
  let sets := cacheSets s k
  let hbmOff := if write then 0x048 else 0x040
  if sets = 0 then regAdd64 (oHbm k + hbmOff) 1 s
  else
    let key := setKey k (uOf addr % sets)
    let l := tabGet [] s.mem.cache key
    let pc := pcOf addr % 64
    let u := uOf addr
    let put (l : List Line) (s : State) : State :=
      { s with mem := { s.mem with cache := tabSet [] s.mem.cache key l } }
    match l.find? (fun x => x.pc = pc ∧ x.u = u) with
    | some x =>
      let mark := if hint = 1 then .keep else if hint = 2 then .first else x.mark
      let x' : Line := { x with dirty := x.dirty || write, mark := mark }
      put (l.filter (fun y => ¬ (y.pc = pc ∧ y.u = u)) ++ [x']) (regAdd64 (oDie k + 0x030) 1 s)
    | none =>
      let s := regAdd64 (oDie k + 0x038) 1 s
      if hint = 1 then
        let s := if write then s else regAdd64 (oHbm k + 0x040) 1 s
        let v := if l.length < 16 then none else victim l
        let l' := match v with
          | some y => l.filter (fun z => z ≠ y)
          | none => l
        let s := match v with
          | some y => if y.dirty then writeBack k y s else s
          | none => s
        let way : Fin 16 := ((List.finRange 16).find? (fun w => l'.all (fun y => decide (y.way ≠ w)))).getD 0
        let ue := (List.range 8).filter (fun i => decide (addr / 256 * 8 + i ∈ s.mem.badHbm))
        put (l' ++ [⟨pc, u, write, .keep, way, ue⟩]) (lineFill k (u % sets) way s)
      else regAdd64 (oHbm k + hbmOff) 1 s

/-- Accesses to every grain of a range that lies in HBM. -/
def hbmAccess (a n hint : Nat) (write : Bool) (s : State) : State :=
  if a < hbmTop then
    (List.range ((a + n + 255) / 256 - a / 256)).foldl
      (fun s i => cacheAccess ((a / 256 + i) * 256) hint write s) s
  else s

/-- Write back every dirty line of a die's partition, keeping or dropping the lines (R227, R248). -/
def cacheClean (d : Nat) (keep : Bool) (s : State) : State :=
  let mine := s.mem.cache.filter (fun e => decide (setKey d 0 ≤ e.1 ∧ e.1 < setKey (d + 1) 0))
  let dirty := (mine.flatMap (fun e => e.2)).filter (fun l => l.dirty)
  let clean := s.mem.cache.filterMap (fun e =>
    if setKey d 0 ≤ e.1 ∧ e.1 < setKey (d + 1) 0 then
      (if keep then some (e.1, e.2.map (fun l => { l with dirty := false })) else none)
    else some e)
  dirty.foldl (fun s l => writeBack d l s) { s with mem := { s.mem with cache := clean } }

/-! ### Windows -/

/-- Ranges `[a, a + n)` and `[b, b + m)` share a byte. -/
abbrev overlap (a n b m : Nat) : Bool := decide (0 < n ∧ 0 < m ∧ a < b + m ∧ b < a + n)

/-- The shadow region that the device declares (R400), first byte and length; none when SIZE is 0. -/
def shadowRegion (s : State) : Nat × Nat :=
  (rf s 0x400C 0 10 * 2 ^ 30,
    rf s 0x4010 0 10 * 2 ^ 30 * (if rf s 0x4008 1 1 = 1 then 2 else 1))

/-- The range check of R220 and R400 for a descriptor range. `own` is the core whose own Manger
window the range may not enter: none for a remote descriptor or a Groom. -/
def windowOk (s : State) (own : Option Nat) (a n : Nat) : Bool :=
  if n = 0 then true
  else if a + n ≤ hbmTop then
    let sh := shadowRegion s
    !overlap a n sh.1 sh.2
  else if loftBase 0 ≤ a ∧ a + n ≤ mangerBase 0 then
    (List.range 8).all (fun d =>
      let c := cacheNow s d * 0x800_0000
      !overlap a n (loftBase d + loftSize - c) c)
  else if mangerBase 0 ≤ a ∧ a + n ≤ windowTop then
    (List.range 32).all (fun m =>
      !overlap a n (mangerBase m + mangerSize) (0x200_0000 - mangerSize) &&
        (if own = some m then !overlap a n (mangerBase m) mangerSize else true))
  else false

/-- A range touches a stack that `p` picks. -/
def touches (p : Nat → Bool) (a n : Nat) : Bool :=
  decide (a < hbmTop) &&
    (List.range 8).any (fun k =>
      p k && (List.range ((a + n + 255) / 256 - a / 256)).any (fun i => stackOf ((a / 256 + i) * 256) == k))

/-- A stack is in TEST (R244). -/
def inTest (s : State) (k : Nat) : Bool := rf s (oHbm k + 0x008) 0 2 == 1

/-- A stack serves no grain, and every grain waits: it is at HALT, where it serves refresh only (R233, R242); it is in
self-refresh in Rest (R431; DEDUCED, assumption 109); or its controller has been asked to go idle (R421). -/
def atHalt (s : State) (k : Nat) : Bool :=
  rf s (oHbm k + 0x008) 3 2 == 3 || tabGet 0 s.power.tack (40 + k) == 3 || asked s 2 k

/-- A range touches a stack that is in TEST (R244). -/
abbrev touchesTest (s : State) (a n : Nat) : Bool := touches (inTest s) a n

/-- A range touches a stack that is at HALT. -/
abbrev touchesHalt (s : State) (a n : Nat) : Bool := touches (atHalt s) a n

end Sys2Proof.Machine
end

