-- ==== Sys2Proof/Machine/Desc.lean ====
section
/-!
DEFINITION. Tensor descriptors (R89): their fields, the checks of their use (R90, R97, R220), their
updates (R91, R183, R185, R186), and block metadata words (R180, R234).
-/
namespace Sys2Proof.Machine

/-- A descriptor. -/
abbrev Dsc := BitVec 512

/-- Bits of a descriptor as a number. -/
def dF (d : Dsc) (lo w : Nat) : Nat := (d.extractLsb' lo w).toNat

/-- Replace bits of a descriptor. -/
def dSet (d : Dsc) (lo w v : Nat) : Dsc := BitVec.ofNat 512 (putBits d.toNat lo w v)

/-- Word `w` of a descriptor (R89). -/
def dWord (d : Dsc) (w : Nat) : W32 := d.extractLsb' (32 * w) 32

/-- Write word `w` of a descriptor: the RW bits take the value, reserved bits stay 0. -/
def dWordSet (d : Dsc) (w : Nat) (v : W32) : Dsc :=
  dSet d (32 * w) 32 (v &&& accMask (descFields w) .rw).toNat

abbrev dBASE (d : Dsc) : Nat := dF d 0 48
abbrev dFMT (d : Dsc) : Nat := dF d 48 4
abbrev dLAYOUT (d : Dsc) : Nat := dF d 52 2
abbrev dCSUM (d : Dsc) : Nat := dF d 54 1
abbrev dVALID (d : Dsc) : Nat := dF d 55 1
abbrev dMETA (d : Dsc) : Nat := dF d 64 48
abbrev dCCOUNT (d : Dsc) : BitVec 16 := d.extractLsb' 112 16
abbrev dROWB (d : Dsc) : Nat := dF d 128 16
abbrev dCOLB (d : Dsc) : Nat := dF d 144 16
abbrev dTENSOR (d : Dsc) : W32 := d.extractLsb' 160 32
abbrev dSCALE (d : Dsc) : Int := toSigned 8 (dF d 192 8)
abbrev dANCHOR (d : Dsc) : Int := toSigned 8 (dF d 200 8)
abbrev dTAG (d : Dsc) : W16 := d.extractLsb' 208 16
abbrev dHLEN (d : Dsc) : Nat := dF d 224 5
abbrev dHPOS (d : Dsc) : Nat := dF d 229 4
abbrev dNF (d : Dsc) : Bool := dF d 233 1 == 1
abbrev dHIST (d : Dsc) (j : Nat) : Int := toSigned 8 (dF d (256 + 8 * j) 8)

/-- Malformed history fields (R182). -/
def histBad (d : Dsc) : Bool := decide (16 < dHLEN d ∨ (0 < dHLEN d ∧ dHLEN d ≤ dHPOS d))

/-- Contents that R90 disallows. -/
def descBad (d : Dsc) : Bool :=
  decide (7 < dFMT d ∨ 1 < dLAYOUT d ∨ dBASE d % 256 ≠ 0 ∨ dMETA d % 8 ≠ 0 ∨ dROWB d = 0 ∨ dCOLB d = 0 ∨
    (dLAYOUT d = 1 ∧ dCOLB d ≠ 1)) || histBad d

/-- Blocks of a tensor (R89). -/
def dBlocks (d : Dsc) : Nat := dROWB d * dCOLB d

/-- The first fault of a descriptor's contents, in the order of R81: `bad` says whether the use
itself is a mismatch, `first` and `n` give the block range. -/
def descCheck (d : Dsc) (bad : Bool) (first n : Nat) : Option W16 :=
  if dVALID d = 0 then some cDESC_INVALID
  else if descBad d ∨ bad then some cDESC_MISMATCH
  else if dBlocks d < first + n then some cDESC_RANGE
  else none

/-- The data and the metadata ranges of blocks `first` to `first + n - 1` meet a test. -/
def descRanges (test : Nat → Nat → Bool) (d : Dsc) (first n : Nat) : Bool × Bool :=
  (test (dBASE d + first * blockBytes (dFMT d)) (n * blockBytes (dFMT d)), test (dMETA d + 8 * first) (8 * n))

/-- A use of blocks `first` to `first + n - 1` keeps to the windows of R220 with every byte of its block
range, also of a block that it uses in part. -/
def descWindowOk (s : State) (own : Option Nat) (d : Dsc) (first n : Nat) : Bool :=
  let r := descRanges (windowOk s own) d first n
  r.1 && r.2

/-- A use of blocks touches, with its data or its metadata, a stack that `p` picks. -/
def descTouches (p : Nat → Bool) (d : Dsc) (first n : Nat) : Bool :=
  let r := descRanges (touches p) d first n
  r.1 || r.2

/-- Raise AMAX_HIST[j] to at least `v` (R91). -/
def histRaise (d : Dsc) (j : Nat) (v : Int) : Dsc :=
  if dHIST d j < v then dSet d (256 + 8 * j) 8 (ofSigned 8 v) else d

/-- OR into NONFINITE (R91). -/
def nfRaise (d : Dsc) (b : Bool) : Dsc := if b then dSet d 233 1 1 else d

/-- min(SCALE + 1, 127) of R183 and R185. -/
def scaleUp (d : Dsc) : Int := min (dSCALE d + 1) 127

/-- The step-boundary update of one descriptor (R186). -/
def descStep (d : Dsc) : Dsc :=
  let d' :=
    if dHLEN d = 0 ∨ histBad d then d
    else
      let m := (List.range (dHLEN d)).foldl (fun m j => max m (dHIST d j)) (-128)
      let d1 :=
        if -128 < m ∧ m ≠ dSCALE d then
          dSet (dSet d 192 8 (ofSigned 8 m)) 208 16 (((dTAG d).toNat + 1) % 65536)
        else d
      let p := (dHPOS d + 1) % dHLEN d
      dSet (dSet d1 229 4 p) (256 + 8 * p) 8 (ofSigned 8 (-128))
  dSet d' 233 1 0

/-! ### Metadata words -/

/-- A metadata word (R180, R234). -/
def metaWord (tag : W16) (sat nf : Bool) (fmt : Nat) (check : W32) : W64 :=
  BitVec.ofNat 64 (tag.toNat + b2n sat * 2 ^ 16 + b2n nf * 2 ^ 17 + fmt % 16 * 2 ^ 18 + check.toNat * 2 ^ 32)

abbrev mTag (m : W64) : W16 := m.extractLsb' 0 16
abbrev mSat (m : W64) : Bool := m.getLsbD 16
abbrev mNf (m : W64) : Bool := m.getLsbD 17
abbrev mFmt (m : W64) : Nat := (m.extractLsb' 18 4).toNat
abbrev mCheck (m : W64) : W32 := m.extractLsb' 32 32

/-- The metadata word of a sidecar entry. -/
def sideWord (v : Side) : W64 := metaWord v.tag v.sat v.nf 0 0

/-- The low 32 bits of a metadata word, which key CHECK (R235). -/
abbrev metaLo (m : W64) : Nat := m.toNat % 2 ^ 32

/-- Cut a list of bytes into grains of 256 bytes. -/
def grains : Nat → List Byte → List (List Byte)
  | 0, _ => []
  | n + 1, l => l.take 256 :: grains n (l.drop 256)

/-- CHECK of a block's bytes (R235). -/
def checkOf (data : List Byte) (lo : Nat) : W32 := blockCheck (grains (data.length / 256) data) lo

/-- The metadata word of a descriptor's block. -/
def metaRead (s : State) (d : Dsc) (b : Nat) : W64 :=
  BitVec.ofNat 64 (leNat (memRead s (dMETA d + 8 * b) 8))

/-- An access to the metadata words of blocks `b` to `b + n - 1`: metadata that lies in HBM goes through the
partition of its stack like any grain (R228). -/
def metaAccess (d : Dsc) (b n hint : Nat) (write : Bool) (s : State) : State :=
  hbmAccess (dMETA d + 8 * b) (8 * n) hint write s

/-- Write the metadata word of a descriptor's block. -/
def metaWrite (d : Dsc) (b hint : Nat) (m : W64) (s : State) : State :=
  metaAccess d b 1 hint true (memWrite (dMETA d + 8 * b) (leBytes 8 m.toNat) s)

/-- Elements of a format read from bytes (R145, R199): FP4 packs the even element low. -/
def elems (f : Nat) (l : List Byte) : List Nat :=
  match f with
  | 0 => l.flatMap (fun b => [b.toNat % 16, b.toNat / 16])
  | 1 | 2 | 3 => l.map BitVec.toNat
  | 7 => (List.range (l.length / 8)).map (fun i => leNat ((l.drop (8 * i)).take 8))
  | _ => (List.range (l.length / 2)).map (fun i => (l.getD (2 * i) 0).toNat + 256 * (l.getD (2 * i + 1) 0).toNat)

/-- Bytes of the elements of a format. -/
def unelems (f : Nat) : List Nat → List Byte
  | [] => []
  | c :: t =>
    match f with
    | 0 =>
      match t with
      | [] => [BitVec.ofNat 8 c]
      | c' :: t' => BitVec.ofNat 8 (c % 16 + 16 * (c' % 16)) :: unelems f t'
    | 1 | 2 | 3 => BitVec.ofNat 8 c :: unelems f t
    | 7 => leBytes 8 c ++ unelems f t
    | _ => leBytes 2 c ++ unelems f t

end Sys2Proof.Machine
end

