-- ==== Sys2Proof/Machine/Score.lean ====
section
/-!
DEFINITION. The scoreboard of a core (R41 to R73): queues and their windows, region locks, sync
counters and completion counts with their poisoning (R271 to R282), the halt of a queue (R71), the
stop of a context on a fault (R84), and the retiring of signals (R48).
-/
namespace Sys2Proof.Machine

/-! ### Queues -/

/-- Capacity of a queue (R41). -/
def qCap : Q → Nat
  | .X => 256
  | _ => 1024

/-- Size of a queue's issue window (R46). -/
def qWin : Q → Nat
  | .X => 4
  | _ => 16

/-- The queue slot of an instruction: its place in order of entry, modulo the queue's capacity
(assumption 12). -/
def slotOf (q : Q) (sn : Nat) : Nat := sn % qCap q

/-- Unissued instructions, oldest first. -/
def Queue.unissued (q : Queue) : List Ent := q.live.filter (fun e => e.st = .waiting)

/-- Issued instructions that have not completed. -/
def Queue.inflight (q : Queue) : List Ent := q.live.filter (fun e => e.st = .issued)

/-- Instructions older than serial number `sn`. -/
def Queue.older (q : Queue) (sn : Nat) : List Ent := q.live.filter (fun e => decide (e.sn < sn))

/-- STATE of a queue (R70, R75). -/
def qStateNum (q : Queue) : Nat :=
  match q.mode with
  | .halted => 2
  | .flushing => 3
  | .normal => if q.live = [] then 0 else 1

/-- F, B and W of the core are idle (R114): empty with nothing in flight. A halted or flushing queue is
not idle (R70). -/
def coreIdle (c : Core) : Bool := qStateNum c.qF == 0 && qStateNum c.qB == 0 && qStateNum c.qW == 0

/-- The opcode of a word. -/
abbrev opOf (w : W128) : Nat := (fld w 120 8).toNat

/-- An ordering point (R47). -/
def isOrdering (w : W128) : Bool := decide (opOf w ≤ 4 ∨ (hdrOf w).wamt ≠ 0)

/-- Change the entry with serial number `sn`. -/
def Queue.modEnt (q : Queue) (sn : Nat) (f : Ent → Ent) : Queue :=
  { q with live := q.live.map (fun e => if e.sn = sn then f e else e) }

/-- Change an entry of a queue. -/
def entMod (n : Nat) (q : Q) (sn : Nat) (f : Ent → Ent) (s : State) : State :=
  queueMod n q (fun v => v.modEnt sn f) s

/-- The entry with a serial number. -/
def Queue.ent? (q : Queue) (sn : Nat) : Option Ent := q.live.find? (fun e => e.sn = sn)

/-! ### Region locks -/

/-- A lock of a byte range, rounded outward to 64 B (R52). -/
def lockOf (lo n : Nat) (wr : Bool) : Lock := ⟨lo / 64 * 64, ceilDiv (lo + n) 64 * 64, wr⟩

/-- Two locks conflict (R53). -/
def Lock.conflicts (a b : Lock) : Bool := (a.wr || b.wr) && decide (a.lo < b.hi ∧ b.lo < a.hi)

/-- Bytes that a TRG source or destination occupies (R109, R215). -/
def trgBytes (f : TrgF) (fmt : Nat) : Nat := fmtBytes fmt ((f.count.toNat + 1) * 512)

/-- The Manger byte offset of an operand (R85). -/
abbrev opnd (v : BitVec 19) : Nat := 64 * v.toNat

/-- The Manger ranges of an instruction: offset, length, and whether it writes (R52, R54, R103, R109,
R215). -/
def rangesOf (b : NI) : List (Nat × Nat × Bool) :=
  match b with
  | .tmul f =>
    [(opnd f.a, 128 * f.k.toNat, false), (opnd f.b, 128 * f.k.toNat, false)] ++
      (if f.chain.toNat ≤ 1 then [(opnd f.c, fmtBytes f.fmtc.toNat 16384, true)] else [])
  | .trg f =>
    (if f.sa = 0 then [(opnd f.a, trgBytes f f.fin.toNat, false)] else []) ++
      (if f.sb = 0 then [(opnd f.barg, trgBytes f f.fin.toNat, false)] else []) ++
      (if f.d = 0 then
        [(opnd f.dst, trgBytes f f.fout.toNat + (if f.op.toNat = 0x10 then 256 else 0), true)] else [])
  | .copy f =>
    (if f.srck = 0 then [(64 * (f.src.toNat % 2 ^ 19), f.len.toNat * 256, false)] else []) ++
      (if f.dstk = 0 then [(64 * (f.dst.toNat % 2 ^ 19), f.len.toNat * 256, true)] else [])
  | _ => []

/-- The locks of an instruction (R52). -/
def locksOf (b : NI) : List Lock := (rangesOf b).map (fun r => lockOf r.1 r.2.1 r.2.2)

/-- Locks that a core holds: those of instructions in flight, and the C locks of open chains (R54). -/
def locksHeld (c : Core) : List Lock :=
  [Q.F, Q.B, Q.W, Q.X].flatMap (fun q => ((c.queue q).live).flatMap (fun e => e.locks)) ++
    (List.range 8).filterMap (fun i => (c.stall i).cLock)

/-- An instruction's locks can be acquired: no conflict with a held lock or with a lock of an older
unissued instruction of its own queue, and room for them (R53, R55). -/
def locksFree (c : Core) (q : Q) (sn : Nat) (b : NI) : Bool :=
  let mine := locksOf b
  let held := locksHeld c
  let older := (((c.queue q).older sn).filter (fun e => e.st = .waiting)).flatMap (fun e => locksOf (bodyOf e.word))
  decide (held.length + mine.length ≤ 1024) &&
    mine.all (fun l => (held ++ older).all (fun m => !l.conflicts m))

/-- IN_USE of CORE_LOCK_STAT; PEAK follows it upward (R75). -/
def lockPeak (n : Nat) (s : State) : State :=
  let u := (locksHeld (coreOf s n)).length
  if rf s (oCore n + 0x40) 16 11 < u then rfSet (oCore n + 0x40) 16 11 u s else s

/-! ### Sync counters -/

/-- Record an event of CORE_SYNC_EVENT with its code and index (R295). -/
def syncEvent (n bit : Nat) (code : W16) (idx kind : Nat) (s : State) : State :=
  raise (oCore n + 0x1_0440) bit
    (regSet (oCore n + 0x1_0448) (BitVec.ofNat 32 (code.toNat + idx % 512 * 2 ^ 16 + kind % 2 * 2 ^ 25)) s)

/-- Poison a sync counter (R278): nothing changes where it is poisoned already. -/
def poisonCtr (n i : Nat) (cls : Class) (s : State) : State :=
  let v := (coreOf s n).ctr i
  if v.poison.isSome then s
  else syncEvent n 3 cABANDONED i 0 (coreMod n (fun c => c.setCtr i { v with poison := some cls }) s)

/-- Poison the counter that a word would signal, if it names one. -/
def poisonSignal (n : Nat) (cls : Class) (s : State) (w : W128) : State :=
  let h := hdrOf w
  if h.samt = 0 then s else poisonCtr n h.sctr.toNat cls s

/-- The header wait of a word: satisfied, not yet, or on a poisoned counter (R274, R279). -/
inductive Wait where
  | ok | notYet
  | poisoned (c : Class)
deriving DecidableEq, Repr

/-- The state of a header wait. -/
def waitOf (c : Core) (w : W128) : Wait :=
  let h := hdrOf w
  if h.wamt = 0 then .ok
  else
    let v := c.ctr h.wctr.toNat
    match v.poison with
    | some k => .poisoned k
    | none => if h.wamt.toNat ≤ v.c.toNat then .ok else .notYet

/-- Take the signals that a header wait consumes (R274); a CARM that arms its own counter below its wait
leaves 0 (DEDUCED, assumption 83). -/
def takeWait (n : Nat) (w : W128) (s : State) : State :=
  let h := hdrOf w
  if h.wamt = 0 then s
  else
    let i := h.wctr.toNat
    coreMod n (fun c => let v := c.ctr i; c.setCtr i { v with c := BitVec.ofNat 12 (v.c.toNat - h.wamt.toNat) }) s

/-- Give back what a header wait consumed (R463). -/
def giveBack (n : Nat) (w : W128) (s : State) : State :=
  let h := hdrOf w
  if h.wamt = 0 then s
  else
    let i := h.wctr.toNat
    coreMod n (fun c =>
      let v := c.ctr i
      if v.poison.isSome then c
      else c.setCtr i { v with c := BitVec.ofNat 12 (min 4095 (v.c.toNat + h.wamt.toNat)) }) s

/-- A wait on a completion count: satisfied, not yet, or with the status of its poison (R281). -/
inductive CWait where
  | ok | notYet
  | bad (code : W16) (c : Class)
deriving DecidableEq, Repr

/-- The completion count that a handle names, seen from core `n` (R88). -/
def countOf (s : State) (n : Nat) (h : BitVec 16) : CCount :=
  let k := handleHolder h
  if k = 0 then (coreOf s n).cc (handleIndex h)
  else tabGet gcntReset (groomOf s (k - 1)).counts (handleIndex h)

/-- The state of a CWAIT's condition (R93, R281). -/
def cwaitOf (s : State) (n : Nat) (h : BitVec 16) (target : BitVec 32) : CWait :=
  let v := countOf s n h
  match v.poison with
  | some .saturated => .bad cCOUNT_SATURATED .stop
  | some (.abandoned k) => .bad cABANDONED k
  | none => if target.toNat ≤ v.n.toNat then .ok else .notYet

/-! ### Halts -/

/-- The class of a fault of a queue or context (R384): an instruction's STATE_REFUSED is stop-class;
an X-queue or filler fault is a report. -/
def faultClass (filler : Bool) (code : W16) : Class :=
  if filler then .report else if code = cSTATE_REFUSED then .stop else classOf code

/-- Serial numbers of the issued members of the Trough chain that an instruction belongs to: the chain
that holds it, or the queue's open chain, which an unissued TRG would join. -/
def chainSns (c : Core) (q : Q) (sn : Nat) (w : W128) : List Nat :=
  match c.chains.find? (fun ch => decide (ch.q = q) && ch.members.any (fun m => decide (m.sn = sn))) with
  | some ch => ch.members.map (fun m => m.sn)
  | none =>
    match c.chains.find? (fun ch => decide (ch.q = q) && !ch.closed) with
    | some ch => if opOf w = 0x30 then ch.members.map (fun m => m.sn) else []
    | none => []

/-- Set an event bit of CORE_EVENT; one that is enabled is delivered to the health monitor and to the
primary context (R75; no instruction is given that reads it there, assumption 79). -/
def coreRaise (n bit : Nat) (s : State) : State :=
  let s := raise (oCore n + 0x50) bit s
  if rf s (oCore n + 0x54) bit 1 = 1 then
    coreMod n (fun c => { c with events := c.events ||| BitVec.ofNat 32 (2 ^ bit) }) s
  else s

/-- A queue halts at an instruction (R71, R278). In a queue that is already halted or flushing, the
halt in force stays; the new fault is logged and its signal's counter poisoned. A refused instruction records
the state that refused it (R16). -/
def haltQueue (n : Nat) (q : Q) (sn : Nat) (code : W16) (cls : Class) (s : State) : State :=
  let qu := (coreOf s n).queue q
  let w := ((qu.ent? sn).map (fun e => e.word)).getD 0
  let fail (e : Ent) : Ent := if e.st = .waiting then e else { e with st := .failed, locks := [], descs := [] }
  let d := if code = cSTATE_REFUSED then Detail.slotRefused q (slotOf q sn) w (refState .core n s) else Detail.slot q (slotOf q sn)
  let sns := chainSns (coreOf s n) q sn w
  if qu.mode = .normal then
    let hit := qu.live.filter (fun e => decide (sn ≤ e.sn ∨ e.sn ∈ sns))
    let s := entMod n q sn fail s
    let s := queueMod n q (fun v => { v with mode := .halted, cls := cls }) s
    let s := regSet (oCore n + 0x20 + 4 * qNum q)
      (BitVec.ofNat 32 (code.toNat + slotOf q sn * 2 ^ 16)) s
    let s := coreRaise n (qNum q) s
    let s := record code .core n cls d s
    hit.foldl (fun s e => poisonSignal n cls s e.word) s
  else
    let s := entMod n q sn fail s
    let s := record code .core n cls d s
    (qu.live.filter (fun e => decide (e.sn = sn ∨ e.sn ∈ sns))).foldl (fun s e => poisonSignal n cls s e.word) s

/-- RUN bit of a context. -/
def ctxRun (s : State) (n : Nat) (x : Ctx) : Bool := rf s (oCore n + 0x60) (runBit x) 1 == 1

/-- The word at a context's PC. -/
def ctxWord (c : Core) (x : Ctx) : W128 := tabGet 0 c.iram (c.ctx x).pc.toNat

/-- A context faults or is refused (R84, R278): RUN reads 0, PC holds the instruction's index, the
code goes to the log, FILLER_REFUSED is set for the filler, and the counter that the instruction
would have signalled is poisoned. A refused instruction records the state that refused it (R16). The filler's running sum stays: members that are in X stay members of
the chain being enqueued (R65). -/
def ctxFault (n : Nat) (x : Ctx) (code : W16) (cls : Class) (s : State) : State :=
  let c := coreOf s n
  let pc := (c.ctx x).pc.toNat
  let w := ctxWord c x
  let d := if code = cSTATE_REFUSED then Detail.contextRefused x pc w (refState .core n s) else Detail.context x pc
  let s := rfSet (oCore n + 0x60) (runBit x) 1 0 s
  let s := ctxMod n x (fun v => { v with active := false, enq := none, bar := none, dset := false }) s
  let s := record code .core n cls d s
  let s := if x = .filler then coreRaise n 5 s else s
  poisonSignal n cls s w

/-- The oldest unissued instruction of a queue, when every older instruction has issued: the only one
that can be held waiting (R276). It lies first in the window. -/
def heldEnt (qu : Queue) : Option Ent := if qu.mode = .normal then qu.unissued.head? else none

/-- A held instruction whose wait is on something poisoned: the status it wakes with. -/
def heldBad (s : State) (n : Nat) (qu : Queue) : Option (Nat × W16 × Class) :=
  match heldEnt qu with
  | none => none
  | some e =>
    match waitOf (coreOf s n) e.word with
    | .poisoned k => some (e.sn, cABANDONED, k)
    | _ =>
      match bodyOf e.word with
      | .cwait h t =>
        if opOf e.word = 2 then
          (match cwaitOf s n h t with
           | .bad code k => some (e.sn, code, k)
           | _ => none)
        else none
      | _ => none

/-- A context stands at an instruction, with nothing of it begun. -/
def ctxStands (s : State) (n : Nat) (x : Ctx) : Bool :=
  let v := (coreOf s n).ctx x
  v.active && ctxRun s n x && v.enq.isNone && v.bar.isNone && !v.dset

/-- Wake one queue whose held instruction waits on something poisoned. -/
def wakeQueue (n : Nat) (s : State) (q : Q) : State :=
  match heldBad s n ((coreOf s n).queue q) with
  | some (sn, code, k) => haltQueue n q sn code (if q = .X then .report else k) s
  | none => s

/-- A joined context wakes with ABANDONED at its BAR when its device epoch breaks (R284). The BAR has no effect
(R84): what its header wait took is given back. -/
def breakOne (cls : Class) (s : State) (n : Nat) : State :=
  if ((coreOf s n).ctxP.bar = some .device) then
    ctxFault n .primary cABANDONED cls (giveBack n (ctxWord (coreOf s n) .primary) s)
  else s

/-- A device epoch breaks (R284): its joined contexts fault. -/
def breakFaults (cls : Class) (s : State) : State := (List.range 32).foldl (breakOne cls) s

/-- Wake a context that stands at a wait on a poisoned counter (R279). -/
def wakeCtx (n : Nat) (s : State) (x : Ctx) : State :=
  if ctxStands s n x then
    match waitOf (coreOf s n) (ctxWord (coreOf s n) x) with
    | .poisoned k =>
      let cls := if x = .filler then .report else k
      let s := ctxFault n x cABANDONED cls s
      if x = .primary then breakFaults cls s else s
    | _ => s
  else s

/-- One round of wakes in a core. -/
def wakeRound (n : Nat) (s : State) : State :=
  [Ctx.primary, Ctx.filler].foldl (wakeCtx n) ([Q.F, Q.B, Q.W, Q.X].foldl (wakeQueue n) s)

/-- Every wake that a poisoning causes in a core (R279). Each round halts at least one of the four
queues and two contexts or changes nothing, so six rounds reach the end. -/
def settleCore (n : Nat) (s : State) : State :=
  (List.range 6).foldl (fun s _ => wakeRound n s) s

/-- The cores whose primary context had joined the device epoch in `s` and has not in `t`: a break of the
epoch stopped them. -/
def brokenBy (s t : State) : List Nat :=
  (List.range 32).filter (fun m =>
    decide ((coreOf s m).ctxP.bar = some .device ∧ (coreOf t m).ctxP.bar ≠ some .device))

/-- The wakes in every core that a break between `s` and `t` stopped (R279, R284). -/
def settleBroken (s t : State) : State := (brokenBy s t).foldl (fun t m => settleCore m t) t

/-- Every wake that a poisoning in core `n` causes, those of a break of its device epoch in the other cores
with it (R279, R284). -/
def settle (n : Nat) (s : State) : State := settleBroken s (settleCore n s)

/-- A device epoch breaks, with every wake that follows (R279, R284). -/
def breakDevice (cls : Class) (s : State) : State := settleBroken s (breakFaults cls s)

/-- The wakes of every core. -/
def settleAll (s : State) : State := (List.range 32).foldl (fun s n => settle n s) s

/-- A queue halts at an instruction, with every wake that follows. -/
def halt (n : Nat) (q : Q) (sn : Nat) (code : W16) (s : State) : State :=
  settle n (haltQueue n q sn code (faultClass (decide (q = .X)) code) s)

/-- A queue halts with ABANDONED or COUNT_SATURATED at a wait, carrying the class of the event that
poisoned (R384). -/
def haltWait (n : Nat) (q : Q) (sn : Nat) (code : W16) (k : Class) (s : State) : State :=
  settle n (haltQueue n q sn code (if q = .X then .report else k) s)

/-- A context faults, with every wake that follows and the break of its device epoch (R284). -/
def ctxStop (n : Nat) (x : Ctx) (code : W16) (cls : Class) (s : State) : State :=
  let cls := if x = .filler then .report else cls
  let t := ctxFault n x code cls s
  let t := if x = .primary then breakFaults cls t else t
  settleBroken s (settleCore n t)

/-! ### Signals -/

/-- Apply a signal (R273, R279): the state, and whether it would pass 4,095. -/
def signal (n i amt : Nat) (s : State) : State × Bool :=
  if amt = 0 then (s, false)
  else
    let v := (coreOf s n).ctr i
    if v.poison.isSome then
      (syncEvent n 4 (BitVec.setWidth 16 (Config.freeWord s.free)) i 0
        (regAdd (oCore n + 0x1_0450) 1 (bumpFree s)), false)
    else if 4095 < v.c.toNat + amt then (syncEvent n 0 cCOUNTER_OVERFLOW i 0 s, true)
    else (coreMod n (fun c => c.setCtr i { v with c := BitVec.ofNat 12 (v.c.toNat + amt) }) s, false)

/-- The stall that a TMUL takes at its point in the order of its queue, where its number or queue order
fixes it (R105): the one it names, or the lowest on which the queue holds no open chain. -/
def chainStall (v : Tab (Option (TmulF × Nat))) (f : TmulF) : Option Nat :=
  if f.any = 1 then (List.range 8).find? (fun i => (tabGet none v i).isNone) else some f.stall.toNat

/-- The open chains of a queue after one more instruction in its order (R105, R131). -/
def chainStep (v : Tab (Option (TmulF × Nat))) (w : W128) : Tab (Option (TmulF × Nat)) :=
  if opOf w ≠ 0x20 then v
  else
    match bodyOf w with
    | .tmul f =>
      (match chainStall v f with
       | none => v
       | some i =>
         if f.chain = 1 then tabSet none v i (some (f, f.k.toNat))
         else if f.chain = 2 then tabSet none v i ((tabGet none v i).map (fun x => (x.1, x.2 + f.k.toNat)))
         else if f.chain = 3 then tabSet none v i none
         else v)
    | _ => v

/-- The open chains of a queue at the point in its order of the instruction with serial number `sn`. -/
def chainView (qu : Queue) (sn : Nat) : Tab (Option (TmulF × Nat)) :=
  (qu.older sn).foldl (fun v e => chainStep v e.word) qu.chains

/-- Retire from the front of a queue every completed instruction, applying its signal (R48). A flush
discards the held signals (R72). -/
def retireN (n : Nat) (q : Q) : Nat → State → State
  | 0, s => s
  | k + 1, s =>
    let qu := (coreOf s n).queue q
    match qu.live with
    | [] => s
    | e :: rest =>
      if e.st ≠ .done then s
      else if qu.mode = .flushing then retireN n q k (queueMod n q (fun v => { v with live := rest }) s)
      else
        let h := hdrOf e.word
        let r := signal n h.sctr.toNat h.samt.toNat s
        if r.2 then halt n q e.sn cCOUNTER_OVERFLOW r.1
        else retireN n q k (queueMod n q (fun v => { v with live := rest, chains := chainStep v.chains e.word }) r.1)

/-- Retire all that can retire. -/
def retire (n : Nat) (q : Q) (s : State) : State := retireN n q ((coreOf s n).queue q).live.length s

/-- An instruction completes: its locks are released and its signal retires in order (R48, R54). -/
def complete (n : Nat) (q : Q) (sn : Nat) (s : State) : State :=
  retire n q (entMod n q sn (fun e => if e.st = .issued then { e with st := .done, locks := [], descs := [] } else e) s)

/-! ### Completion counts -/

/-- An increment of a core's completion count (R281). -/
def ccntAdd (n i : Nat) (s : State) : State :=
  let v := (coreOf s n).cc i
  if v.poison.isSome then regAdd (oCore n + 0x1_0450) 1 s
  else if v.n = 0xFFFFFFFF then
    let s := coreMod n (fun c => c.setCc i { v with poison := some .saturated }) s
    let s := syncEvent n 5 cCOUNT_SATURATED i 1 (raise (oCore n + 0x1_0440) 3 s)
    settle n (record cCOUNT_SATURATED .core n .stop (.num i) s)
  else coreMod n (fun c => c.setCc i { v with n := v.n + 1 }) s

/-- A Groom halts at its current instruction (R83, R270); a refused one records the state that refused it
(R16, R253). -/
def groomHalt (k : Nat) (code : W16) (pc : Nat) (cls : Class) (s : State) : State :=
  let w := tabGet 0 (groomOf s k).uram pc
  let d := if code = cSTATE_REFUSED then Detail.groomRefused pc w (refState .groom k s) else Detail.num pc
  let s := groomMod k (fun g => { g with active := false, halted := true, gop := none }) (countOn (oGroom k + 0x080) s)
  let s := regSet (oGroom k + 0x020) (BitVec.ofNat 32 (code.toNat + pc % 4096 * 2 ^ 16)) s
  let s := raise (oGroom k + 0x060) 0 s
  record code .groom k cls d s

/-- PC of a Groom. -/
def groomPc (s : State) (k : Nat) : Nat := rf s (oGroom k + 0x00C) 0 12

/-- A Groom held on a GWAIT whose count is poisoned halts with ABANDONED (R282). -/
def wakeGroom (s : State) (k : Nat) : State :=
  let g := groomOf s k
  let w := tabGet 0 g.uram (groomPc s k)
  if g.active && !g.halted && g.gop.isNone && decide (opOf w = 0xC0) then
    match bodyOf w with
    | .gwait h _ =>
      (match (tabGet gcntReset g.counts (handleIndex h)).poison with
       | some (.abandoned c) => groomHalt k cABANDONED (groomPc s k) c s
       | some .saturated => groomHalt k cABANDONED (groomPc s k) .stop s
       | none => s)
    | _ => s
  else s

/-- An increment of one Groom's count, with the flag the copy carries (R254, R281). -/
def gcntAdd (i : Nat) (flag : Bool) (s : State) (k : Nat) : State :=
  let g := groomOf s k
  let v := tabGet gcntReset g.counts i
  let nf := v.nf || (flag && decide (i < 128))
  let put (v' : CCount) : State := groomSet k { g with counts := tabSet gcntReset g.counts i v' } s
  if v.poison.isSome then s
  else if v.n = 0xFFFFFFFF then
    wakeGroom (settleAll (record cCOUNT_SATURATED .groom k .stop (.num i)
      (put { v with poison := some .saturated, nf := nf }))) k
  else put { v with n := v.n + 1, nf := nf }

/-- The increment that a completed copy into a tensor makes (R95, R254): holder 0 is core `n`. -/
def countAdd (n : Nat) (h : BitVec 16) (flag : Bool) (s : State) : State :=
  let k := handleHolder h
  let i := handleIndex h
  if k = 0 then ccntAdd n i s
  else if k ≤ 8 then
    (if i < 128 then (List.range 8).foldl (gcntAdd i flag) s else gcntAdd i flag s (k - 1))
  else s

/-! ### RUN bits -/

/-- A RUN bit of core `n` is 1. -/
def coreRunAny (s : State) (n : Nat) : Bool :=
  rf s (oCore n + 0x004) 0 1 == 1 || rf s (oCore n + 0x060) 0 2 != 0

/-- A RUN bit of the device is 1 (R312): the device is not stopped. -/
def anyRun (s : State) : Bool :=
  (List.range 32).any (coreRunAny s) || (List.range 8).any (fun k => rf s (oGroom k + 0x004) 0 1 == 1)

end Sys2Proof.Machine
end

