-- ==== Sys2Proof/Machine/Deliver.lean ====
section
/-!
DEFINITION. What the destination end of a copy does, local or remote (R95 to R97): combining bytes,
block metadata (R190, R223, R236, R237), and the marks a copy leaves in its descriptor (R185, R193).
-/
namespace Sys2Proof.Machine

/-- Apply a function to two lists of bytes by words of `k` bytes; the positions of words whose result
is non-finite are returned beside the bytes. -/
def wordsOp (k : Nat) (f : Nat → Nat → Nat × Bool) : Nat → Nat → List Byte → List Byte → List Byte × List Nat
  | 0, _, _, _ => ([], [])
  | n + 1, i, a, b =>
    let r := f (leNat (a.take k)) (leNat (b.take k))
    let t := wordsOp k f n (i + k) (a.drop k) (b.drop k)
    (leBytes k r.1 ++ t.1, if r.2 then i :: t.2 else t.2)

/-- The greater of two BF16 codes (R97). -/
def maxBf16 (a b : Nat) : Nat × Bool :=
  let c := encode fBF16 0 (vMax (decode fBF16 0 a) (decode fBF16 0 b))
  (c.code, c.nf)

/-- The bytes that a copy leaves at its destination, and the offsets of non-finite results (R97). An OR8 works on
bytes, so no result of it counts as a non-finite element, whatever the format (the spec does not say: DESIGN CHOICE,
assumption 100). -/
def combine (op : Nat) (old new : List Byte) : List Byte × List Nat :=
  match op with
  | 2 => wordsOp 8 (fun d s => let r := addX64 s d; (r, decide (2 ^ 63 ≤ r))) (new.length / 8) 0 old new
  | 4 => wordsOp 2 maxBf16 (new.length / 2) 0 old new
  | 5 => (List.zipWith (fun a b => a ||| b) old new, [])
  | _ => (new, [])

/-- A copy that reads its destination first (R97). -/
abbrev combines (op : Nat) : Bool := decide (op = 2 ∨ op = 4 ∨ op = 5)

/-- TAG, SAT and NF of the bytes `[lo, hi)` of a copy (R190, R223): the tag of the unit that supplies
the lowest byte, the flags ORed over every unit, and the word itself where one block covers exactly
these bytes. -/
def metaOver (m : CopyMeta) (lo hi : Nat) : W16 × Bool × Bool × Option W64 :=
  let i0 := (lo + m.start) / m.span
  let i1 := (hi - 1 + m.start) / m.span
  let us := (List.range (i1 - i0 + 1)).map (fun i => m.units.getD (i0 + i) 0)
  (mTag (m.units.getD i0 0), us.any mSat, us.any mNf,
    if m.blocks = true ∧ i0 = i1 ∧ (lo + m.start) % m.span = 0 ∧ hi - lo = m.span then some (m.units.getD i0 0)
    else none)

/-- The sidecar entries of Manger bytes that a copy writes (R223). -/
def stampCopy (c off n op : Nat) (m : CopyMeta) (bad : List Nat) (s : State) : State :=
  (granules off n).foldl (fun s g =>
    let lo := max (g * 8192) off - off
    let hi := min (g * 8192 + 8192) (off + n) - off
    let v := metaOver m lo hi
    let nf := v.2.2.1 || bad.any (fun b => decide (lo ≤ b ∧ b < hi))
    let old := sideGet s c g
    if combines op ∨ op = 3 then sideSet c g ⟨old.tag, old.sat || v.2.1, old.nf || nf⟩ s
    else if hi - lo = 8192 then sideSet c g ⟨v.1, v.2.1, nf⟩ s
    else sideSet c g ⟨v.1, old.sat || v.2.1, old.nf || nf⟩ s) s

/-- The core and offset of an address in a Manger window (R219). -/
def mangerOf (a : Nat) : Option (Nat × Nat) :=
  if mangerBase 0 ≤ a ∧ a < windowTop then some ((a - mangerBase 0) / 0x200_0000, (a - mangerBase 0) % 0x200_0000)
  else none

/-- Stamp the sidecar where a descriptor's data lies in a Manger window (R223). -/
def stampWindow (a n op : Nat) (m : CopyMeta) (bad : List Nat) (s : State) : State :=
  match mangerOf a with
  | some (c, off) => stampCopy c off n op m bad s
  | none => s

/-- Deliver a copy to the Manger of core `c` (R97, R223): a fault, or the state. -/
def deliverManger (c off op : Nat) (data : List Byte) (m : CopyMeta) (s : State) : Option W16 × State :=
  let a := mangerBase c + off
  let r := if combines op then readErrors a data.length s else (none, s)
  match r.1 with
  | some code => (some code, r.2)
  | none =>
    let x := combine op (memRead r.2 a data.length) data
    (none, stampCopy c off data.length op m x.2 (memWrite a x.1 r.2))

/-! ### Landings (R321) -/

/-- Bytes that a landing covers. -/
abbrev Landing.bytes (l : Landing) : Nat := l.len * 256
/-- Bytes of a block of the landing's descriptor. -/
abbrev Landing.bb (l : Landing) : Nat := max 256 (blockBytes (dFMT l.desc))
/-- Destination blocks of a landing. -/
abbrev Landing.nb (l : Landing) : Nat := ceilDiv l.bytes l.bb
/-- Metadata flits of a landing (R300). -/
abbrev Landing.nMeta (l : Landing) : Nat := max 1 (ceilDiv l.nb 31)

/-- The grains of block `k` of a landing, within the copy. -/
def Landing.grainsOf (l : Landing) (k : Nat) : List Nat :=
  (List.range (min (l.bb / 256) (l.len - k * (l.bb / 256)))).map (fun j => k * (l.bb / 256) + j)

/-- First byte of the memory that a landing writes. -/
abbrev Landing.base (l : Landing) : Nat := dBASE l.desc + l.first * l.bb

/-- Every flit of a landing has been taken. -/
def Landing.whole (l : Landing) : Bool := decide (l.got.length = l.len ∧ l.metaGot.length = l.nMeta)

/-- Block `k` of a landing has been closed: its grains are written and its metadata word is there (R237). -/
def Landing.closed (l : Landing) (k : Nat) : Bool :=
  (l.grainsOf k).all (fun j => decide (j ∈ l.got)) && (tabGet none l.metas k).isSome

/-- Another landing, than one that `mine` names, has written grains of the bytes `[a, a + n)` and has not yet
closed their block: the block's CHECK is that of its old bytes, so a copy that combines with it cannot verify it
(the spec does not say: DESIGN CHOICE, assumption 103). -/
def midway (s : State) (mine : Landing → Bool) (a n : Nat) : Bool :=
  s.fab.landings.any (fun x => !mine x && !x.failed && x.got.any (fun g =>
    decide (a ≤ x.base + 256 * g ∧ x.base + 256 * g < a + n) && !x.closed (256 * g / x.bb)))

/-- The block of a descriptor matches its CHECK (R235, R236). -/
def blockGood (s : State) (d : Dsc) (b : Nat) (data : List Byte) : Bool :=
  let w := metaRead s d b
  decide (checkOf data (metaLo w) = mCheck w)

/-- Bytes of block `b` of a descriptor. -/
def blockData (s : State) (d : Dsc) (b : Nat) : List Byte :=
  memRead s (dBASE d + b * blockBytes (dFMT d)) (blockBytes (dFMT d))

/-- Write the metadata of a destination block whose last grain has been written (R190, R237). `part` says
that the copy wrote only part of the block, and `verified` that the source's CHECK was verified. A whole
block that a MOVE or an MCAST brings keeps its source's TAG, SAT, NF and FMT as they are; one that it writes in
part takes the source's TAG, and the source's SAT and NF are ORed into the old word (the spec does not speak of a
part block: DESIGN CHOICE, assumption 100). -/
def blockMeta (d : Dsc) (b op hint : Nat) (v : W16 × Bool × Bool × Option W64) (nf part verified : Bool) (s : State) : State :=
  let old := metaRead s d b
  let keep : Bool := decide (1 < op) || part
  let whole := if keep then none else v.2.2.2
  let tag := if op ≤ 1 then v.1 else mTag old
  let lo := match whole with
    | some w => metaLo w
    | none => metaLo (metaWord tag (v.2.1 || (keep && mSat old)) (v.2.2.1 || nf || (keep && mNf old)) (dFMT d) 0)
  let check : W32 := match whole with
    | some w => if dCSUM d = 0 then 0 else if verified then mCheck w else checkOf (blockData s d b) lo
    | none => if dCSUM d = 0 then 0 else checkOf (blockData s d b) lo
  metaWrite d b hint (BitVec.ofNat 64 (lo + check.toNat * 2 ^ 32))
    (if keep then metaAccess d b 1 hint false s else s)

/-- The metadata of every block that a copy of `n` bytes delivers from block `first` on. The second
result says whether any delivered block is SAT: R185's flag is the one that the copy brings, also where the
copy combines (DEDUCED, assumption 89). -/
def deliverMeta (d : Dsc) (first n op hint : Nat) (m : CopyMeta) (bad : List Nat) (verified : Bool) (s : State) : State × Bool :=
  let bb := blockBytes (dFMT d)
  (List.range (ceilDiv n bb)).foldl (fun (r : State × Bool) k =>
    let lo := k * bb
    let hi := min (lo + bb) n
    let v := metaOver m lo hi
    (blockMeta d (first + k) op hint v (bad.any (fun b => decide (lo ≤ b ∧ b < hi))) (decide (hi - lo < bb)) verified r.1,
      r.2 || v.2.1)) (s, false)

/-- The errors that the destination end meets when it reads what a copy combines with (R97): data, then
the metadata words whose flags it ORs into, those of every block or of a last block written in part. -/
def destErrors (d : Dsc) (first n op : Nat) (s : State) : Option W16 × State :=
  let bb := blockBytes (dFMT d)
  let nb := ceilDiv n bb
  let r := if combines op then readErrors (dBASE d + first * bb) n s else (none, s)
  match r.1 with
  | some k => (some k, r.2)
  | none =>
    if combines op then readErrors (dMETA d + 8 * first) (8 * nb) r.2
    else if n % bb ≠ 0 then readErrors (dMETA d + 8 * (first + nb - 1)) 8 r.2
    else (none, r.2)

/-- Deliver a copy to a local descriptor (R95, R97, R229, R236, R237, R240): a fault, whether any
delivered block is SAT, and the state. -/
def deliverDesc (d : Dsc) (first op hint : Nat) (data : List Byte) (m : CopyMeta) (verified : Bool) (s : State) :
    Option W16 × Bool × State :=
  let bb := blockBytes (dFMT d)
  let a := dBASE d + first * bb
  let n := data.length
  let r := destErrors d first n op s
  match r.1 with
  | some code => (some code, false, r.2)
  | none =>
    let s := if combines op then hbmAccess a n hint false r.2 else r.2
    if combines op = true ∧ dCSUM d = 1 ∧
        (List.range (ceilDiv n bb)).any (fun k => !midway s (fun _ => false) (a + k * bb) bb &&
          !blockGood s d (first + k) (blockData s d (first + k))) then
      (some cCSUM_FAIL, false, s)
    else
      let x := combine op (memRead s a n) data
      let s := hbmAccess a n hint true (memWrite a x.1 s)
      let t := deliverMeta d first n op hint m x.2 verified s
      (none, t.2, stampWindow a n op m x.2 t.1)

/-- The marks of a completed copy in the descriptor it was delivered to (R185, R193): SCALE, HIST_LEN and
HIST_POS are those of the copy `d0` of the descriptor that the copy uses (R90, R321). -/
def copyMarks (n di : Nat) (d0 : Dsc) (sat flag : Bool) (s : State) : State :=
  coreMod n (fun c =>
    let d := c.dsc di
    let d := if sat ∧ 0 < dHLEN d0 then histRaise d (dHPOS d0) (scaleUp d0) else d
    c.setDsc di (nfRaise d flag)) s

end Sys2Proof.Machine
end

