-- ==== Sys2Proof/Machine/Landing.lean ====
section
/-!
DEFINITION. The destination end of a remote copy: flit headers (R300), the paddock's membership (R311 to
R313), landings (R321), and the ranked fold (R361 to R365).
-/
namespace Sys2Proof.Machine

/-! ### Flit headers (R300) -/

/-- A field of a flit's header. -/
abbrev hF (f : Flit) (lo w : Nat) : Nat := bits f.hdr.toNat lo w
abbrev fKind (f : Flit) : Nat := hF f 126 2
abbrev fVc (f : Flit) : Nat := hF f 124 2
abbrev fDst (f : Flit) : Nat := hF f 111 13
abbrev fMid (f : Flit) : Nat := hF f 98 13
abbrev fSrc (f : Flit) : Nat := hF f 85 13
abbrev fPh (f : Flit) : Nat := hF f 84 1
abbrev fCore (f : Flit) : Nat := hF f 79 5
abbrev fDesc (f : Flit) : Nat := hF f 67 12
abbrev fFirst (f : Flit) : Nat := hF f 56 11
abbrev fOff (f : Flit) : Nat := hF f 40 16
abbrev fLen (f : Flit) : Nat := hF f 24 16
abbrev fOp (f : Flit) : Nat := hF f 21 3
abbrev fTag (f : Flit) : Nat := hF f 16 5
abbrev fSeq (f : Flit) : Nat := hF f 0 16

/-- Set a field of a flit's header. -/
def hSet (f : Flit) (lo w v : Nat) : Flit := { f with hdr := BitVec.ofNat 128 (putBits f.hdr.toNat lo w v) }

/-! ### The paddock (R311 to R313) -/

/-- The device's hall address (R311). -/
def haddr (s : State) : Nat := rf s oCommon 6 7 * 64 + s.boot.straps.slotId.toNat

/-- The device's own rank (R329). -/
def ownRank (s : State) : Nat := rf s (oCommon + 4) 16 13

/-- Devices of the paddock (R329). -/
def devices (s : State) : Nat := rf s (oCommon + 8) 0 14

/-- The hall address of a rank, where its map entry is VALID (R312). -/
def haddrOf (s : State) (r : Nat) : Option Nat :=
  let w := (tabGet 0 s.fab.map r).toNat
  if bits w 31 1 = 1 then some (bits w 0 13) else none

/-- The rank of a hall address (R312). -/
def rankOf (s : State) (h : Nat) : Option Nat :=
  (s.fab.map.find? (fun e => decide (bits e.2.toNat 31 1 = 1 ∧ bits e.2.toNat 0 13 = h))).map (fun e => e.1)

/-- A hall address is a member of the paddock (R312). -/
def member (s : State) (h : Nat) : Bool := (rankOf s h).isSome

/-- The VALID entries of a table below the first that is not VALID (R322, R329). -/
def validPrefix (t : Tab W32) (base : Nat) : Nat → List Nat
  | 0 => []
  | n + 1 =>
    let w := (tabGet 0 t base).toNat
    if bits w 31 1 = 1 then bits w 0 13 :: validPrefix t (base + 1) n else []

/-- Members of a multicast group (R322). -/
def groupMembers (s : State) (g : Nat) : List Nat := validPrefix s.fab.group (g * 64) 64

/-- Positions of an intermediate set (R315, R329). -/
def midset (s : State) (i : Nat) : List Nat := validPrefix s.fab.midset (i * 1024) 1024

/-! ### Collective entries (R361, R383) -/

/-- A register of a collective entry, by offset in the block. -/
def collReg (s : State) (e o : Nat) : Nat := (tabGet 0 s.fab.coll (e * 16 + o / 4)).toNat

/-- An entry is in force. -/
abbrev collValid (s : State) (e : Nat) : Bool := bits (collReg s e 4) 31 1 == 1
/-- P of an entry. -/
abbrev collP (s : State) (e : Nat) : Nat := bits (collReg s e 0x10) 13 8 + 1

/-- The order list of an entry. -/
def collOrder (s : State) (e : Nat) : List Nat :=
  (List.range (collP s e)).map (fun k => (tabGet 0 s.fab.order (bits (collReg s e 0x10) 0 13 + k)).toNat % 8192)

/-- Bytes of the cursor area (R367). -/
def cursorArea (nblk : Nat) : Nat := ceilDiv (nblk * 128) (2 ^ 20) * 2 ^ 20

/-- Staging base of an entry. -/
def stageBase (s : State) (e : Nat) : Nat :=
  bits (collReg s e 0x14) 8 24 * 256 + bits (collReg s e 0x18) 0 16 * 2 ^ 32

/-- Staging size of an entry, in bytes. -/
def stageSize (s : State) (e : Nat) : Nat := bits (collReg s e 0x1C) 0 10 * 2 ^ 20

/-- Grains that an entry can stage: 272 B each, beyond the cursor area (R367). -/
def stageCap (s : State) (e : Nat) : Nat := (stageSize s e - cursorArea (bits (collReg s e 0xC) 0 16)) / 272

/-- The entry that a ranked copy matches (R361). -/
def collMatch (s : State) (core di first nb : Nat) : Option Nat :=
  (List.range 256).find? (fun e => collValid s e && decide (bits (collReg s e 4) 0 5 = core ∧
    bits (collReg s e 4) 5 12 = di ∧ collReg s e 8 ≤ first ∧
    first + nb ≤ collReg s e 8 + bits (collReg s e 0xC) 0 16))

/-! ### Landings (R321) -/

/-- A fault of a flit that was acknowledged before its grain could be folded: where its response goes, the
flit's sequence space and number, and the code (R100, R321). -/
structure Late where
  dst : Nat
  space : Nat
  seq : Nat
  code : W16
deriving DecidableEq, Repr

/-- What a flit for delivery meets: it is taken, with the late faults that this brings about; it finds no
room; or it meets a fault. -/
inductive LandRes where
  | ok (late : List Late)
  | busy
  | fault (code : W16)
deriving DecidableEq, Repr

/-- A landing has the key of a flit. -/
abbrev Landing.is (l : Landing) (src core tag : Nat) : Bool := decide (l.src = src ∧ l.core = core ∧ l.tag = tag)

/-- The landing of a key. -/
def landOf (s : State) (src core tag : Nat) : Option Landing := s.fab.landings.find? (fun l => l.is src core tag)

/-- Replace a landing. -/
def landPut (l : Landing) (s : State) : State :=
  { s with fab := { s.fab with landings := s.fab.landings.map (fun x => if x.is l.src l.core l.tag then l else x) } }

/-- Free a landing. -/
def landFree (l : Landing) (s : State) : State :=
  { s with fab := { s.fab with landings := s.fab.landings.filter (fun x => !x.is l.src l.core l.tag) } }

/-- A copy's operation is a mismatch with its destination (R97, R237). -/
def opMismatch (op : Nat) (d : Dsc) (n : Nat) : Bool :=
  decide ((op = 2 ∧ dFMT d ≠ fX64) ∨ ((op = 3 ∨ op = 4) ∧ dFMT d ≠ fBF16) ∨
    (op = 5 ∧ (dFMT d = fAX16 ∨ dFMT d = fLG16)) ∨ (dCSUM d = 1 ∧ n % blockBytes (dFMT d) ≠ 0))

/-- The checks of a landing's descriptor (R90, R100, R220, R244). -/
def landCheck (s : State) (l : Landing) (op : Option Nat) : Option W16 :=
  let bad := match op with
    | some o => opMismatch o l.desc l.bytes
    | none => false
  match descCheck l.desc bad l.first l.nb with
  | some c => some c
  | none =>
    if !descWindowOk s none l.desc l.first l.nb then some cADDR_WINDOW
    else if !handleOk (dCCOUNT l.desc) then some cHANDLE_RANGE
    else if descTouches (inTest s) l.desc l.first l.nb then some cSTATE_REFUSED
    else none

/-- A grain of a landing is the first of a checksummed block that it combines with, which is read and verified
whole before it (R236). -/
def verifies (l : Landing) (op off : Nat) : Bool :=
  combines op && decide (dCSUM l.desc = 1) && l.got.all (fun g => decide (256 * g / l.bb ≠ 256 * off / l.bb))

/-- The memory that a flit of a landing reads and writes, its grain with the block that it verifies, or the
metadata words it brings, touches a stack that `p` picks. -/
def landTouches (p : Nat → Bool) (l : Landing) (f : Flit) : Bool :=
  let words (i n : Nat) : Bool := touches p (dMETA l.desc + 8 * (l.first + i)) (8 * n)
  if fOp f = 7 then words (31 * fOff f) (min 31 (l.nb - 31 * fOff f))
  else
    (if verifies l (fOp f) (fOff f) then touches p (l.base + 256 * fOff f / l.bb * l.bb) l.bb
     else touches p (l.base + 256 * fOff f) 256) || words (256 * fOff f / l.bb) 1

/-- The destination records a fault and marks the landing failed; its staged grains are discarded (R100,
R321, R365). -/
def landFault (l : Landing) (code : W16) (s : State) : State :=
  let mine (x : Staged) : Bool := decide (x.src = l.src ∧ x.core = l.core ∧ x.tag = l.tag)
  let got := (s.fab.staged.filter mine).foldl (fun t x => setAdd t x.off) l.got
  let s := landPut { l with failed := true, got := got }
    { s with fab := { s.fab with staged := s.fab.staged.filter (fun x => !mine x) } }
  let s := if code = cCOLL_MISSING then raise (oColl + 0x200) 0 s
    else if code = cCOLL_DOUBLE then raise (oColl + 0x200) 1 s else s
  if code = cCOLL_MISSING ∨ code = cCOLL_DOUBLE then record code .coll (l.core) (classOf code) (.num2 l.di l.first) s
  else record code .core l.core (faultClass false code) (.num2 l.di l.first) s

/-- The bytes of block `k` of a landing, as they arrived. -/
def Landing.blockBytesOf (l : Landing) (k : Nat) : List Byte :=
  (List.range (l.bb / 256)).flatMap (fun j => tabGet [] l.data (k * (l.bb / 256) + j))

/-- A landing whose flits have all been taken is freed; one that has not failed completes (R95, R321). -/
def landFinish (src core tag : Nat) (s : State) : State :=
  match landOf s src core tag with
  | none => s
  | some l =>
    if l.whole = false then s
    else if l.failed then landFree l s
    else
      let flag := (l.copyWord.getD 0).getLsbD 0
      countAdd core (dCCOUNT l.desc) flag (landFree l (copyMarks core l.di l.desc l.sat flag s))

/-- Set the entry of the granule that a written grain of a landing reaches (R223), once the metadata word of
the grain's block is there. A MOVE or an MCAST that covers the granule replaces its flags with its first
grain. -/
def landStamp (l : Landing) (j : Nat) (s : State) : Landing × State :=
  match tabGet none l.metas (256 * j / l.bb), mangerOf (l.base + 256 * j) with
  | some w, some (c, off) =>
    if j ∈ l.stamped ∨ j ∉ l.got then (l, s)
    else
      let g := off / 8192
      let start := off - 256 * j
      let lo := max (g * 8192) start
      let move : Bool := decide (l.op.getD 0 ≤ 1)
      let fresh : Bool := move && decide (min (g * 8192 + 8192) (start + l.bytes) - lo = 8192) &&
        l.stamped.all (fun i => decide ((start + 256 * i) / 8192 ≠ g))
      let old := sideGet s c g
      let tag := match (if move then tabGet none l.metas ((lo - start) / l.bb) else none) with
        | some v => mTag v
        | none => old.tag
      let nf := mNf w || l.bad.any (fun b => decide (256 * j ≤ b ∧ b < 256 * j + 256))
      ({ l with stamped := setAdd l.stamped j },
        sideSet c g ⟨tag, (!fresh && old.sat) || mSat w, (!fresh && old.nf) || nf⟩ s)
  | _, _ => (l, s)

/-- Close block `k` of a landing, once its grains and its metadata word are there: the block is verified and
its metadata are written (R236, R237). -/
def landBlock (l : Landing) (k : Nat) (s : State) : Option W16 × Landing × State :=
  match tabGet none l.metas k with
  | none => (none, l, s)
  | some w =>
    let lo := k * l.bb
    let hi := min (lo + l.bb) l.bytes
    let op := l.op.getD 0
    let csum := (l.copyWord.getD 0).getLsbD 1
    if (l.grainsOf k).any (fun j => decide (j ∉ l.got)) then (none, l, s)
    else
      let r := if 1 < op ∨ hi - lo < l.bb then readErrors (dMETA l.desc + 8 * (l.first + k)) 8 s else (none, s)
      match r.1 with
      | some c => (some c, l, r.2)
      | none =>
        if csum = true ∧ checkOf (l.blockBytesOf k) (metaLo w) ≠ mCheck w then (some cCSUM_FAIL, l, r.2)
        else
          (none, { l with sat := l.sat || mSat w },
            blockMeta l.desc (l.first + k) op l.hint (mTag w, mSat w, mNf w, some w)
              (l.bad.any (fun b => decide (lo ≤ b ∧ b < hi))) (decide (hi - lo < l.bb)) csum r.2)

/-- What a flit of a landing brings about beyond its own bytes: entries of the granules of grains `js`, the
metadata of blocks `ks`, and the landing's end (R223, R237, R321). -/
def landSettle (src core tag : Nat) (js ks : List Nat) (s : State) : Option W16 × State :=
  match landOf s src core tag with
  | none => (none, s)
  | some l =>
    let r := js.foldl (fun (r : Landing × State) j => landStamp r.1 j r.2) (l, s)
    let t := ks.foldl (fun (t : Option W16 × Landing × State) k =>
      if t.1.isSome then t else landBlock t.2.1 k t.2.2) (none, r.1, r.2)
    match t.1 with
    | some c => (some c, landFinish src core tag (landFault t.2.1 c t.2.2))
    | none => (none, landFinish src core tag (landPut t.2.1 t.2.2))

/-! ### The ranked fold (R362, R363) -/

/-- One element of a fold. -/
def foldElem (first : Bool) (a c : Nat) : Conv :=
  encode fBF16 0 (vAdd (if first then vZeroBf else decode fBF16 0 a) (decode fBF16 0 c))
where
  /-- +0. -/
  vZeroBf : Val := .fin dyZero

/-- Fold one grain at a position (R228, R362): a fault, whether an element saturated, and the state. -/
def foldGrain (d : Dsc) (abs pos hint : Nat) (data : List Byte) (s : State) : Option W16 × Bool × State :=
  let a := dBASE d + abs * 256
  let b := abs / 128
  let r := if pos = 0 then (none, s) else readErrors a 256 s
  match r.1 with
  | some c => (some c, false, r.2)
  | none =>
    let r := readErrors (dMETA d + 8 * b) 8 r.2
    match r.1 with
    | some c => (some c, false, r.2)
    | none =>
      let s := if pos = 0 then r.2 else hbmAccess a 256 hint false r.2
      let old := elems fBF16 (memRead s a 256)
      let cs := List.zipWith (foldElem (pos == 0)) old (elems fBF16 data)
      let sat := cs.any (fun c => c.sat)
      let nf := cs.any (fun c => c.nf)
      let s := hbmAccess a 256 hint true (memWrite a (unelems fBF16 (cs.map (fun c => c.code))) s)
      let s := blockMeta d b 3 hint (0, sat, nf, none) false false false s
      (none, sat, regAdd64 (oColl + 0x210) 1 (stampWindow a 256 3 ⟨false, 256, 0, [metaWord 0 sat nf 0 0]⟩ [] s))

/-- Folds made for a destination grain of an entry; its cursor is this modulo P (R363). -/
def foldsOf (s : State) (e g : Nat) : Nat := tabGet 0 s.fab.folds (e * 2 ^ 24 + g)

/-- Rounds that a block of an entry of `p` ranks has completed. -/
def roundsOf (s : State) (e p b : Nat) : Nat :=
  (List.range 128).foldl (fun m j => min m (foldsOf s e (b * 128 + j) / p)) (foldsOf s e (b * 128) / p)

/-- Advance a grain's cursor; ROUNDS counts blocks whose round completed. -/
def cursorAdvance (e p g : Nat) (s : State) : State :=
  let b := g / 128
  let before := roundsOf s e p b
  let t : State := { s with fab := { s.fab with folds := tabSet 0 s.fab.folds (e * 2 ^ 24 + g) (foldsOf s e g + 1) } }
  if before < roundsOf t e p b then
    { t with fab := { t.fab with coll := tabSet 0 t.fab.coll (e * 16 + 8) (tabGet 0 t.fab.coll (e * 16 + 8) + 1) } }
  else t

/-- Fold a grain of a landing, and what the fold brings about (R223, R237, R321, R362). -/
def foldLand (l : Landing) (u : CollUse) (g pos off : Nat) (data : List Byte) (s : State) : Option W16 × State :=
  let r := foldGrain l.desc (u.first * 128 + g) pos l.hint data s
  match r.1 with
  | some c => (some c, landFinish l.src l.core l.tag (landFault { l with got := setAdd l.got off } c r.2.2))
  | none =>
    let l := { l with got := setAdd l.got off, sat := l.sat || r.2.1 }
    landSettle l.src l.core l.tag [off] [256 * off / l.bb] (cursorAdvance u.entry u.p g (landPut l r.2.2))

/-- Fold every staged grain that the cursor has reached (R363): at most P in a row. A fault of a staged
grain ends this, and is returned to its source (R100, R321). -/
def foldStaged (e p g : Nat) : Nat → State → List Late × State
  | 0, s => ([], s)
  | n + 1, s =>
    let cur := foldsOf s e g % p
    match s.fab.staged.find? (fun x => decide (x.entry = e ∧ x.grain = g ∧ x.pos = cur)) with
    | none => ([], s)
    | some x =>
      match landOf s x.src x.core x.tag with
      | none => ([], s)
      | some l =>
        match l.coll with
        | none => ([], s)
        | some u =>
          let r := foldLand l u g cur x.off x.data
            { s with fab := { s.fab with staged := s.fab.staged.filter (fun y => decide (y ≠ x)) } }
          let t := foldStaged e p g n r.2
          match r.1 with
          | some c => (⟨x.src, x.space, x.seq, c⟩ :: t.1, t.2)
          | none => t

/-- A ranked grain arrives (R363 to R365). -/
def rankedGrain (l : Landing) (u : CollUse) (f : Flit) (s : State) : State × LandRes :=
  let off := fOff f
  let g := (l.first - u.first) * 128 + off
  let gone (c : W16) : State × LandRes :=
    (landFinish l.src l.core l.tag (landFault { l with got := setAdd l.got off } c s), .fault c)
  if u.pos = foldsOf s u.entry g % u.p then
    let r := foldLand l u g u.pos off f.payload s
    match r.1 with
    | some c => (r.2, .fault c)
    | none =>
      let t := foldStaged u.entry u.p g u.p r.2
      (t.2, .ok t.1)
  else if s.fab.staged.any (fun x => decide (x.entry = u.entry ∧ x.grain = g ∧ x.pos = u.pos)) then gone cCOLL_DOUBLE
  else if u.cap ≤ s.fab.staged.countP (fun x => decide (x.entry = u.entry)) then
    (regAdd (oColl + 0x218) 1 s, .busy)
  else
    let x : Staged := ⟨u.entry, g, u.pos, l.src, l.core, l.tag, off, f.payload, if fKind f = 2 then 2 + fDst f else 0, fSeq f⟩
    ({ s with fab := { s.fab with staged := s.fab.staged ++ [x] } }, .ok [])

/-! ### A flit lands -/

/-- The words that a metadata flit carries, from its block `i` on, and its copy word (R300). -/
def metaWords (l : Landing) (i : Nat) (p : List Byte) : List (Nat × W64) × W64 :=
  let n := min 31 (l.nb - 31 * i)
  ((List.range n).map (fun j => (31 * i + j, BitVec.ofNat 64 (leNat ((p.drop (8 * j)).take 8)))),
    BitVec.ofNat 64 (leNat ((p.drop (8 * n)).take 8)))

/-- A metadata flit of a landing. -/
def landMeta (l : Landing) (f : Flit) (s : State) : Option W16 × State :=
  let w := metaWords l (fOff f) f.payload
  let l := { l with
    metas := w.1.foldl (fun t e => tabSet none t e.1 (some e.2)) l.metas,
    metaGot := setAdd l.metaGot (fOff f), copyWord := some w.2 }
  let ks := w.1.map (fun e => e.1)
  let js := l.got.filter (fun j => decide (256 * j / l.bb ∈ ks ∧ j ∉ l.stamped))
  landSettle l.src l.core l.tag js ks (landPut l s)

/-- What a grain that combines reads (R228, R236, R240): the whole block and its metadata with the first grain
of a checksummed block, after which the block must match its CHECK, unless another landing has begun to write
it; else the grain alone. -/
def grainErrors (l : Landing) (op off : Nat) (s : State) : Option W16 × State :=
  let d := l.desc
  let k := 256 * off / l.bb
  let a := l.base + k * l.bb
  if combines op = false then (none, s)
  else if verifies l op off then
    let r := readErrors a l.bb s
    match r.1 with
    | some c => (some c, r.2)
    | none =>
      let r := readErrors (dMETA d + 8 * (l.first + k)) 8 r.2
      match r.1 with
      | some c => (some c, r.2)
      | none =>
        let s := metaAccess d (l.first + k) 1 l.hint false (hbmAccess a l.bb l.hint false r.2)
        (if midway s (fun x => x.is l.src l.core l.tag) a l.bb ∨ blockGood s d (l.first + k) (blockData s d (l.first + k))
         then none else some cCSUM_FAIL, s)
  else
    let r := readErrors (l.base + 256 * off) 256 s
    (r.1, if r.1.isSome then r.2 else hbmAccess (l.base + 256 * off) 256 l.hint false r.2)

/-- A grain of a landing that is not ranked (R97, R229, R236, R240, R321). The block's metadata follow with its
last grain (R237). -/
def landGrain (l : Landing) (op : Nat) (f : Flit) (s : State) : Option W16 × State :=
  let off := fOff f
  let a := l.base + 256 * off
  let k := 256 * off / l.bb
  let r := grainErrors l op off s
  match r.1 with
  | some c => (some c, landFinish l.src l.core l.tag (landFault { l with got := setAdd l.got off } c r.2))
  | none =>
    let x := combine op (memRead r.2 a 256) f.payload
    let s := hbmAccess a 256 l.hint true (memWrite a x.1 r.2)
    landSettle l.src l.core l.tag [off] [k] (landPut { l with
      got := setAdd l.got off, data := tabSet [] l.data off f.payload,
      bad := l.bad ++ x.2.map (fun b => off * 256 + b) } s)

/-- The operation of a copy becomes known with its first data flit: the checks that need it (R97, R237,
R361, R365). A ranked copy keeps the entry that it matches (R321). -/
def landOp (l : Landing) (op : Nat) (s : State) : Except W16 Landing :=
  match landCheck s l (some op) with
  | some c => .error c
  | none =>
    if op = 3 then
      match collMatch s l.core l.di l.first l.nb, rankOf s l.src with
      | some e, some r =>
        let o := collOrder s e
        if r ∈ o then
          .ok { l with op := some op, coll := some ⟨e, o.idxOf r, collReg s e 8, collP s e, stageCap s e⟩ }
        else .error cCOLL_MISSING
      | _, _ => .error cCOLL_MISSING
    else .ok { l with op := some op }

/-- A landing takes note of a flit that it does not write. -/
def Landing.skip (l : Landing) (f : Flit) : Landing :=
  if fOp f = 7 then { l with metaGot := setAdd l.metaGot (fOff f) } else { l with got := setAdd l.got (fOff f) }

/-- A flit meets a fault: the landing fails. -/
def landFail (l : Landing) (f : Flit) (c : W16) (s : State) : State × LandRes :=
  (landFinish l.src l.core l.tag (landFault (l.skip f) c s), .fault c)

/-- The answer to a flit that has been taken or has met a fault. -/
def landAnswer (r : Option W16 × State) : State × LandRes :=
  match r.1 with
  | some c => (r.2, .fault c)
  | none => (r.2, .ok [])

/-- Take the flit into a landing that has a record: a failed landing discards it, and a stack in TEST
refuses it (R244, R321). -/
def landTake (l : Landing) (f : Flit) (s : State) : State × LandRes :=
  if l.failed then (landFinish l.src l.core l.tag (landPut (l.skip f) s), .ok [])
  else if landTouches (inTest s) l f then landFail l f cSTATE_REFUSED s
  else if fOp f = 7 then landAnswer (landMeta l f s)
  else
    match l.coll with
    | some u =>
      let l := { l with data := tabSet [] l.data (fOff f) f.payload }
      rankedGrain l u f (landPut l s)
    | none => landAnswer (landGrain l (fOp f) f s)

/-- The HINT of the copy that a flit belongs to (R229): that of the device's own copy, else what the
surroundings give. -/
def hintOf (s : State) (f : Flit) : Nat :=
  let own := (tabGet [] (coreOf s (fCore f)).barrows (fTag f / 8)).find? (fun x => decide (x.slot = fTag f % 8))
  match (if fSrc f = haddr s then own else none) with
  | some x => x.f.hint.toNat
  | none => Config.remoteHint s.free % 3

/-- The record that the first flit of a copy makes, with the copy of the descriptor it names. -/
def landFresh (s : State) (f : Flit) : Landing :=
  ⟨fSrc f, fCore f, fTag f, fDesc f, (coreOf s (fCore f)).dsc (fDesc f), fFirst f, fLen f, none, hintOf s f, [], [],
    [], none, [], [], [], false, false, none⟩

/-- The first data flit of a landing says what the copy does. -/
def landLearn (l : Landing) (f : Flit) (s : State) : State × LandRes :=
  if l.failed ∨ fOp f = 7 ∨ l.op.isSome then (s, .ok [])
  else
    match landOp l (fOp f) s with
    | .error c => landFail l f c s
    | .ok l => (landPut l s, .ok [])

/-- The first flit of a copy makes its landing's record, whether or not the flit can land yet: BUSY where no record
is free (R321). -/
def landOpen (f : Flit) (s : State) : State × LandRes :=
  match landOf s (fSrc f) (fCore f) (fTag f) with
  | some l => landLearn l f s
  | none =>
    if 256 ≤ s.fab.landings.countP (fun l => decide (l.core = fCore f)) then (s, .busy)
    else
      let l := landFresh s f
      let s := bumpFree { s with fab := { s.fab with landings := s.fab.landings ++ [l] } }
      match landCheck s l (if fOp f = 7 then none else some (fOp f)) with
      | some c => landFail l f c s
      | none => landLearn l f s

/-- A flit of a landing waits for a stack: one that is at HALT, or whose partition is changing (R227, R233, R243). -/
def landWaits (s : State) (f : Flit) : Bool :=
  let wait (k : Nat) : Bool := atHalt s k ||
    (match loftOf s k with
     | .change _ => true
     | _ => false)
  (landOf s (fSrc f) (fCore f) (fTag f)).any (fun l => !l.failed && landTouches wait l f)

/-- A data flit lands in the record that its copy has (R321). -/
def land (f : Flit) (s : State) : State × LandRes :=
  match landOf s (fSrc f) (fCore f) (fTag f) with
  | some l => landTake l f s
  | none => (s, .busy)

end Sys2Proof.Machine
end

