-- ==== Sys2Proof/Machine/Manifest.lean ====
section
/-!
DEFINITION. Manifests and the images that they begin (R403, R406), as bytes.
-/
namespace Sys2Proof.Machine

/-- A little-endian field of a manifest (R403). -/
def mF (m : List Byte) (lo n : Nat) : Nat := leNat ((m.drop lo).take n)

/-- MAGIC, VERSION and MCRC (R406). -/
def manifestOk (m : List Byte) : Bool :=
  decide (m.length = 4096 ∧ m.take 4 = [0x4F, 0x56, 0x41, 0x4D] ∧ mF m 4 2 = 1 ∧ mF m 4092 4 = (crc32c (m.take 4092)).toNat)

/-- What every manifest of a set shares (R406). -/
def manifestKey (m : List Byte) : List Nat := [mF m 16 8, mF m 24 8, mF m 32 4, mF m 8 2, mF m 12 2, mF m 56 32, mF m 88 32]

/-- Ranges of a manifest in use: number, base, grains and CHECK. -/
def mRanges (m : List Byte) : List (Nat × Nat × Nat × Nat) :=
  ((List.range 64).map (fun i => (i, mF m (128 + 16 * i) 6, mF m (136 + 16 * i) 4, mF m (140 + 16 * i) 4))).filter
    (fun x => decide (0 < x.2.2.1))

/-- Bytes of the descriptor snapshot (R398). -/
abbrev snapLen : Nat := 8912896

/-- CHECK of a range or of the snapshot (R403). -/
def imageCheck (data : List Byte) (key : Nat) : W32 := checkOf data key

/-- The restored snapshot and ranges match their CHECK (R405 step 8, R406). -/
def restoredOk (m : List Byte) (snap : List Byte) (ranges : List (List Byte)) : Bool :=
  decide (snap.length = snapLen ∧ (imageCheck snap 64).toNat = mF m 1152 4 ∧ ranges.length = (mRanges m).length) &&
  ((mRanges m).zip ranges).all (fun x =>
    decide (x.2.length = 256 * x.1.2.2.1 ∧ (imageCheck x.2 x.1.1).toNat = x.1.2.2.2))

/-- Grains of the image that a manifest begins (R403). -/
def imageGrains (m : List Byte) : Nat := 16 + snapLen / 256 + ((mRanges m).map (fun x => x.2.2.1)).sum

/-- The bytes of the ranges of an image, in manifest order, from the bytes that follow its snapshot. -/
def rangesCut : List (Nat × Nat × Nat × Nat) → List Byte → List (List Byte)
  | [], _ => []
  | x :: l, b => b.take (256 * x.2.2.1) :: rangesCut l (b.drop (256 * x.2.2.1))

/-- A whole image in order: its manifest holds, and its snapshot and ranges match their CHECK (R400 step 4). -/
def imageOk (b : List Byte) : Bool :=
  let m := b.take 4096
  manifestOk m && restoredOk m ((b.drop 4096).take snapLen) (rangesCut (mRanges m) (b.drop (4096 + snapLen)))

end Sys2Proof.Machine
end

