-- ==== Sys2Proof/Machine/Fabric.lean ====
section
/-!
DEFINITION. The fabric (R299 to R324): routing, ports and their blocks, credits, the sequence spaces,
delivery, and the Yardmaster's messages.
-/
namespace Sys2Proof.Machine

/-! ### Ports -/

/-- A port. -/
def portOf (s : State) (p : Nat) : Port := tabGet portReset s.fab.ports p
/-- Change a port. -/
def portMod (p : Nat) (f : Port → Port) (s : State) : State :=
  { s with fab := { s.fab with ports := tabMod portReset s.fab.ports p f } }
/-- PORT_STAT.STATE as stored (R328): 0 DOWN, 1 TRAINING, 2 UP, 3 QUIET, 4 HELD (R354). -/
def portState (s : State) (p : Nat) : Nat := rf s (oPort p + 0x010) 0 3
/-- Set PORT_STAT.STATE. -/
def portStateSet (p v : Nat) (s : State) : State := rfSet (oPort p + 0x010) 0 3 v s
/-- The active lane mask of a port. -/
def portActive (s : State) (p : Nat) : Nat := rf s (oPort p + 0x010) 4 8
/-- Set the active lane mask and WIDTH. -/
def portLanesSet (p mask : Nat) (s : State) : State :=
  rfSet (oPort p + 0x010) 12 4 ((List.range 8).countP (fun i => bits mask i 1 == 1))
    (rfSet (oPort p + 0x010) 4 8 mask s)
/-- A port is part of the recovery link (R423, R425): ports 0 to 3, until the fabric island is released, on a device that
boots from its twin or waits for recovery. -/
def linkPort (s : State) (p : Nat) : Bool :=
  decide (p < 4 ∧ 62 ∈ s.boot.released ∧ 63 ∈ s.boot.released ∧ 56 ∉ s.boot.released) &&
    (rf s oSec 3 2 == 2 || rf s oSec 0 3 == 4)

/-- A port takes part in candidate choice (R316). The recovery link carries boot images and RECOVER requests alone
(R423). -/
def portUsable (s : State) (p : Nat) : Bool :=
  decide (portState s p = 2) && (portOf s p).held.isEmpty && !linkPort s p
/-- Flits of a virtual channel queued on a port. -/
def portDepth (s : State) (p vc : Nat) : Nat := (portOf s p).tx.countP (fun f => fVc f == vc)

/-- The wire bytes of a flit (R300). -/
def flitBytes (f : Flit) : List Byte := leBytes 16 f.hdr.toNat ++ f.payload
/-- An idle flit (R301). -/
def idleFlit : Flit := ⟨0, List.replicate 256 0⟩

/-- Flits of the shared part that a port's channels occupy (R304). -/
def sharedUse (u : Tab Nat) : Nat := ((List.range 4).map (fun v => tabGet 0 u v - 256)).sum
/-- A flit may be sent on a channel (R304). -/
def mayVc (u : Tab Nat) (v : Nat) : Bool := decide (tabGet 0 u v < 256 ∨ sharedUse u < 3072)

/-- Choose up to `n` flits that credits admit, in the order listed: the flits chosen, those left, and
the counts of unreturned flits. -/
def pickFlits : Nat → Tab Nat → List Flit → List Flit × List Flit × Tab Nat
  | _, u, [] => ([], [], u)
  | 0, u, l => ([], l, u)
  | n + 1, u, f :: l =>
    if mayVc u (fVc f) then
      let r := pickFlits n (tabMod 0 u (fVc f) (fun x => x + 1)) l
      (f :: r.1, r.2.1, r.2.2)
    else
      let r := pickFlits (n + 1) u l
      (r.1, f :: r.2.1, r.2.2)

/-- A port's queue in the order blocks take it: VC 3, VC 2, then VC 0 and VC 1 (R320). -/
def txOrder (l : List Flit) : List Flit :=
  l.filter (fun f => fVc f == 3) ++ l.filter (fun f => fVc f == 2) ++ l.filter (fun f => decide (fVc f < 2))

/-- The channel whose credits the next tail returns: the lowest that owes any (assumption 21). -/
def oweVc (o : Tab Nat) : Nat := ((List.range 4).find? (fun v => decide (0 < tabGet 0 o v))).getD 0

/-- A block with the CHECK of its flits and the low half of its tail (R301). -/
def sealBlock (fl : List Flit) (lo : Nat) : Block :=
  ⟨fl, BitVec.ofNat 128 (lo + (crc64 (fl.flatMap flitBytes ++ leBytes 8 lo)).toNat * 2 ^ 64), true⟩

/-- A block on the wire, with its tail (R301). -/
def wireBlock (s : State) (p : Nat) (b : SentBlk) : Block :=
  let q := portOf s p
  sealBlock b.flits (portActive s p * 2 ^ 10 + b.credits * 2 ^ 18 + b.cvc * 2 ^ 28 + b2n q.nak * 2 ^ 31 +
    (q.expect + 65535) % 65536 * 2 ^ 32 + b.seq % 65536 * 2 ^ 48)

/-- Put a block on the wire; NAK goes with its tail. -/
def wireSend (p : Nat) (b : SentBlk) (s : State) : State :=
  emit (.block p (wireBlock s p b)) (portMod p (fun q => { q with nak := false }) s)

/-- Send a new block of the chosen flits, padded with idle flits, with the credits that the port owes. A
block that is sent again returns the same credits, which the receiver takes with the one copy of the block
that it accepts (R304, R305). -/
def blockSend (p : Nat) (r : List Flit × List Flit × Tab Nat) (s : State) : State :=
  let q := portOf s p
  let cvc := oweVc q.owed
  let cr := min 1023 (tabGet 0 q.owed cvc)
  let b : SentBlk := ⟨q.next, r.1 ++ List.replicate (16 - r.1.length) idleFlit, cvc, cr⟩
  let q' : Port := { q with tx := r.2.1, unret := r.2.2, sent := q.sent ++ [b], next := (q.next + 1) % 65536,
                            owed := tabMod 0 q.owed cvc (fun x => x - cr) }
  regAdd64 (oPort p + 0x100) 1 (wireSend p b (portMod p (fun _ => q') s))

/-- A port may start a block: UP, not held, and room in the resend buffer (R303). -/
def mayBlock (s : State) (p : Nat) : Bool := portUsable s p && decide ((portOf s p).sent.length < 256)

/-- Send every full block that a port's queue and credits allow. -/
def pumpN (p : Nat) : Nat → State → State
  | 0, s => s
  | n + 1, s =>
    let q := portOf s p
    let r := pickFlits 16 q.unret (txOrder q.tx)
    if mayBlock s p ∧ r.1.length = 16 then pumpN p n (blockSend p r s) else s

/-- Send what one port can. -/
def pump (p : Nat) (s : State) : State := pumpN p ((portOf s p).tx.length / 16) s
/-- Send what every port can. -/
def pumpAll (s : State) : State := (List.range 24).foldl (fun s p => pump p s) s

/-- Resend every unacknowledged block (R303). -/
def linkResend (p : Nat) (s : State) : State :=
  (portOf s p).sent.foldl (fun s b => regAdd (oPort p + 0x110) 1 (wireSend p b s)) s

/-! ### Routing (R314 to R316) -/

/-- A routing entry: port 24 is the injection table. -/
def rtEntry (s : State) (p i : Nat) : Nat := (tabGet 0 s.fab.rt (p * 16384 + i)).toNat

/-- Set a routing entry; bit 30 is reserved (R314). -/
def rtSet (p i : Nat) (v : W32) (s : State) : State :=
  { s with fab := { s.fab with rt := tabSet 0 s.fab.rt (p * 16384 + i) (v &&& 0xBFFFFFFF#32) } }

/-- The candidate of an entry (R316): the usable port with the fewest flits queued on the channel, the
lowest number among equals. -/
def bestPort (s : State) (e vc : Nat) : Option Nat :=
  ((List.range 24).filter (fun p => bits e p 1 == 1 && portUsable s p)).foldl
    (fun b p => match b with
      | none => some p
      | some x => if portDepth s p vc < portDepth s x vc then some p else some x) none

/-- Queue a flit on a port. -/
def queueOn (p : Nat) (f : Flit) (s : State) : State := portMod p (fun q => { q with tx := q.tx ++ [f] }) s

/-- The cage of an optical port (R330). -/
def cageOf (s : State) (p : Nat) : Option Nat :=
  if rf s (oPort p + 0x004) 0 2 = 3 then some (rf s (oPort p + 0x004) 2 4) else none

/-- ROLE of a position of a cage (R331). -/
def roleOf (s : State) (g j : Nat) : Nat := rf s (oCage g + 0x040 + 4 * j) 0 2

/-- The lanes of a port that may carry its link: those whose position is in LINK, on an optical port (R331). -/
def linkMask (s : State) (p : Nat) : Nat :=
  match cageOf s p with
  | some c => ((List.range 8).map (fun j => if roleOf s c j = 1 then 2 ^ j else 0)).sum
  | none => 0xFF

/-- A lane of a port is quarantined by its cage (R343). -/
def laneQuar (s : State) (p lane : Nat) : Bool :=
  match cageOf s p with
  | some c => decide (lane ∈ (tabGet cageReset s.cages c).quar)
  | none => false

/-- The SOURCE lane on which a group's flits leave a port (R351). -/
def bcastLane (s : State) (p g : Nat) : Option Nat :=
  match cageOf s p with
  | some c =>
    if regGet s (oCage c + 0x00C) = BitVec.ofNat 32 (2 ^ 31 + g) then (List.range 8).find? (fun j => roleOf s c j == 2)
    else none
  | none => none

/-- Send a block of the flits that wait for the SOURCE lane, padded with idle flits; its tail carries no ACK,
NAK or credits, and LANES holds the lane (R350). -/
def bcastSend (p lane : Nat) (s : State) : State :=
  let q := portOf s p
  let fl := q.btx.take 16
  if fl = [] then s
  else
    let b := sealBlock (fl ++ List.replicate (16 - fl.length) idleFlit) (2 ^ lane * 2 ^ 10 + q.bnext % 65536 * 2 ^ 48)
    emit (.bcast p lane b) (regAdd64 (oPort p + 0x100) 1
      (portMod p (fun q => { q with btx := q.btx.drop 16, bnext := (q.bnext + 1) % 65536 }) s))

/-- Copy a group flit onto one port of its entry that is not DOWN (R316, R351). A quarantined SOURCE lane carries nothing, and
end-to-end resend recovers the flit (R343, R350). -/
def groupOn (f : Flit) (s : State) (p : Nat) : State :=
  if portState s p = 0 then s
  else
    match bcastLane s p (fDst f) with
    | some j =>
      if laneQuar s p j then s
      else
        let s := portMod p (fun q => { q with btx := q.btx ++ [f] }) s
        if 16 ≤ (portOf s p).btx.length then bcastSend p j s else s
    | none => queueOn p f s

/-- The table index that a flit is looked up under (R314, R315). -/
def lookupOf (f : Flit) : Nat :=
  if fPh f = 0 then fMid f else if fKind f = 2 then 8192 + fDst f else fDst f

/-- A flit of phase 0 at its MID turns to phase 1 on VC 1 (R315). A group flit that is resent to one member stays
on VC 1 as it is, so that the member's entry delivers it there and nowhere else (R322, assumption 22). -/
def turn (s : State) (f : Flit) : Flit :=
  if fPh f = 0 ∧ fVc f = 0 ∧ fMid f = haddr s then hSet (hSet f 84 1 1) 124 2 1 else f

/-- Count a flit that passes through from an input port (R328). -/
def countForward (src : Nat) (s : State) : State := if src < 24 then regAdd (oPort src + 0x124) 1 s else s

/-- Send a flit on from an input port, or from the injection point 24; the second result says that the
entry delivers it here. -/
def routeFlit (src : Nat) (f : Flit) (s : State) : State × Bool :=
  let e := rtEntry s src (lookupOf f)
  let wait : State := { s with fab := { s.fab with stuck := s.fab.stuck ++ [(src, f)] } }
  if bits e 31 1 = 0 then (wait, false)
  else if fKind f = 2 ∧ fPh f = 1 then
    let ps := (List.range 24).filter (fun p => bits e p 1 == 1)
    (ps.foldl (groupOn f) (if ps = [] then s else countForward src s), bits e 24 1 == 1)
  else if bits e 24 1 = 1 then (s, true)
  else
    match bestPort s e (fVc f) with
    | some p => (queueOn p f (countForward src s), false)
    | none => (wait, false)

/-- Injection entries that a hitch of this device holds from PREPARE on (R286, R324). -/
def heldRoutes (s : State) : List Nat :=
  s.hitch.part.flatMap (fun h => h.acts.filterMap (fun a => match a with
    | .routeEdit p e _ => if p = 0xFFFF then some e else none
    | _ => none))

/-- The injection entry of a flit (R314, R315). -/
def injEntry (f : Flit) : Nat := if fKind f = 2 then 8192 + fDst f else fDst f

/-- A flit in the form in which it leaves uses an entry that a hitch holds, its destination's or that of its
MID (R286, R324). -/
def onHeld (s : State) (f : Flit) : Bool := decide (injEntry f ∈ heldRoutes s ∨ lookupOf f ∈ heldRoutes s)

/-- Hold an injection until its entry is released. -/
def holdInj (f : Flit) (s : State) : State := { s with fab := { s.fab with heldInj := s.fab.heldInj ++ [f] } }

/-! ### Free payloads -/

/-- A payload whose layout the spec does not give: free bytes (assumption 3). -/
def freePayload (s : State) (n : Nat) : List Byte := (List.range n).map (fun i => Config.freeByte (s.free + i))

/-! ### Delivery (R320 to R322) -/

/-- Key of the destination's side of a sequence space. -/
def rxKey (src space : Nat) : Nat := if space ≤ 1 then src * 2 + space else 16384 + (space - 2) * 8192 + src
/-- Key of the sender's side of a sequence space. -/
def txKey (dst space : Nat) : Nat := if space ≤ 1 then dst * 2 + space else 16384 + (space - 2)

/-- The destination's side of a space. -/
def rxOf (s : State) (k : Nat) : E2eRx := tabGet rxReset s.fab.rx k
/-- The sender's side of a space. -/
def txOf (s : State) (k : Nat) : E2eTx := tabGet txReset s.fab.tx k
/-- Replace the sender's side. -/
def txPut (k : Nat) (t : E2eTx) (s : State) : State :=
  { s with fab := { s.fab with tx := tabSet txReset s.fab.tx k t } }

/-- The destination holds a number already (R320). -/
def rxHas (r : E2eRx) (seq : Nat) : Bool :=
  decide ((r.base + 65536 - 1 - seq) % 65536 < 32768) || decide (seq ∈ r.got)

/-- Advance the number below which every flit is held. -/
def rxAdvance : Nat → E2eRx → E2eRx
  | 0, r => r
  | n + 1, r => if r.base ∈ r.got then rxAdvance n ⟨(r.base + 1) % 65536, setDel r.got r.base⟩ else r

/-- Take a number. -/
def rxTake (k seq : Nat) (s : State) : State :=
  let r := rxOf s k
  let r' := rxAdvance (r.got.length + 1) { r with got := setAdd r.got seq }
  { s with fab := { s.fab with rx := tabSet rxReset s.fab.rx k r' } }

/-- Header of a response or control flit (R300, R315). -/
def ctlHdr (s : State) (vc dst seq : Nat) : W128 :=
  BitVec.ofNat 128 (3 * 2 ^ 126 + vc * 2 ^ 124 + dst * 2 ^ 111 + dst * 2 ^ 98 + haddr s * 2 ^ 85 + 2 ^ 84 + seq)

/-- Send a response (R320): its contents, and the flit that carries it, which a hitch may hold (R324). -/
def respond (dst space seq : Nat) (fault : Option W16) (busy : Bool) (s : State) : State :=
  let r := rxOf s (rxKey dst space)
  let s := emit (.response dst space r.base r.got seq fault busy) s
  let f : Flit := ⟨ctlHdr s 2 dst 0, freePayload s 256⟩
  let s : State := { s with free := s.free + 256 }
  if onHeld s f then holdInj f s else (routeFlit 24 f s).1

/-- The space of a data flit. -/
def spaceOf (f : Flit) : Nat := if fKind f = 2 then 2 + fDst f else 0

/-- The answer to a data flit that has been taken, has met a fault, or has found no room (R100, R320, R321). -/
def landRespond (f : Flit) (r : State × LandRes) : State :=
  let sp := spaceOf f
  let k := rxKey (fSrc f) sp
  match r.2 with
  | .busy => respond (fSrc f) sp (fSeq f) none true r.1
  | .ok late =>
    late.foldl (fun s x => respond x.dst x.space x.seq (some x.code) false s)
      (respond (fSrc f) sp (fSeq f) none false (rxTake k (fSeq f) r.1))
  | .fault c => respond (fSrc f) sp (fSeq f) (some c) false (rxTake k (fSeq f) r.1)

/-- A data flit is delivered here (R320, R321): its landing has its record from the first flit on, and a flit that
waits for its stack joins the arrivals (R227, R233). A ranked grain that is staged is acknowledged when it stands in
staging, which is memory of the device (R320 does not say which write it means: DESIGN CHOICE, assumption 100); a
fault that it meets when it is folded is returned to its source all the same (R100). -/
def deliverData (f : Flit) (s : State) : State :=
  let sp := spaceOf f
  if rxHas (rxOf s (rxKey (fSrc f) sp)) (fSeq f) then
    respond (fSrc f) sp (fSeq f) none false (regAdd (oCommon + 0x044) 1 s)
  else
    let r := landOpen f s
    match r.2 with
    | .ok _ =>
      if landWaits r.1 f then { r.1 with fab := { r.1.fab with arrivals := r.1.fab.arrivals ++ [f] } }
      else landRespond f (land f r.1)
    | _ => landRespond f r

/-- A control flit is delivered here: its number is taken and acknowledged, and the device event
sequence number follows the sender's (R323, R387). What it says comes as a command of its own. -/
def deliverCtl (f : Flit) (s : State) : State :=
  if fVc f ≠ 3 then s
  else
    let k := rxKey (fSrc f) 1
    if rxHas (rxOf s k) (fSeq f) then respond (fSrc f) 1 (fSeq f) none false (regAdd (oCommon + 0x044) 1 s)
    else
      let n := BitVec.ofNat 64 (leNat ((f.payload.drop 248).take 8))
      let s : State := { s with log := { s.log with evseq := if s.log.evseq < n then n else s.log.evseq } }
      respond (fSrc f) 1 (fSeq f) none false (rxTake k (fSeq f) s)

/-! ### The shadow held for the twin (R400; assumption 35) -/

/-- GLB_TWIN.STATE. -/
def twinState (s : State) : Nat := rf s 0x4018 0 3
/-- The twin's hall address. -/
def twinHaddr (s : State) : Nat := rf s 0x4018 9 13
/-- The pair has been formed and stands (R396). -/
def paired (s : State) : Bool := decide (twinState s = 1 ∨ twinState s = 2 ∨ twinState s = 4)

/-- Bytes of a slot of the declared shadow region (R400, R409). -/
def slotSize (s : State) : Nat := rf s 0x4010 0 10 * 2 ^ 30
/-- First byte of a slot of the region. -/
def slotBase (s : State) (slot : Nat) : Nat := rf s 0x400C 0 10 * 2 ^ 30 + slot * slotSize s
/-- The step of the complete shadow that a slot holds for the twin (R404, R409). -/
def heldStep (s : State) (slot : Nat) : Nat := reg64 s (0x4030 + 8 * slot)
/-- GLB_HELD of a slot takes a step, or all ones where the slot holds no complete shadow. -/
def heldSet (slot v : Nat) (s : State) : State := reg64Set (0x4030 + 8 * slot) v s

/-- Grain index of a flit of a checkpoint image (R401). -/
abbrev fGrain (f : Flit) : Nat := hF f 40 44
/-- Low bits of the step of such a flit. -/
abbrev fStep (f : Flit) : Nat := hF f 24 16

/-- Memory that is at HALT, or whose partition is changing, lets a grain wait (R227, R233). -/
def stackWaits (s : State) (a n : Nat) : Bool :=
  touches (fun k => atHalt s k || (match loftOf s k with
    | .change _ => true
    | _ => false)) a n

/-- A grain of the twin's shadow is written into its slot. The first grain of another shadow ends what the slot
held. -/
def shadowWrite (f : Flit) (s : State) : State :=
  let slot := fTag f
  let a := slotBase s slot + 256 * fGrain f
  let old := (tabGet none s.ckpt.incoming slot).filter (fun x => decide (x.step = fStep f))
  let x : Incoming := old.getD ⟨fStep f, []⟩
  let s := if old.isNone then heldSet slot (2 ^ 64 - 1) s else s
  let s := hbmAccess a 256 0 true (memWrite a f.payload s)
  { s with ckpt := { s.ckpt with incoming := tabSet none s.ckpt.incoming slot (some { x with got := setAdd x.got (fGrain f) }) } }

/-- A grain of the twin's shadow is delivered here (R320, R400): outside the declared slot it is refused with
ADDR_WINDOW, as a range is that leaves the memory it may use, and in a stack in TEST with STATE_REFUSED (R244). -/
def shadowGrain (f : Flit) (s : State) : State :=
  let slot := fTag f
  let a := slotBase s slot + 256 * fGrain f
  let k := rxKey (fSrc f) 0
  let take (c : Option W16) (s : State) : State := respond (fSrc f) 0 (fSeq f) c false (rxTake k (fSeq f) s)
  let fail (c : W16) : State := take (some c) (record c .global 0 (classOf c) (.num (fGrain f)) s)
  if rxHas (rxOf s k) (fSeq f) then respond (fSrc f) 0 (fSeq f) none false (regAdd (oCommon + 0x044) 1 s)
  else if slotSize s < 256 * (fGrain f + 1) ∨ rf s 0x4008 1 1 < slot ∨ hbmTop < a + 256 then fail cADDR_WINDOW
  else if stackWaits s a 256 then { s with fab := { s.fab with arrivals := s.fab.arrivals ++ [f] } }
  else if touchesTest s a 256 then fail cSTATE_REFUSED
  else take none (shadowWrite f s)

/-- The bytes of the slot of the region, from the start of an image of `n` grains. -/
def slotBytes (s : State) (slot n : Nat) : List Byte := memRead s (slotBase s slot) (256 * n)

/-- Every grain of the image that is arriving in a slot has been written (R403). -/
def shadowWhole (s : State) (slot : Nat) : Bool :=
  match tabGet none s.ckpt.incoming slot with
  | none => false
  | some x =>
    (List.range 16).all (fun i => decide (i ∈ x.got)) &&
      (let m := slotBytes s slot 16
       manifestOk m && (List.range (imageGrains m - 16)).all (fun i => decide (i + 16 ∈ x.got)))

/-- A flit is delivered here. A storage flit's grain, and one of a shadow that this device restores from, come by a
command of their own (R402, R405 step 8). -/
def deliver (f : Flit) (s : State) : State :=
  if fKind f = 3 then deliverCtl f s
  else if fOp f = 6 then
    (if fKind f = 1 ∧ paired s = true ∧ fSrc f = twinHaddr s ∧ s.ckpt.restore = none then shadowGrain f s else s)
  else deliverData f s

/-- Arrivals that waited for their stack are taken, or wait on (R227, R243). -/
def drainArrivals (s : State) : State :=
  s.fab.arrivals.foldl (fun s f => deliver f s) { s with fab := { s.fab with arrivals := [] } }

/-! ### Sending (R315, R320) -/

/-- The Crossyard switch in use: a restore's own, else the checkpoints' (R401, R402). -/
def storageSwitch (s : State) : Nat :=
  match s.ckpt.restore with
  | some r => r.switch.getD (rf s 0x4014 8 4)
  | none => rf s 0x4014 8 4

/-- The rack copper port whose peer is that switch (R401). -/
def storagePort (s : State) : Option Nat :=
  (List.range 24).find? (fun p =>
    decide (rf s (oPort p + 0x004) 0 2 = 2 ∧ rf s (oPort p + 0x008) 31 1 = 1 ∧ rf s (oPort p + 0x008) 0 4 = storageSwitch s))

/-- A storage flit: OP 6, to the device itself (R401, R402). -/
def isStorage (s : State) (f : Flit) : Bool := decide (fOp f = 6 ∧ (fKind f = 1 ∨ fKind f = 3) ∧ fDst f = haddr s)

/-- A grain of a shadow: OP 6, to another device (R400; assumption 35). -/
def isShadow (s : State) (f : Flit) : Bool := decide (fOp f = 6 ∧ fKind f = 1 ∧ fDst f ≠ haddr s)

/-- A flit as it leaves the injection point (R315): with a drawn MID where its entry, a group's too, says
VALIANT, else with MID equal to DST. A resent group flit travels to the member in its MID (assumption 22),
and response and control flits always in phase 1. -/
def injForm (s : State) (f : Flit) : Flit :=
  let e := rtEntry s 24 (injEntry f)
  let ms := midset s (bits e 26 4)
  if fKind f = 3 ∨ fPh f = 0 then f
  else if bits e 25 1 = 1 ∧ ms ≠ [] then
    turn s (hSet (hSet (hSet f 98 13 (ms.getD (Config.freeNat s.free % ms.length) 0)) 84 1 0) 124 2 0)
  else hSet (hSet f 98 13 (fDst f)) 124 2 1

/-- Put a flit into the fabric at the injection point (R315). A storage flit leaves on the port of its
switch; one that cannot leave is sent again by its resend timer (R320). -/
def injectGo (f : Flit) (s : State) : State :=
  if isStorage s f then
    (match storagePort s with
     | some p => if portUsable s p then queueOn p f s else s
     | none => s)
  else
    let g := injForm s f
    let r := routeFlit 24 g (bumpFree s)
    if r.2 then deliver g r.1 else r.1

/-- Inject a flit, or hold it while a hitch holds its entry, or the entry of the MID drawn for it (R286, R324). -/
def inject (f : Flit) (s : State) : State :=
  if !isStorage s f && onHeld s (injForm s f) then holdInj f s else injectGo f s

/-- The destination and the space that a key of the sender's side names; a group's space has no one
destination. -/
def txName (k : Nat) : Nat × Nat := if k < 16384 then (k / 2, k % 2) else (k - 16384, k - 16384 + 2)

/-- Unacknowledged flits to one destination, over the pair's spaces and the groups it has yet to acknowledge
(R320, R322). -/
def unackedTo (s : State) (dst : Nat) : Nat :=
  (txOf s (txKey dst 0)).held.length + (txOf s (txKey dst 1)).held.length +
    (s.fab.tx.filter (fun e => decide (16384 ≤ e.1))).foldl
      (fun n e => n + e.2.held.countP (fun u => decide (dst ∈ u.awaits))) 0

/-- The window of 4,096 admits another flit (R320): in the space's numbers, and to every device that is to
acknowledge it. -/
def txRoom (s : State) (dst : Nat) (t : E2eTx) (u : Unacked) : Bool :=
  (if u.awaits = [] then [dst] else u.awaits).all (fun d => decide (unackedTo s d < 4096)) &&
    (match t.held.head? with
     | some u => decide ((t.next + 65536 - u.seq) % 65536 < 4096)
     | none => true)

/-- Give a flit its number in a space, hold it, and inject it. -/
def spaceGo (k : Nat) (u : Unacked) (l : List Unacked) (s : State) : State :=
  let t := txOf s k
  let f := hSet u.flit 0 16 t.next
  inject f (txPut k { t with next := (t.next + 1) % 65536, held := t.held ++ [⟨t.next, f, u.owner, u.awaits⟩], waiting := l } s)

/-- Send a numbered flit of a space, or let it wait for the window. -/
def spaceSend (dst space : Nat) (u : Unacked) (s : State) : State :=
  let k := txKey dst space
  let t := txOf s k
  if txRoom s dst t u ∧ t.waiting = [] then spaceGo k u [] s
  else txPut k { t with waiting := t.waiting ++ [u] } s

/-- Flits of a space that waited for the window move into it. -/
def spaceDrain (k : Nat) : Nat → State → State
  | 0, s => s
  | n + 1, s =>
    let t := txOf s k
    match t.waiting with
    | [] => s
    | u :: l => if txRoom s (txName k).1 t u then spaceDrain k n (spaceGo k u l s) else s

/-- Flits of every space that waited for the window move into it. -/
def drainAll (s : State) : State := s.fab.tx.foldl (fun s e => spaceDrain e.1 e.2.waiting.length s) s

/-- Some flit of a copy is still unacknowledged (R321). -/
def copyUnacked (s : State) (n : Nat) (q : Q) (sn : Nat) : Bool :=
  s.fab.tx.any (fun e => (e.2.held ++ e.2.waiting).any (fun u => decide (u.owner = some (n, q, sn))))

/-- Change the sender's side of every space. -/
def txMap (f : E2eTx → E2eTx) (s : State) : State :=
  { s with fab := { s.fab with tx := (s.fab.tx.map (fun e => (e.1, f e.2))).filter (fun e => decide (e.2 ≠ txReset)) } }

/-- Forget the unacknowledged flits of a copy. -/
def copyForget (n : Nat) (q : Q) (sn : Nat) (s : State) : State :=
  let keep (u : Unacked) : Bool := decide (u.owner ≠ some (n, q, sn))
  txMap (fun t => { t with held := t.held.filter keep, waiting := t.waiting.filter keep }) s

/-- A Barrow drops a copy; which of its flits were acknowledged is of no use any more. -/
def barrowDrop (n : Nat) (q : Q) (sn : Nat) (s : State) : State :=
  coreMod n (fun c => { c with barrows := (List.range 4).foldl (fun t i =>
    tabSet [] t i ((tabGet [] t i).filter (fun x => decide (¬ (x.q = q ∧ x.sn = sn))))) c.barrows })
    (txMap (fun t => { t with past := t.past.filter (fun x => decide (x.2 ≠ (n, q, sn))) }) s)

/-- An instruction is in flight. -/
def entIssued (s : State) (n : Nat) (q : Q) (sn : Nat) : Bool :=
  (((coreOf s n).queue q).ent? sn).any (fun (e : Ent) => decide (e.st = .issued))

/-- An issued copy faults in execution (R82, R100). -/
def copyFault (n : Nat) (q : Q) (sn : Nat) (code : W16) (s : State) : State :=
  let mine := (List.range 4).filter (fun b =>
    (tabGet [] (coreOf s n).barrows b).any (fun x => decide (x.q = q ∧ x.sn = sn)))
  let s := mine.foldl (fun s b => rfSet (oCore n + 0x1000 + 16 * b) 16 16 code.toNat s) s
  halt n q sn code (barrowDrop n q sn s)

/-! ### Yardmaster messages (R323) -/

/-- Send a message to a hall address. One to the device itself needs no control flit (R323, R387). -/
def sendTo (dst : Nat) (m : Msg) (s : State) : State :=
  if dst = haddr s then emit (.message dst m s.log.evseq) s
  else
    let s := evAdvance s
    let f : Flit := ⟨ctlHdr s 3 dst 0, freePayload s 248 ++ leBytes 8 s.log.evseq.toNat⟩
    spaceSend dst 1 ⟨0, f, none, []⟩ (emit (.message dst m s.log.evseq) { s with free := s.free + 248 })

/-- Send a message to a rank; a rank without a VALID map entry is not sent to (R323). -/
def sendRank (r : Nat) (m : Msg) (s : State) : State :=
  match haddrOf s r with
  | some h => sendTo h m s
  | none => record cROUTE_MISSING .global 0 .stop (.num r) s

/-- Send a message to every rank of the paddock. -/
def sendAll (m : Msg) (s : State) : State := (List.range (devices s)).foldl (fun s r => sendRank r m s) s

/-- A shadow that has arrived whole is verified: where its manifest, its snapshot and every range hold, the slot holds
it, and the twin hears of it (R400 step 4, R404, R409). One that fails is not acknowledged. What is verified is what
arrived, so it is not read from the stacks again. -/
def shadowEnd (s : State) (slot : Nat) : State :=
  if shadowWhole s slot = false then s
  else
    let m := slotBytes s slot 16
    let good := imageOk (slotBytes s slot (imageGrains m))
    let s : State := { s with ckpt := { s.ckpt with incoming := tabSet none s.ckpt.incoming slot none } }
    if good then
      sendTo (twinHaddr s) (.shadowAck slot (BitVec.ofNat 64 (mF m 16 8))) (heldSet slot (mF m 16 8) s)
    else s

/-- The shadows that have arrived whole. -/
def shadowEnds (s : State) : State := [0, 1].foldl shadowEnd s

/-- The arrivals that waited for a stack go on. -/
def arrivalsGo (s : State) : State := shadowEnds (pumpAll (drainArrivals s))

/-- Flits that wait for a candidate port try again; an injection whose entry a hitch holds by now is held (R324). -/
def retryStuck (s : State) : State :=
  s.fab.stuck.foldl (fun s e =>
    if e.1 = 24 ∧ onHeld s e.2 then holdInj e.2 s
    else
      let r := routeFlit e.1 e.2 s
      if r.2 then deliver e.2 r.1 else r.1) { s with fab := { s.fab with stuck := [] } }

/-- Injections held by a hitch go out on the present entries (R324). -/
def releaseHeld (s : State) : State :=
  s.fab.heldInj.foldl (fun s f => inject f s) { s with fab := { s.fab with heldInj := [] } }

/-! ### Commands of the fabric -/

/-- A block's CHECK (R301). -/
def blockCheckOk (b : Block) : Bool :=
  decide (b.flits.length = 16) &&
    decide (crc64 (b.flits.flatMap flitBytes ++ leBytes 8 (b.tail.toNat % 2 ^ 64)) = b.tail.extractLsb' 64 64)

/-- Drop the acknowledged blocks of a resend buffer: those up to ACK. -/
def ackBlocks (sent : List SentBlk) (ack : Nat) : List SentBlk :=
  sent.filter (fun b => decide (¬ ((ack + 65536 - b.seq) % 65536 < 32768)))

/-! ### Lanes in service -/

/-- Lanes that a mask names. -/
def maskCount (m : Nat) : Nat := (List.range 8).countP (fun i => bits m i 1 == 1)
/-- MIN_LANES of a port. -/
def minLanes (s : State) (p : Nat) : Nat := rf s (oPort p + 0x004) 8 4
/-- A lane is in service. -/
def laneActive (s : State) (p lane : Nat) : Bool := bits (portActive s p) lane 1 == 1

/-- What a port forgets when it goes down or trains anew (R307): its queue, its resend buffer and its
credit counts. -/
def linkClear (p : Nat) (s : State) : State :=
  portMod p (fun q => { portReset with rx := q.rx, held := q.held, adds := q.adds, trained := q.trained, out := q.out, tap := q.tap, btx := q.btx, bnext := q.bnext, want := q.want, barred := q.barred, broken := q.broken }) s

/-- A port leaves service until a reset or a lane add (R307). -/
def portOut (p : Nat) (s : State) : State := portMod p (fun q => { q with out := true }) (linkClear p s)

/-- A port goes DOWN (R307). -/
def portDown (p : Nat) (s : State) : State :=
  raise (oPort p + 0x020) 1 (record cPORT_DOWN .port p .masked .none (portOut p (portStateSet p 0 s)))

/-- The TAP lane on which a block arrived: its LANES holds that lane alone (R350). -/
def tapLane (s : State) (p lanes : Nat) : Option Nat :=
  match cageOf s p with
  | some c => (List.range 8).find? (fun j => decide (lanes = 2 ^ j ∧ roleOf s c j = 3))
  | none => none

/-- A block of a broadcast (R350, R351): a failed one is discarded without a response, and a flit that finds
no buffer is discarded and counted. -/
def tapReceive (p lane : Nat) (b : Block) (s : State) : State :=
  if laneQuar s p lane ∨ blockCheckOk b = false ∨ b.fecOk = false then s
  else
    let got := b.flits.filter (fun f => fKind f != 0)
    let q := portOf s p
    let room := 4096 - (q.rx.length + q.tap.length)
    let s := portMod p (fun q => { q with tap := q.tap ++ got.take room }) s
    let s := match cageOf s p with
      | some c => regAdd (oCage c + 0x414) (got.length - room) s
      | none => s
    regAdd64 (oPort p + 0x108) 1 s

/-- The peer's tail announces the lanes it still sends on (R306 step 2, R307): this end leaves the others
too, and goes DOWN below MIN_LANES. -/
def peerLanes (p lanes : Nat) (s : State) : State :=
  let m := portActive s p &&& lanes
  if lanes = 0 ∨ m = portActive s p then s
  else if maskCount m < minLanes s p then portDown p (portLanesSet p m s)
  else portLanesSet p m s

/-- BLOCK_RECEIVE (R303 to R306, R350). -/
def blockReceive (p : Nat) (b : Block) (s : State) : State :=
  let t := b.tail.toNat
  match tapLane s p (bits t 10 8) with
  | some j => tapReceive p j b s
  | none =>
    if (portState s p ≠ 2 ∧ portState s p ≠ 3) ∨ linkPort s p = true then s
    else
      let crc := blockCheckOk b
      if !crc ∨ !b.fecOk ∨ bits t 48 16 ≠ (portOf s p).expect then
        let s := if crc then s else regAdd (oPort p + 0x114) 1 s
        let s := if b.fecOk then s else regFree (oPort p + 0x11C) s
        portMod p (fun q => { q with nak := true }) s
      else
        let got := b.flits.filter (fun f => fKind f != 0)
        let s := portMod p (fun q => { q with rx := q.rx ++ got, expect := (q.expect + 1) % 65536 }) s
        let s := portMod p (fun q => { q with sent := ackBlocks q.sent (bits t 32 16) }) s
        let back (q : Port) : Tab Nat := tabMod 0 q.unret (bits t 28 2) (fun x => x - bits t 18 10)
        let s := portMod p (fun q => { q with unret := back q }) s
        let s := regAdd64 (oPort p + 0x108) 1 (peerLanes p (bits t 10 8) s)
        let s := if bits t 31 1 = 1 then linkResend p s else s
        pump p s

/-- LINK_ACK_TIMEOUT (R303). -/
def linkAckTimeout (p : Nat) (s : State) : State :=
  if portState s p = 2 ∧ (portOf s p).sent ≠ [] then linkResend p s else s

/-- BLOCK_PAD_TIMEOUT (R301, R350): the flits at hand go out in a block padded with idle flits, on the link
and on the SOURCE lane. -/
def blockPadTimeout (p : Nat) (s : State) : State :=
  let q := portOf s p
  let s := match cageOf s p with
    | some c =>
      (match (List.range 8).find? (fun j => roleOf s c j == 2) with
       | some j => if laneQuar s p j then s else bcastSend p j s
       | none => s)
    | none => s
  if mayBlock s p then blockSend p (pickFlits 16 q.unret (txOrder q.tx)) s else s

/-- A flit is discarded under R313. -/
def paddockReject (p : Nat) (s : State) : State :=
  raise (oPort p + 0x020) 4 (record cPADDOCK_REJECT .port p .masked .none (regAdd (oCommon + 0x04C) 1 s))

/-- The oldest flit of a channel leaves a port's buffer, returning a credit where it came over the link
(R304, R350): the flit, and the state. -/
def takeFlit (p vc : Nat) (s : State) : Option Flit × State :=
  let q := portOf s p
  match q.rx.find? (fun f => fVc f == vc) with
  | some f => (some f, portMod p (fun q => { q with rx := q.rx.erase f, owed := tabMod 0 q.owed vc (fun x => x + 1) }) s)
  | none =>
    match q.tap.find? (fun f => fVc f == vc) with
    | some f => (some f, portMod p (fun q => { q with tap := q.tap.erase f }) s)
    | none => (none, s)

/-- A flit may be forwarded (R313): its destination is a member, or its group is installed with every address
on its list a member. -/
def mayForward (s : State) (f : Flit) : Bool :=
  if fKind f = 2 then
    let g := groupMembers s (fDst f)
    !g.isEmpty && g.all (member s)
  else member s (fDst f)

/-- FLIT_RECEIVE (R313 to R316). A group flit that this device may accept and not forward is delivered
here alone. -/
def flitReceive (p vc : Nat) (s : State) : State :=
  let r := takeFlit p vc s
  match r.1 with
  | none => s
  | some f =>
    let s := r.2
    let f := turn s f
    let e := rtEntry s p (lookupOf f)
    let toMe : Bool := bits e 31 1 == 1 && bits e 24 1 == 1
    if !member s (fSrc f) ∨ (!mayForward s f ∧ !toMe) then paddockReject p s
    else if mayForward s f = false ∧ fKind f = 2 then pumpAll (deliver f s)
    else
      let r := routeFlit p f s
      shadowEnds (pumpAll (if r.2 then deliver f r.1 else r.1))

/-- NO_ROUTE_TIMEOUT (R316): the oldest flit that waits at a source is discarded. -/
def noRouteTimeout (src : Nat) (s : State) : State :=
  match s.fab.stuck.find? (fun e => e.1 == src) with
  | none => s
  | some e =>
    let s : State := { s with fab := { s.fab with stuck := s.fab.stuck.erase e } }
    let s := regAdd (oCommon + 0x050) 1 s
    if src < 24 then raise (oPort src + 0x020) 5 s else s

/-- A number is acknowledged by a cumulative number and the numbers above it. -/
def ackedBy (cum : Nat) (bitmap : List Nat) (seq : Nat) : Bool :=
  decide ((cum + 65536 - 1 - seq) % 65536 < 32768) || decide (seq ∈ bitmap)

/-- One member's acknowledgement of a held flit: none where the flit is released. -/
def ackOne (src : Nat) (cum : Nat) (bitmap : List Nat) (u : Unacked) : Option Unacked :=
  if ackedBy cum bitmap u.seq then
    (if u.awaits = [] then none
     else
      let w := u.awaits.filter (fun h => decide (h ≠ src))
      if w = [] then none else some { u with awaits := w })
  else some u

/-- E2E_RESPONSE (R320 to R322, R100). A fault may come after its flit's acknowledgement, for a grain that was
staged: it halts a copy that is still in flight. -/
def e2eResponse (src space : Nat) (cum : W16) (bitmap : List Nat) (fault : Option (W16 × W16)) (s : State) : State :=
  let k := txKey src space
  let t := txOf s k
  let done := t.held.filterMap (fun u =>
    if (ackOne src cum.toNat bitmap u).isNone then u.owner.map (fun o => (u.seq, o)) else none)
  let owner := match fault with
    | some (seq, _) =>
      (match t.held.find? (fun (u : Unacked) => decide (u.seq = seq.toNat)) with
       | some u => u.owner
       | none => (t.past.find? (fun x => decide (x.1 = seq.toNat))).map (fun x => x.2))
    | none => none
  let s := txPut k { t with held := t.held.filterMap (ackOne src cum.toNat bitmap), past := done ++ t.past } s
  let s := match fault, owner with
    | some (_, code), some (n, q, sn) =>
      if entIssued s n q sn then copyFault n q sn code s else s
    | _, _ => s
  pumpAll (drainAll s)

/-- Resend one held flit (R320, R322): a group's, to each member that has not acknowledged it, as a flit on
VC 1 that travels to the member in its MID (assumption 22). -/
def resendOne (u : Unacked) (s : State) : State :=
  if u.awaits = [] then inject u.flit s
  else u.awaits.foldl (fun s h => inject (hSet (hSet (hSet u.flit 98 13 h) 84 1 0) 124 2 1) s) s

/-- E2E_RESEND_TIMEOUT (R320, R322). -/
def e2eResendTimeout (dst space : Nat) (seq : W16) (s : State) : State :=
  match (txOf s (txKey dst space)).held.find? (fun u => decide (u.seq = seq.toNat)) with
  | none => s
  | some u => pumpAll (resendOne u (regAdd (oCommon + 0x040) 1 s))

/-- BUSY_RETRY (R321, R364): a refused flit is sent again. -/
def busyRetry (dst space : Nat) (seq : W16) (s : State) : State :=
  match (txOf s (txKey dst space)).held.find? (fun u => decide (u.seq = seq.toNat)) with
  | none => s
  | some u => pumpAll (resendOne u (regAdd (oCommon + 0x048) 1 s))

/-- DELIVERY_LOST (R320, R323). -/
def deliveryLost (dst space : Nat) (seq : W16) (s : State) : State :=
  let k := txKey dst space
  let t := txOf s k
  match t.held.find? (fun u => decide (u.seq = seq.toNat)) with
  | none => s
  | some u =>
    let s := txPut k { t with held := t.held.erase u } s
    match u.owner with
    | some (n, q, sn) =>
      let s := copyForget n q sn s
      if entIssued s n q sn then
        copyFault n q sn cDELIVERY_LOST s
      else s
    | none => record cDELIVERY_LOST .global 0 .restart (.num dst) s

end Sys2Proof.Machine
end

