-- ==== Sys2Proof/Machine/HitchCore.lean ====
section
/-!
DEFINITION. The records of hitches and their objects (R285 to R288, R292).
-/
namespace Sys2Proof.Machine

/-- The coordinator's record of a hitch. -/
def coordOf (s : State) (num : W16) : Option HitchC := s.hitch.coord.find? (fun h => decide (h.num = num))
/-- Replace the coordinator's record. -/
def coordPut (h : HitchC) (s : State) : State :=
  { s with hitch := { s.hitch with coord := s.hitch.coord.map (fun x => if x.num = h.num then h else x) } }
/-- The participant's record of a hitch. -/
def partOf (s : State) (num : W16) : Option HitchP := s.hitch.part.find? (fun h => decide (h.num = num))
/-- Replace the participant's record. -/
def partPut (h : HitchP) (s : State) : State :=
  { s with hitch := { s.hitch with part := s.hitch.part.map (fun x => if x.num = h.num then h else x) } }
/-- Drop the participant's record: its objects are released. -/
def partDrop (num : W16) (s : State) : State :=
  { s with hitch := { s.hitch with part := s.hitch.part.filter (fun x => decide (x.num ≠ num)) } }

/-- The object of an action (R286), as a kind and two numbers. -/
def objOf (a : Action) : Nat × Nat × Nat :=
  match a with
  | .regWrite off _ mask =>
    (1, off.toNat, (((fieldsOf off.toNat).find? (fun f => bits mask.toNat f.lo f.w != 0)).map (fun f => f.lo)).getD 32)
  | .routeEdit p e _ => (2, p.toNat, e)
  | .laneAdd p l => (3, p.val, l.val)
  | .laneRemove p l => (3, p.val, l.val)
  | .retune c r _ _ => (4, c.val, r.val)
  | .streamStart off b => (1, off.toNat, b.val)
  | .cut _ _ => (6, 0, 0)
  | .stepCommit => (7, 0, 0)

/-- Actions of hitches that are not DONE at this device, other than hitch `num` (R287). -/
def otherActs (s : State) (num : Option W16) : List Action :=
  ((s.hitch.coord.filter (fun h => decide (h.st ≠ .done ∧ some h.num ≠ num))).flatMap
      (fun h => h.acts.filterMap (fun a => if a.1 = ownRank s then some a.2 else none))) ++
    (s.hitch.part.filter (fun h => decide (some h.num ≠ num))).flatMap (fun h => h.acts)

/-- An object belongs to another hitch that is not DONE (R287). -/
def objTaken (s : State) (num : Option W16) (o : Nat × Nat × Nat) : Bool :=
  (otherActs s num).any (fun a => decide (objOf a = o))

/-- Hitches that are not DONE and in which this device takes part (R287). -/
def hitchCount (s : State) : Nat :=
  ((s.hitch.coord.filter (fun h => decide (h.st ≠ .done ∧ ownRank s ∈ h.ranks))).map (fun h => h.num) ++
    s.hitch.part.map (fun h => h.num)).dedup.length

/-- This device's Yardmaster coordinates: its rank is the lowest of the participants (R285). -/
def coordinates (s : State) (ranks : List Nat) : Bool := decide (ranks.min? = some (ownRank s))

/-- The actions of one rank, in staged order. -/
def actsOf (h : HitchC) (r : Nat) : List Action := h.acts.filterMap (fun a => if a.1 = r then some a.2 else none)

/-- Send a message to every participant; only the coordinator does (R285). -/
def coordSend (h : HitchC) (m : Msg) (s : State) : State :=
  if coordinates s h.ranks then h.ranks.foldl (fun s r => sendRank r m s) s else s

/-- PREPARE goes to every participant with the whole hitch (R288). A hitch that another device coordinates is
handed to that device's Yardmaster, and the record here follows what it reports (assumption 23). -/
def prepareSend (h : HitchC) (s : State) : State :=
  let s := coordPut { h with st := .preparing } s
  if coordinates s h.ranks then coordSend h (.prepare h.num h.limit h.acts) s
  else
    match h.ranks.min? with
    | some r => sendRank r (.hitch h.num h.limit h.ranks h.acts) s
    | none => s

/-- Open a hitch: its record, and the number after it. -/
def hitchNew (ranks : List Nat) (limit : Nat) (acts : List (Nat × Action)) (src : HSource) (s : State) : HitchC × State :=
  let h : HitchC := ⟨s.hitch.next, ranks, limit, acts, .opened, 0, false, [], [], src, none, []⟩
  (h, { s with hitch := { s.hitch with coord := s.hitch.coord.filter (fun x => decide (x.num ≠ s.hitch.next)) ++ [h], next := s.hitch.next + 1 } })

/-- The Yardmaster cannot open a hitch of these actions now: one more is beyond the limit of R287, an object
is taken, or the port is held (R392). -/
def yardBusy (s : State) (acts : List (Nat × Action)) : Bool :=
  decide (4 ≤ hitchCount s) || acts.any (fun a => decide (a.1 = ownRank s) && objTaken s none (objOf a.2))

/-- The Yardmaster opens a hitch of its own and prepares it (R292). -/
def yardHitch (ranks : List Nat) (acts : List (Nat × Action)) (s : State) : State :=
  let r := hitchNew ranks 100 acts .yard s
  prepareSend r.1 r.2

/-- Lane adds of some lanes of a port at one end. -/
def addsOf (r p : Nat) (lanes : List Nat) : List (Nat × Action) :=
  if hp : p < 24 then
    lanes.filterMap (fun l => if hl : l < 8 then some (r, .laneAdd ⟨p, hp⟩ ⟨l, hl⟩) else none)
  else []

/-- The Yardmaster stages lane adds at both ends of a link (R308, R344, R392), or keeps them until no hitch is
in the way. -/
def laneAddHitch (p : Nat) (lanes : List Nat) (s : State) : State :=
  let seen := (regGet s (oPort p + 0x00C)).toNat
  let peer := if bits seen 13 5 < 24 then rankOf s (bits seen 0 13) else none
  let acts := addsOf (ownRank s) p lanes ++ (match peer with
    | some r => addsOf r (bits seen 13 5) lanes
    | none => [])
  if lanes = [] then s
  else if yardBusy s acts ∨ (portOf s p).held ≠ [] then
    portMod p (fun q => { q with want := lanes.foldl setAdd q.want }) s
  else yardHitch (ownRank s :: peer.toList) acts s

/-- Lane adds that waited for a hitch are staged. -/
def laneAddRetry (s : State) : State :=
  (List.range 24).foldl (fun s p =>
    let w := (portOf s p).want
    if w = [] then s else laneAddHitch p w (portMod p (fun q => { q with want := [] }) s)) s

/-- A cage is held by a hitch of this device (R289, R357). -/
def cageHeld (s : State) (g : Nat) : Bool :=
  s.hitch.part.any (fun h => h.acts.any (fun a => match a with
    | .retune c _ _ _ => decide (c.val = g)
    | _ => false))

end Sys2Proof.Machine
end

