-- ==== Sys2Proof/Machine/Lanes.lean ====
section
/-!
DEFINITION. Lanes and the state of ports: shedding, resuming, training, going down (R296 to R298, R306
to R310), and the peer's part in a spare swap (R347).
-/
namespace Sys2Proof.Machine

/-- Shed a lane (R306, R307): LANE_SHED is reported; the port goes QUIET, or DOWN below MIN_LANES. A port that is
DOWN already only loses the lane, which a lane add may bring back. -/
def shedLane (p lane : Nat) (s : State) : State :=
  if laneActive s p lane = false then s
  else if portState s p = 0 then portLanesSet p (portActive s p - 2 ^ lane) s
  else
    let m := portActive s p - 2 ^ lane
    let s := portLanesSet p m s
    let s := regAdd (oPort p + 0x128) 1 s
    let s := raise (oPort p + 0x020) 0 (record cLANE_SHED .port p .masked (.num lane) s)
    if portState s p = 4 then s
    else if maskCount m < minLanes s p then portDown p s else portStateSet p 3 s

/-- LANE_SHED. Under a swap mask a lane that goes dark is not shed (R347). -/
def laneShed (p lane : Nat) (s : State) : State :=
  if lane ∈ (portOf s p).masks then portMod p (fun q => { q with dark := setAdd q.dark lane }) s
  else shedLane p lane s

/-- LANE_REACQUIRE (R347). -/
def laneReacquire (p lane : Nat) (s : State) : State := portMod p (fun q => { q with dark := setDel q.dark lane }) s

/-- LANE_SHED_RESUME (R306): UP at reduced width, with a resend from the block after ACK. -/
def laneShedResume (p : Nat) (s : State) : State :=
  if portState s p ≠ 3 then s
  else pumpAll (retryStuck (linkResend p (portStateSet p 2 (regFree (oPort p + 0x12C) s))))

/-! ### The plan and training -/

/-- REACH of a port (R297). -/
def reachOf (s : State) (p : Nat) : Nat := rf s (oPort p + 0x004) 0 2

/-- The fabric plan keeps to R297 and R298. -/
def planLegal (s : State) : Bool :=
  let ps := List.range 24
  let copper := ps.filter (fun p => reachOf s p == 2)
  let opt := ps.filter (fun p => reachOf s p == 3)
  decide (copper.length ≤ 16 ∧ opt.length ≤ 12 ∧
    ps.countP (fun p => rf s (oPort p + 0x004) 6 1 == 1) ≤ 4 ∧
    (copper.map (fun p => rf s (oPort p + 0x008) 0 4)).Nodup ∧
    (opt.map (fun p => rf s (oPort p + 0x004) 2 4)).Nodup) &&
  opt.all (fun p => decide (rf s (oPort p + 0x004) 2 4 < 12))

/-- The island of a port's lanes (R441). -/
def portIsland (p : Nat) : Nat := 56 + p / 6

/-- The cage of an optical port has reported its rings locked (R310). -/
def cageLocked (s : State) (p : Nat) : Bool :=
  match cageOf s p with
  | some c => rf s (oCage c + 0x008) 0 3 == 3
  | none => true

/-- The cage of an optical port holds a position in LINK (R354). -/
def cageHasLink (s : State) (p : Nat) : Bool :=
  match cageOf s p with
  | some c => (List.range 8).any (fun j => rf s (oCage c + 0x040 + 4 * j) 0 2 == 1)
  | none => true

/-- A port may train (R310): its island is released, its cage is locked, and it is not being reset (R421). A plan that
was illegal when the fabric was released keeps every port down (R298). -/
def mayTrain (s : State) (p : Nat) : Bool :=
  decide (reachOf s p ≠ 0 ∧ portIsland p ∈ s.boot.released) && s.boot.planOk && cageLocked s p && !asked s 4 p

/-- PORT_TRAIN (R310); the ROM trains the ports of the recovery link at fixed settings (R423). -/
def portTrain (p : Nat) (s : State) : State :=
  if portState s p = 0 ∧ (portOf s p).out = false ∧ (mayTrain s p = true ∨ linkPort s p = true) then portStateSet p 1 s
  else s

/-- The lanes of a mask that may be in service: positions in LINK, not quarantined (R331, R344). -/
def laneMask (s : State) (p mask : Nat) : Nat :=
  ((List.range 8).map (fun j => if bits (mask &&& linkMask s p) j 1 = 1 ∧ laneQuar s p j = false then 2 ^ j else 0)).sum

/-- The hall address of a twin port's peer, once seen. -/
def peerHaddr (s : State) (p : Nat) : Nat := rf s (oPort p + 0x00C) 0 13

/-- The first twin port to reach UP after a reset sends the pairing flit: hall address, TWIN_SIDE and FEED_ID (R395,
which gives no layout of its payload: assumption 3). -/
def pairingSend (p : Nat) (s : State) : State :=
  if rf s (oPort p + 0x004) 6 1 = 1 ∧ s.ckpt.sentPairing = false then
    sendTo (peerHaddr s p) (.pairing (haddr s) s.boot.straps.twinSide.toNat s.boot.straps.feedId.toNat) { s with ckpt := { s.ckpt with sentPairing := true } }
  else s

/-- A sealed device offers its twin the images that it booted with, byte for byte, whenever a twin port reaches UP
(R423, R424; that it offers them then is a DESIGN CHOICE, assumption 108). -/
def imagesOffer (p : Nat) (s : State) : State :=
  if rf s (oPort p + 0x004) 6 1 = 1 ∧ isSealed s = true then emit (.images (peerHaddr s p) s.boot.images) s else s

/-- PORT_TRAIN_DONE (R310, R307): the identity seen, the lanes that trained, UP or DOWN. A port of the recovery link is
UP on the lanes that trained (R423). -/
def portTrainDone (p lanes : Nat) (seen : W32) (s : State) : State :=
  if portState s p ≠ 1 then s
  else if linkPort s p then
    (if lanes % 256 = 0 then portStateSet p 0 s else portStateSet p 2 (portLanesSet p (lanes % 256) s))
  else
    let s := regSet (oPort p + 0x00C) (seen &&& 0x8003FFFF#32) s
    if regGet s (oPort p + 0x00C) ≠ regGet s (oPort p + 0x008) then
      raise (oPort p + 0x020) 3 (record cWIRE_MISMATCH .port p .masked .none (portOut p (portLanesSet p 0 (portStateSet p 0 s))))
    else
      let m := laneMask s p (lanes &&& rf s (oPort p + 0x014) 0 8)
      let s := portLanesSet p m s
      if cageHasLink s p = false then portStateSet p 4 (linkClear p s)
      else if maskCount m < minLanes s p then portDown p s
      else
        let s := raise (oPort p + 0x020) 2 (portStateSet p 2 (linkClear p s))
        pumpAll (retryStuck (imagesOffer p (pairingSend p s)))

/-- A lane set takes effect by hitch (R307 to R309, R354): a port whose cage holds no LINK position reads HELD and
keeps its link state; one that reaches MIN_LANES again is UP, unless the plan is illegal (R298); one that falls
below goes DOWN. -/
def lanesApply (p mask : Nat) (s : State) : State :=
  let m := laneMask s p mask
  let s := portLanesSet p m s
  let up (s : State) : State :=
    raise (oPort p + 0x020) 2 (portMod p (fun q => { q with out := false, trained := [] }) (portStateSet p 2 s))
  if cageHasLink s p = false then portStateSet p 4 s
  else if minLanes s p ≤ maskCount m then
    (if portState s p = 4 ∨ (portState s p = 0 ∧ s.boot.planOk = true) then up s else s)
  else if portState s p = 0 then s
  else portDown p s

/-! ### The peer's part in a swap (R347) -/

/-- SWAP_NOTICE: acknowledged; a mask opens on a lane in service. -/
def swapNotice (p lane : Nat) (s : State) : State :=
  let s := sendTo (peerHaddr s p) (.swapAck lane) s
  if laneActive s p lane then portMod p (fun q => { q with masks := setAdd q.masks lane }) s else s

/-- SWAP_MASK_EXPIRE: a lane that is still dark is shed under R306. -/
def swapMaskExpire (p lane : Nat) (s : State) : State :=
  let q := portOf s p
  if lane ∉ q.masks then s
  else
    let s := portMod p (fun q => { q with masks := setDel q.masks lane, dark := setDel q.dark lane }) s
    if lane ∈ q.dark then shedLane p lane s else s

end Sys2Proof.Machine
end

