-- ==== Sys2Proof/Machine/Optics.lean ====
section
/-!
DEFINITION. What a cage's light tells: the frames of its control link (R334), monitor means (R358), tone and
identity checks (R336, R337), and the search of a ring (R341).
-/
namespace Sys2Proof.Machine

/-! ### Frames (R334) -/

/-- The bytes of a control frame from the cage before its CRC, low byte first (assumption 92). -/
def oclBytes (f : OclFrame) : List Byte :=
  leBytes 2 f.seq.toNat ++ f.samples.flatMap (fun x => leBytes 2 x.toNat) ++ leBytes 2 f.status.toNat

/-- A frame from the cage is good: 44 samples, and its CRC-32C matches. -/
def oclGood (f : OclFrame) : Bool := decide (f.samples.length = 44 ∧ f.crc = crc32c (oclBytes f))

/-- The bytes of a control frame to the cage before its CRC: sequence, 28 heater words, 9 laser words and the
command word, low byte first (assumption 92). -/
def oclTxBytes (seq : W16) (heaters lasers : List Nat) (command : W64) : List Byte :=
  leBytes 2 seq.toNat ++ heaters.flatMap (leBytes 2) ++ lasers.flatMap (leBytes 4) ++ leBytes 8 command.toNat

/-- The commissioning record is good (R333, R342 step 2). -/
def recordGood (r : StoterRecord) : Bool := decide (r.crc = crc32c r.bytes)

/-- The mean of a channel over the latest `n` frames, rounded down (R358; assumption 93). -/
def monMean (h : List (List W16)) (n c : Nat) : Nat :=
  let l := (h.take n).map (fun x => (x.getD c 0).toNat)
  l.sum / l.length

/-! ### The decoupling matrix (R338) -/

/-- One column of a Gauss-Jordan elimination: its pivot row is scaled and moved into place, and cleared from the
other rows; none where the matrix has no pivot there. -/
def pivotStep (c : Nat) (m : List (List Rat)) : Option (List (List Rat)) :=
  match (m.drop c).find? (fun r => decide (r.getD c 0 ≠ 0)) with
  | none => none
  | some p =>
    let q := p.map (fun x => x / p.getD c 0)
    let rest := (m.erase p).map (fun r => List.zipWith (fun x y => x - r.getD c 0 * y) r q)
    some (rest.take c ++ q :: rest.drop c)

/-- The inverse of a square matrix of integers, where it has one. -/
def matInv (m : List (List Int)) : Option (List (List Rat)) :=
  let n := m.length
  let wide := (m.zipIdx).map (fun r =>
    r.1.map (fun x => (x : Rat)) ++ (List.range n).map (fun j => if j = r.2 then (1 : Rat) else 0))
  ((List.range n).foldl (fun (t : Option (List (List Rat))) c => t.bind (pivotStep c)) (some wide)).map
    (fun t => t.map (fun r => r.drop n))

/-- The decoupling matrix of a crosstalk matrix, exactly, in units of 2^-12; the record's entries are taken in the
same units, two's complement (the spec does not give them: PRESUMED, assumption 104). -/
def decoupling (cross : List (List W16)) : Option (List (List Rat)) :=
  (matInv (cross.map (fun r => r.map (fun x => x.toInt)))).map (fun t => t.map (fun r => r.map (fun x => x * 2 ^ 24)))

/-- An entry of the decoupling matrix: the exact value `x`, rounded as the word `w` shows where that is a rounding
of it (the spec gives no rounding), else down. -/
def decoupleWord (x : Rat) (w : W16) : W16 :=
  if x - 1 < (w.toInt : Rat) ∧ (w.toInt : Rat) < x + 1 then w else BitVec.ofInt 16 x.floor

/-! ### Fades (R345) -/

/-- `x / y` lies above `10 ^ e`. -/
def aboveTen (e : Int) (x y : Nat) : Bool := decide (10 ^ e.toNat * y < x * 10 ^ (-e).toNat)

/-- A number of hundredths of a dB is a rounding of a reading `a` against a reading `b` at commissioning: of
1000 times the logarithm of their ratio (R345, R358; how it is rounded is not given). Against darkness, the reading
is the least that REL holds. -/
def fadeIs (rel : Int) (a b : Nat) : Bool :=
  if b = 0 then true
  else if a = 0 then decide (rel = -32768)
  else aboveTen (rel - 1) (a ^ 1000) (b ^ 1000) && aboveTen (-rel - 1) (b ^ 1000) (a ^ 1000)

/-! ### Identity (R336, R337) -/

/-- The laser word of R334 for a laser that is on at a tone; every laser that is on carries the identity
subcarrier (R336). -/
def laserWord (tone : Nat) : Nat := 1 + tone * 2 + 2 ^ 5

/-- The tone check of R337. -/
def tonePass (exp : Nat) (r : ToneReading) : Bool :=
  let a := r.amps.getD exp 0
  (List.range 9).all (fun i => i == exp || decide (4 * r.amps.getD i 0 ≤ a)) && decide (r.fullScale ≤ 200 * a)

/-- The strongest tone of a check; 0xF where there is none. -/
def strongest (r : ToneReading) : Nat :=
  let m := r.amps.foldl max 0
  if m = 0 then 0xF else (r.amps.idxOf m)

/-! ### Searching a ring (R341) -/

/-- The step of a sweep, in codes, for a ring's tuning in MHz per code. -/
def sweepStep (k : Nat) : Nat := if 250 < k then 8 else 16

/-- Whether a ring's resonance shows as a dip of its monitor: modulators and tap rings show what passes
through, the others what they drop (R338). -/
def showsDip (r : Nat) : Bool := decide (r < 8 ∨ (16 ≤ r ∧ r < 24))

/-- The heights of a sweep's points above its floor, or below its ceiling where the resonance is a dip. -/
def heights (dip : Bool) (m : List W16) : List Nat :=
  let v := m.map (fun x => x.toNat)
  let hi := v.foldl max 0
  let lo := v.foldl min hi
  v.map (fun x => if dip then hi - x else x - lo)

/-- The places of the extrema that are higher than `floor`, in ascending order: `prev` is the point before,
`i` the place of the first. A flat top counts once, at its first point (assumption 94). -/
def peaks (floor : Nat) : Option Nat → Nat → List Nat → List Nat
  | _, _, [] => []
  | prev, i, x :: l =>
    let rises : Bool := prev.all (fun y => decide (y < x))
    let falls : Bool := l.head?.all (fun y => decide (y ≤ x))
    let rest := peaks floor (some x) (i + 1) l
    if rises && falls && decide (floor < 4 * x) then i :: rest else rest

/-- The candidates of a coarse sweep: its extrema deeper than a quarter of its range, as codes. -/
def sweepCands (dip : Bool) (step : Nat) (m : List W16) : List Nat :=
  let h := heights dip m
  (peaks (h.foldl max 0) none 0 h).map (fun n => step * n)

/-- The code of a candidate after its fine sweep, from `c - 2s` in steps of 2. -/
def fineCode (dip : Bool) (step c : Nat) (m : List W16) : Nat :=
  let h := heights dip m
  c + 2 * (h.idxOf (h.foldl max 0)) - 2 * step

/-- What a search of a ring found: the fine code of each candidate, with its tone check. -/
def sweepFound (r tune : Nat) (w : RingSweep) : List (Nat × ToneReading) :=
  let s := sweepStep tune
  let cs := sweepCands (showsDip r) s (w.coarse.take (16384 / s))
  (cs.zip w.fine).map (fun x => (fineCode (showsDip r) s x.1 x.2.1, x.2.2))

/-- The code that a search assigns to a tone: the lowest that carries it and lies in a range. -/
def assigned (found : List (Nat × ToneReading)) (tone : Nat) (ok : Nat → Bool) : Option Nat :=
  ((found.filter (fun c => tonePass tone c.2 && ok c.1)).map (fun c => c.1)).min?

end Sys2Proof.Machine
end

