-- ==== Sys2Proof/Machine/Cages.lean ====
section
/-!
DEFINITION. Stoter control (R330 to R358): control frames, bring-up, loops, mislocks, fades and the spare,
and the bypass.
-/
namespace Sys2Proof.Machine

/-- A cage beyond its registers. -/
def cageSt (s : State) (g : Nat) : Cage := tabGet cageReset s.cages g
/-- Change a cage. -/
def cageMod (g : Nat) (f : Cage → Cage) (s : State) : State := { s with cages := tabMod cageReset s.cages g f }

/-- CAGE_STAT.STATE (R358): 0 off, 1 link up, 2 searching, 3 locked, 4 fault. -/
def cageState (s : State) (g : Nat) : Nat := rf s (oCage g + 0x008) 0 3
/-- Set CAGE_STAT.STATE. -/
def cageStateSet (g v : Nat) (s : State) : State := rfSet (oCage g + 0x008) 0 3 v s
/-- CAGE_CTRL.EN. -/
def cageEn (s : State) (g : Nat) : Bool := rf s (oCage g + 0x004) 0 1 == 1
/-- CAGE_STAT.SPARE: 0 idle, 1 warming, 2 in service, 3 failed. -/
def spareState (s : State) (g : Nat) : Nat := rf s (oCage g + 0x008) 4 2

/-- Offset of a ring's register. -/
abbrev oRing (g r : Nat) : Nat := oCage g + 0x100 + 4 * r
/-- State of a ring: 0 parked, 1 searching, 2 locking, 3 locked, 4 quarantined, 5 failed. -/
def ringState (s : State) (g r : Nat) : Nat := rf s (oRing g r) 14 3
/-- Set the state of a ring. -/
def ringStateSet (g r v : Nat) (s : State) : State := rfSet (oRing g r) 14 3 v s
/-- Set the heater code of a ring. -/
def ringCode (g r v : Nat) (s : State) : State := rfSet (oRing g r) 0 14 v s

/-- Position served by a laser. -/
def laserPos (s : State) (g l : Nat) : Nat := rf s (oCage g + 0x300 + 4 * l) 0 4
/-- Set the position that a laser serves. -/
def laserPosSet (g l v : Nat) (s : State) : State := rfSet (oCage g + 0x300 + 4 * l) 0 4 v s

/-- The port that a cage serves (R330). -/
def portOfCage (s : State) (g : Nat) : Option Nat := (List.range 24).find? (fun p => decide (cageOf s p = some g))

/-- The rings that a role puts in service at a position (R331). -/
def ringsOfRole (role j : Nat) : List Nat :=
  match role with
  | 1 | 2 => [j, 8 + j]
  | 3 => [16 + j]
  | _ => []

/-- The rings that a position's role puts in service (R331). -/
def roleRings (s : State) (g j : Nat) : List Nat := ringsOfRole (roleOf s g j) j

/-- Every ring that the roles put in service. -/
def assignedRings (s : State) (g : Nat) : List Nat := (List.range 8).flatMap (roleRings s g)

/-! ### The commissioning record -/

/-- A ring's tuning in MHz per heater code (R333). -/
def ringTune (s : State) (g r : Nat) : Nat :=
  match (cageSt s g).record with
  | some x => (x.tune.getD r 0).toNat
  | none => 0

/-- A ring's thermal coefficient (R333). -/
def ringCoef (s : State) (g r : Nat) : Nat :=
  match (cageSt s g).record with
  | some x => (x.coef.getD r 0).toNat
  | none => 0

/-- The code that a search gave a ring for a position. -/
def calibOf (s : State) (g r j : Nat) : Nat := tabGet 0 (cageSt s g).calib (16 * r + j)

/-- The position whose code a ring is parked from: its own; for the locker that of the spare's tone, 8 or the
position that the spare serves; 0 for the other rings of the spare (assumption 95). -/
def parkPos (s : State) (g r : Nat) : Nat :=
  if r < 24 then r % 8
  else if r = 24 then (if spareState s g = 2 then rf s (oCage g + 0x008) 6 3 else 8)
  else 0

/-- The code that parks a ring 200 GHz from the grid (R333, R339): above its position's, or below where the
heater does not reach (assumption 95). -/
def parkCode (s : State) (g r : Nat) : Nat :=
  let a := calibOf s g r (parkPos s g r)
  let d := 200000 / ringTune s g r
  if a + d < 16384 then a + d else a - d

/-- A code lies within a frequency, in MHz, of a ring's calibrated position (R342 step 7, R344 step 3). -/
def nearCalib (s : State) (g r mhz code : Nat) : Bool :=
  let a := calibOf s g r (parkPos s g r)
  decide ((code - a + (a - code)) * ringTune s g r ≤ mhz)

/-! ### Frames and the control link -/

/-- A heater code moved by a shift, inside its range. -/
def codeShift (code : Nat) (d : Int) : Nat := min 16383 (Int.toNat ((code : Int) + d))

/-- The dither of a heater in the frame to be sent: ±4 codes at 2.5 kHz, that is 200 frames of 1 µs up and 200
down, on a locked drop filter, and on the spare laser's heater while the locker is locked (R338, R334; that it is a
square wave in step with the frame sequence is a DESIGN CHOICE, assumption 104). -/
def ditherOf (s : State) (g i : Nat) : Int :=
  let on : Bool := if i = 27 then ringState s g 24 == 3 else decide (8 ≤ i ∧ i < 16) && ringState s g i == 3
  if on = false then 0 else if (cageSt s g).seqTx.toNat / 200 % 2 = 0 then 4 else -4

/-- The 28 heater words in force: the codes of the rings and of the spare laser, with their dithers, or, once the
cage is no longer controlled, those of the time when the heartbeat stopped (R334, R338, R355). -/
def heaterWords (s : State) (g : Nat) : List Nat :=
  if cageEn s g then
    ((List.range 27).map (fun r => rf s (oRing g r) 0 14) ++ [(cageSt s g).spareCode]).zipIdx.map
      (fun x => codeShift x.1 (ditherOf s g x.2))
  else ((cageSt s g).keep ++ List.replicate 28 0).take 28

/-- The heartbeat stops; heater codes go on until the bypass is closed, or for 1 ms (R355). -/
def beatStop (g : Nat) (s : State) : State :=
  cageMod g (fun c => { c with beat := false, codesOn := c.codesOn || c.beat, keep := heaterWords s g }) s

/-- Set a laser's word and the position that it serves. -/
def laserPut (g l word pos : Nat) (s : State) : State :=
  laserPosSet g l pos (cageMod g (fun c => { c with lasers := tabSet 0 c.lasers l word }) s)

/-- The spare as the cage reports it at a bring-up (R357): in service, it has retired the laser of its position. -/
def spareSeen (g : Nat) (x : Option (Fin 4 × Fin 8)) (s : State) : State :=
  match x with
  | none => s
  | some (st, j) =>
    let s := rfSet (oCage g + 0x008) 6 3 j.val (rfSet (oCage g + 0x008) 4 2 st.val s)
    let s := cageMod g (fun c => { c with swap := if st = 1 then .warming j.val else .none }) s
    if st = 2 then laserPosSet g j.val 0xE s else s

/-- Lasers 0 to 7 go on at their positions' tones; a retired one stays off, and the spare that took its position
shines there (R342 step 3, R346). A spare that is idle is off. -/
def lasersOn (g : Nat) (s : State) : State :=
  let s := (List.range 8).foldl (fun s l => if laserPos s g l = 0xE then s else laserPut g l (laserWord l) l s) s
  match spareState s g with
  | 0 => laserPut g 8 0 8 s
  | 1 => laserPut g 8 (laserWord 8) 8 s
  | 2 => laserPut g 8 (laserWord (rf s (oCage g + 0x008) 6 3)) (rf s (oCage g + 0x008) 6 3) s
  | _ => laserPut g 8 0 0xF s

/-- Steps 1 to 3 of the bring-up (R342): the link is up; the commissioning record is judged; the bypass is closed
and the lasers go on. -/
def bringupBegin (g : Nat) (rec : Option StoterRecord) (spare : Option (Fin 4 × Fin 8)) (s : State) : State :=
  if cageEn s g = false ∨ 60 ∉ s.boot.released ∨ asked s 5 g = true then s
  else
    let s := if cageState s g = 0 then
        cageStateSet g 1 (cageMod g (fun c => { c with badTone := [], badFrame := [], fails := [], searched := false, compared := [] }) s)
      else s
    match rec with
    | none => s
    | some r =>
      if cageState s g ≠ 1 then s
      else if recordGood r then
        lasersOn g (spareSeen g spare (cageStateSet g 2 (cageMod g (fun c => { c with record := some r }) (beatStop g s))))
      else raise (oCage g + 0x020) 7 (record cSTOTER_INVALID .cage g .masked .none (cageStateSet g 4 s))

/-- The monitor means (R358), and the reading of each ring that is parked (R338). -/
def monNote (g : Nat) (samples : List W16) (s : State) : State :=
  let h := (samples :: (cageSt s g).hist).take 1000
  let s := (List.range 27).foldl (fun s r =>
    if ringState s g r = 0 then cageMod g (fun c => { c with parked := tabSet 0 c.parked r (samples.getD r 0).toNat }) s
    else s) s
  (List.range 44).foldl (fun s c =>
    regSet (oCage g + 0x200 + 4 * c) (BitVec.ofNat 32 (monMean h 20 c + monMean h 1000 c * 2 ^ 16)) s)
    (cageMod g (fun c => { c with hist := h }) s)

/-- OCL_FRAME_RECEIVE (R333, R334, R342 steps 1 to 3, R355, R358). `rec` is the commissioning record where the
Yardmaster has read it with this frame, `spare` what the cage reports of its spare. A frame that fails is a
microsecond without a good one. -/
def oclFrameReceive (g : Nat) (f : OclFrame) (rec : Option StoterRecord) (spare : Option (Fin 4 × Fin 8)) (s : State) : State :=
  if oclGood f = false then regAdd (oCage g + 0x410) 1 (regAdd (oCage g + 0x40C) 1 s)
  else
    let open_ := Config.statusBypass f.status
    let s := cageMod g (fun c => { c with seqRx := f.seq }) (countOn (oCage g + 0x410) s)
    let s := rfSet (oCage g + 0x028) 0 16 (Config.statusTemp f.status).toNat s
    let s := rfSet (oCage g + 0x008) 3 1 (b2n open_) s
    let s := monNote g f.samples s
    let s := if open_ = false ∧ (cageSt s g).beat = false then cageMod g (fun c => { c with codesOn := false }) s else s
    bringupBegin g rec spare (rfSet (oCage g + 0x008) 9 1 1 s)

/-- OCL_FRAME_SEND (R334, R355): the heater and laser words in force. What the command word says is not given
(assumption 92). -/
def oclFrameSend (g : Nat) (s : State) : State :=
  let c := cageSt s g
  if cageEn s g = false ∧ c.codesOn = false ∧ c.beat = false then s
  else
    let heaters := heaterWords s g
    let lasers := (List.range 9).map (fun l => tabGet 0 c.lasers l)
    let cmd : W64 := Config.freeWord s.free ++ Config.freeWord (s.free + 1)
    emit (.frame g c.seqTx heaters lasers cmd (crc32c (oclTxBytes c.seqTx heaters lasers cmd)))
      (cageMod g (fun c => { c with seqTx := c.seqTx + 1 }) { s with free := s.free + 2 })

/-- Quarantine every lane of a cage: its port loses them all and goes DOWN (R335, R356). -/
def cageQuarantine (g : Nat) (s : State) : State :=
  let s := (assignedRings s g).foldl (fun s r => ringStateSet g r 4 s) s
  let s := cageMod g (fun c => { c with quar := List.range 8 }) s
  match portOfCage s g with
  | some p =>
    let s := portLanesSet p 0 s
    if portState s p = 0 then s else portDown p s
  | none => s

/-- Loss of a cage's control link (R335): also the effect of a cage's block reset (R421). A swap that has not
come to step 4 leaves the spare idle (R357). -/
def cageLost (g : Nat) (s : State) : State :=
  let s := cageQuarantine g (beatStop g s)
  let s := raise (oCage g + 0x020) 5 (record cCAGE_LINK_LOST .cage g .masked .none s)
  let s := rfSet (oCage g + 0x008) 9 1 0 (cageStateSet g 0 s)
  if (cageSt s g).swap = .none then s
  else laserPut g 8 0 8 (rfSet (oCage g + 0x008) 4 2 0 (cageMod g (fun c => { c with swap := .none }) s))

/-- CAGE_LINK_LOST (R335, R358): up to 100 µs without good frames have not been counted yet. -/
def cageLinkLost (g : Nat) (s : State) : State :=
  if cageEn s g = true ∧ rf s (oCage g + 0x008) 9 1 = 1 then
    cageLost g (bumpFree (regAdd (oCage g + 0x410) (Config.freeNat s.free % 101) s))
  else s

/-! ### The loops (R338, R339) -/

/-- A channel's mean over the last 20 µs, as CAGE_MON shows it. -/
def monLoop (s : State) (g c : Nat) : Int := (rf s (oCage g + 0x200 + 4 * c) 0 16 : Nat)

/-- The error of a locked ring's loop, as numerator and denominator (R338). The slope that a drop filter's or
the locker's dither shows is measured outside (assumption 3). -/
def loopError (s : State) (g r : Nat) : Int × Nat :=
  if r < 8 then
    (monLoop s g r * 1024 - (rf s (oCage g + 0x014) 0 10 : Nat) * (tabGet 0 (cageSt s g).parked r : Nat), 1024)
  else if 16 ≤ r ∧ r < 24 then
    let rssi := monLoop s g (36 + (r - 16))
    let sum := rssi + monLoop s g r
    (rssi * 4096 - (rf s (oCage g + 0x040 + 4 * (r - 16)) 2 13 : Nat) * sum, 4096 * sum.toNat)
  else (toSigned 32 (Config.freeWord (s.free + r)).toNat, 1)

/-- The shift that a ring's loop wants, in codes: a locked ring's from its error, a parked one's from the
change of cage temperature that its heater has not yet followed, by its thermal coefficient and the temperature at
its last measurement (R339). -/
def wantedShift (s : State) (g r : Nat) : Int :=
  let c := cageSt s g
  if ringState s g r = 3 then
    let e := loopError s g r
    Config.loopShift r e.1 e.2
  else if ringState s g r = 0 then
    let at_ (t : W16) : Int := Config.thermalShift (ringCoef s g r) (t.toInt - (tabGet 0 c.tempAt r).toInt)
    at_ (BitVec.ofNat 16 (rf s (oCage g + 0x028) 0 16)) - at_ (tabGet 0 c.tempLoop r)
  else 0

/-- A row of the decoupling matrix times the wanted shifts, in whole codes (R338). -/
def heaterShift (s : State) (g i : Nat) (wanted : List Int) : Int :=
  ((wanted.zipIdx).map (fun x => toSigned 16 (regGet s (oCage g + 0x1000 + 4 * (27 * i + x.2))).toNat * x.1)).sum / 4096

/-- RING_LOOP_TICK (R338, R339): the decoupled heater changes. The locker's loop moves the spare laser's heater,
not the ring's, so what it wants moves no ring; a ring that is searched or that a hitch moves is left alone (R341). -/
def ringLoopTick (g : Nat) (s : State) : State :=
  if (cageState s g ≠ 2 ∧ cageState s g ≠ 3) ∨ (cageSt s g).searched = false then s
  else
    let locker : Bool := ringState s g 24 == 3
    let wanted := (List.range 27).map (fun r => if r = 24 ∧ locker = true then 0 else wantedShift s g r)
    let t := (List.range 27).foldl (fun t i =>
      if ringState s g i ≠ 0 ∧ ringState s g i ≠ 3 then t
      else ringCode g i (codeShift (rf s (oRing g i) 0 14) (heaterShift s g i wanted)) t) s
    let spare := if locker then codeShift (cageSt s g).spareCode (wantedShift s g 24) else (cageSt s g).spareCode
    let now := BitVec.ofNat 16 (rf s (oCage g + 0x028) 0 16)
    let parked := (List.range 27).filter (fun r => ringState s g r == 0)
    let u := cageMod g (fun c => { c with spareCode := spare,
                                          tempLoop := parked.foldl (fun t r => tabSet 0 t r now) c.tempLoop }) t
    { u with free := s.free + 27 }

/-! ### Identity (R336, R337) -/

/-- The tone expected at a ring: its position's, or that of the spare at the locker. -/
def expectedTone (s : State) (g r : Nat) : Nat :=
  if r < 24 then r % 8
  else match (cageSt s g).swap with
    | .warming _ => 8
    | .noticed j => j
    | .acked j => j
    | .none => if spareState s g = 2 then rf s (oCage g + 0x008) 6 3 else 8

/-- The laser that serves a position. -/
def laserAt (s : State) (g j : Nat) : Nat := ((List.range 9).find? (fun l => laserPos s g l == j)).getD j

/-- An identity word names the expected source of a ring, and its CRC is valid (R336, R337). CAGE_POS names
a broadcast's source by its hall address alone. -/
def frameOk (s : State) (g r : Nat) (w : W32) : Bool :=
  let n := w.toNat
  let crc := crc8 (leBytes 3 (n % 2 ^ 24)) == BitVec.ofNat 8 (n / 2 ^ 24)
  let own : Bool := decide (bits n 0 13 = haddr s ∧ bits n 13 4 = g)
  let j := r % 8
  let src : Bool :=
    if r < 8 then own && decide (bits n 17 4 = laserAt s g j)
    else if r < 16 then
      (if roleOf s g j = 2 then own
       else match portOfCage s g with
         | some p => decide (bits n 0 13 = rf s (oPort p + 0x008) 0 13 ∧ bits n 13 4 = Config.peerCage p)
         | none => false)
    else if r < 24 then decide (bits n 0 13 = rf s (oCage g + 0x040 + 4 * j) 16 13)
    else own && decide (bits n 17 4 = 8)
  crc && decide (bits n 21 3 = 0) && src

/-- Note the outcome of a check in the ring's register: TONE, and IDENT_OK where a frame was decoded. -/
def ringNote (g r : Nat) (x : ToneReading) (s : State) : State :=
  let s := rfSet (oRing g r) 17 4 (strongest x) s
  match x.frame with
  | some w => rfSet (oRing g r) 21 1 (b2n (frameOk s g r w)) s
  | none => s

/-- The lane that a ring serves. -/
def ringLane (s : State) (g r : Nat) : Nat := if r < 24 then r % 8 else rf s (oCage g + 0x008) 6 3

/-- Lanes of a cage return to its port: LINK lanes by a lane add (R344 step 5, R335 step 4). -/
def lanesReturn (g : Nat) (lanes : List Nat) (s : State) : State :=
  match portOfCage s g with
  | some p => laneAddHitch p (lanes.filter (fun j => roleOf s g j == 1)) s
  | none => s

/-- RING_NO_LOCK (R341, R344). -/
def ringNoLock (g r : Nat) (s : State) : State :=
  raise (oCage g + 0x020) 1 (record cRING_NO_LOCK .cage g .masked (.num r) (ringStateSet g r 5 s))

/-! ### Bring-up (R342) -/

/-- Positions with a ring that has failed. -/
def failedLanes (s : State) (g : Nat) : List Nat :=
  (List.range 8).filter (fun j => (roleRings s g j).any (fun r => ringState s g r == 5))

/-- The cage reports itself locked once every ring that its roles put in service is locked with its frame
check passed, or has failed (R342 step 8). A port whose control link was lost gets its lanes back by lane adds
(R335). -/
def cageSettle (g : Nat) (s : State) : State :=
  let ready (r : Nat) : Bool := (ringState s g r == 3 && rf s (oRing g r) 21 1 == 1) || ringState s g r == 5
  if cageState s g = 2 ∧ (cageSt s g).searched = true ∧ (assignedRings s g).all ready = true then
    let bad := failedLanes s g
    let s := cageMod g (fun c => { c with quar := bad }) (cageStateSet g 3 s)
    if (portOfCage s g).any (fun p => (portOf s p).out) then
      lanesReturn g ((List.range 8).filter (fun j => decide (j ∉ bad))) s
    else s
  else s

/-- A ring is measured and parked: its code, and the temperature of the measurement (R339). Its reading with the
ring parked follows with the next frame (R338). -/
def ringPark (g r : Nat) (s : State) : State :=
  let t := BitVec.ofNat 16 (rf s (oCage g + 0x028) 0 16)
  cageMod g (fun c => { c with tempAt := tabSet 0 c.tempAt r t, tempLoop := tabSet 0 c.tempLoop r t })
    (ringStateSet g r 0 (ringCode g r (parkCode s g r) s))

/-- Note the code that a search gave a ring for a position. -/
def calibPut (g r : Nat) (found : List (Nat × ToneReading)) (s : State) (j : Nat) : State :=
  match assigned found j (fun _ => true) with
  | some c => cageMod g (fun k => { k with calib := tabSet 0 k.calib (16 * r + j) c }) s
  | none => s

/-- The positions whose light a ring's search meets: all eight, or the spare's alone at the locker (R341, R342). -/
def searchPos (s : State) (g r : Nat) : List Nat := if r = 24 then [parkPos s g 24] else List.range 8

/-- A search has a flaw: a position with no candidate, or a candidate that carries no tone (R341). -/
def searchFlaw (js : List Nat) (found : List (Nat × ToneReading)) : Bool :=
  js.any (fun j => (assigned found j (fun _ => true)).isNone) || found.any (fun c => js.all (fun j => !tonePass j c.2))

/-- The strongest tone of the last check of a search (R358). -/
def searchTone (g r : Nat) (found : List (Nat × ToneReading)) (s : State) : State :=
  match found.getLast? with
  | some c => rfSet (oRing g r) 17 4 (strongest c.2) s
  | none => s

/-- One ring of the bring-up's search: the code of each position found, and RING_NO_LOCK where the search has a
flaw (R341). A ring that has found its own position serves all the same; one that has not has failed. The reading of
a ring that is parked is, until a frame brings it, that of the sweep at the code (R338; assumptions 94 and 104). -/
def ringSearched (g r : Nat) (w : RingSweep) (s : State) : State :=
  let found := sweepFound r (ringTune s g r) w
  let js := searchPos s g r
  let s := searchTone g r found (js.foldl (calibPut g r found) s)
  let own := if r < 25 then [parkPos s g r] else List.range 8
  if own.any (fun j => (assigned found j (fun _ => true)).isSome) then
    let s := if searchFlaw js found then
        raise (oCage g + 0x020) 1 (record cRING_NO_LOCK .cage g .masked (.num r) s) else s
    let m := (w.coarse.getD (parkCode s g r / sweepStep (ringTune s g r)) 0).toNat
    cageMod g (fun c => { c with parked := tabSet 0 c.parked r m }) (ringPark g r s)
  else ringNoLock g r s

/-- The decoupling matrix in force: the inverse of the stored crosstalk matrix, with the roundings that `dec`
shows (R338); where the record's matrix has no inverse, `dec` alone. -/
def decoupleSet (g : Nat) (dec : List (List W16)) (s : State) : State :=
  let inv := ((cageSt s g).record.bind (fun r => decoupling r.cross))
  (List.range (27 * 27)).foldl (fun s i =>
    let w := (dec.getD (i / 27) []).getD (i % 27) 0
    let v := match inv with
      | some m => decoupleWord ((m.getD (i / 27) []).getD (i % 27) 0) w
      | none => w
    regSet (oCage g + 0x1000 + 4 * i) (v.setWidth 32) s) s

/-- The rings of a spare in service stand on its position; a swap that the cage reports under way goes on with
step 1 (R346, R357). -/
def spareRings (g : Nat) (s : State) : State :=
  let j := rf s (oCage g + 0x008) 6 3
  if spareState s g = 2 then
    [24, 25, 26].foldl (fun s r =>
      if ringState s g r = 5 then s else ringStateSet g r 3 (ringCode g r (calibOf s g r j) s)) s
  else if spareState s g = 1 then ringStateSet g 24 2 (ringCode g 24 (rf s (oRing g j) 0 14) s)
  else s

/-- CAGE_BRINGUP_SEARCHED (R342 steps 5 to 7): every ring's search, the spare's light off again, the rings parked,
the decoupling matrix, the heartbeat where HOLD_OPEN asks for it (R355; DEDUCED, assumption 104), and the roles
applied. -/
def cageBringupSearched (g : Nat) (sweeps : List RingSweep) (dec : List (List W16)) (s : State) : State :=
  if cageEn s g = false ∨ cageState s g ≠ 2 ∨ (cageSt s g).searched = true then s
  else
    let s := (List.range 27).foldl (fun s r => ringSearched g r (sweeps.getD r ⟨[], []⟩) s) s
    let s := decoupleSet g dec s
    let s := if spareState s g = 0 then laserPut g 8 0 8 s else s
    let s := regAdd (oCage g + 0x404) 27 s
    let s := if rf s (oCage g + 0x004) 1 1 = 1 then cageMod g (fun c => { c with beat := true }) s else s
    let s := (assignedRings s g).foldl (fun s r =>
      if ringState s g r = 5 then s
      else rfSet (oRing g r) 21 1 0 (ringStateSet g r (if r < 8 then 2 else 1) s)) s
    cageSettle g (cageMod g (fun c => { c with searched := true }) (spareRings g s))

/-- CAGE_ENABLE: a write of CAGE_CTRL.EN. -/
def cageEnable (g : Nat) (v : Bool) (s : State) : State :=
  let keep := heaterWords s g
  let s := rfSet (oCage g + 0x004) 0 1 (b2n v) s
  if v then s
  else
    let s := rfSet (oCage g + 0x008) 9 1 0 (cageStateSet g 0 (cageMod g (fun c => { c with keep := keep, searched := false }) s))
    (List.range 9).foldl (fun s l =>
      let s := if laserPos s g l = 0xE then s else laserPosSet g l 0xF s
      cageMod g (fun c => { c with lasers := tabSet 0 c.lasers l 0 }) s) s

/-! ### Mislocks and recovery (R343, R344) -/

/-- A ring carries a lane: its role puts it in service, or it is one of the spare's (R331). -/
def ringServes (s : State) (g r : Nat) : Bool := decide (24 ≤ r ∨ r ∈ assignedRings s g)

/-- A mislock (R343, R344 steps 1 and 2). A ring that a hitch could not lock and that carries no lane is searched
again without one (R290, R357). -/
def mislock (g r : Nat) (s : State) : State :=
  let j := ringLane s g r
  let serves := ringServes s g r
  let s := ringStateSet g r 4 s
  let s := cageMod g (fun c => { c with
    quar := if serves then setAdd c.quar j else c.quar, badTone := tabSet 0 c.badTone r 0, badFrame := tabSet 0 c.badFrame r 0 }) s
  let s := regAdd (oCage g + 0x400) 1 s
  let s := raise (oCage g + 0x020) 0 (record cRING_MISLOCK .cage g .masked (.num r) s)
  match portOfCage s g with
  | some p => if roleOf s g j = 1 ∧ serves = true then shedLane p j s else s
  | none => s

/-- TONE_CHECK (R337, R342 step 8, R343). -/
def toneCheck (g r : Nat) (x : ToneReading) (s : State) : State :=
  if ringState s g r ≠ 3 then s
  else
    let s := ringNote g r x s
    let bt := if tonePass (expectedTone s g r) x then 0 else tabGet 0 (cageSt s g).badTone r + 1
    let bf := match x.frame with
      | some w => if frameOk s g r w then 0 else tabGet 0 (cageSt s g).badFrame r + 1
      | none => tabGet 0 (cageSt s g).badFrame r
    let s := cageMod g (fun c => { c with badTone := tabSet 0 c.badTone r bt, badFrame := tabSet 0 c.badFrame r bf }) s
    if 2 ≤ bt ∨ 2 ≤ bf then mislock g r s else cageSettle g s

/-- Step 3 or 4 of a recovery fails: another try, or RING_NO_LOCK after three in a row (R344). -/
def recoveryFails (g r : Nat) (s : State) : State :=
  let n := tabGet 0 (cageSt s g).fails r + 1
  let s := cageMod g (fun k => { k with fails := tabSet 0 k.fails r n }) (ringStateSet g r 4 s)
  if 3 ≤ n then ringNoLock g r s else s

/-- RING_SEARCH_DONE (R341, R344 step 3): the lowest code that carries the expected tone, within 400 GHz of the
calibrated position in a recovery, is locked on. A ring that carries no lane is parked from it. -/
def ringSearchDone (g r : Nat) (w : RingSweep) (s : State) : State :=
  if (ringState s g r ≠ 4 ∧ ringState s g r ≠ 1) ∨ (cageSt s g).searched = false then s
  else
    let again : Bool := ringState s g r == 4
    let found := sweepFound r (ringTune s g r) w
    let s := searchTone g r found (regAdd (oCage g + 0x404) 1 s)
    match assigned found (expectedTone s g r) (fun c => !again || nearCalib s g r 400000 c) with
    | some c =>
      if again = true ∧ ringServes s g r = false then
        ringPark g r (cageMod g (fun k => { k with calib := tabSet 0 k.calib (16 * r + parkPos s g r) c, fails := tabSet 0 k.fails r 0 }) s)
      else ringStateSet g r 2 (ringCode g r c s)
    | none => if again then recoveryFails g r s else ringNoLock g r s

/-- A hitch of this device moves a ring. -/
def ringMoved (s : State) (g r : Nat) : Bool :=
  s.hitch.part.any (fun h => h.acts.any (fun a => match a with
    | .retune c x _ _ => decide (c.val = g ∧ x.val = r)
    | _ => false))

/-- A ring locks once its expected tone has appeared (R342 steps 7 and 8): drop and tap rings within 50 GHz of
their calibrated positions. -/
def bringupLock (g r : Nat) (code : Nat) (x : ToneReading) (s : State) : State :=
  let s := ringNote g r x s
  if tonePass (expectedTone s g r) x ∧ (r < 8 ∨ nearCalib s g r 50000 code = true) then
    cageSettle g (ringStateSet g r 3 (ringCode g r code s))
  else cageSettle g (ringNoLock g r s)

/-- Every ring of a lane is locked: those that its role puts in service, and the spare's where it serves there. -/
def laneSound (s : State) (g j : Nat) : Bool :=
  (roleRings s g j).all (fun r => ringState s g r == 3) &&
    (spareState s g != 2 || rf s (oCage g + 0x008) 6 3 != j || [24, 25, 26].all (fun r => ringState s g r == 3))

/-- Step 4 of a recovery (R344): the tone and then the frame confirm the lock. Once every ring of the position is
locked, a LINK lane is added back and a broadcast lane restarts. -/
def recoveryLock (g r : Nat) (code : Nat) (x : ToneReading) (s : State) : State :=
  let s := ringNote g r x s
  if tonePass (expectedTone s g r) x = false then recoveryFails g r s
  else
    match x.frame with
    | none => ringCode g r code s
    | some w =>
      if frameOk s g r w then
        let j := ringLane s g r
        let s := ringStateSet g r 3 (ringCode g r code s)
        let s := cageMod g (fun k => { k with fails := tabSet 0 k.fails r 0 }) s
        if laneSound s g j then lanesReturn g [j] (cageMod g (fun k => { k with quar := setDel k.quar j }) s) else s
      else recoveryFails g r s

/-- RING_LOCK_ACQUIRE (R342 steps 7 and 8, R344 step 4). -/
def ringLockAcquire (g r : Nat) (code : BitVec 14) (x : ToneReading) (s : State) : State :=
  if (ringState s g r ≠ 1 ∧ ringState s g r ≠ 2) ∨ (cageSt s g).searched = false ∨ ringMoved s g r = true then s
  else if cageState s g = 3 then recoveryLock g r code.toNat x s
  else bringupLock g r code.toNat x s

/-! ### Fade and the spare (R345 to R348) -/

/-- The spare is on its way to a position. -/
def spareFor (s : State) (g j : Nat) : Bool := spareState s g == 1 && decide (rf s (oCage g + 0x008) 6 3 = j)

/-- Step 1 of R346: the spare on at tone 8, the locker on modulator j's code (assumption 95). -/
def spareWarm (g j : Nat) (s : State) : State :=
  let s := rfSet (oCage g + 0x008) 4 2 1 (rfSet (oCage g + 0x008) 6 3 j s)
  let s := ringStateSet g 24 2 (ringCode g 24 (rf s (oRing g j) 0 14) s)
  laserPut g 8 (laserWord 8) 8 (cageMod g (fun c => { c with swap := .warming j }) s)

/-- The source `key` of a swap condition, the laser or 16 plus the lane, meets it at position `j` (R345, R348): the
spare is switched in where it is idle and SPARE_AUTO allows it; where it is not, and is not on its way to this very
position, LASER_NO_SPARE is recorded for laser `l` once, when the condition is reached. A quarantined lane is judged
when it has returned (R357). -/
def swapCondition (g l j key : Nat) (s : State) : State :=
  if 8 ≤ j ∨ j ∈ (cageSt s g).quar then s
  else if spareState s g ≠ 0 then
    (if key ∉ (cageSt s g).acted ∧ spareFor s g j = false then
      raise (oCage g + 0x020) 4 (record cLASER_NO_SPARE .cage g .report (.num l)
        (cageMod g (fun c => { c with acted := setAdd c.acted key }) s))
     else s)
  else if rf s (oCage g + 0x004) 2 1 = 0 then s
  else spareWarm g j s

/-- A source of a swap condition does not meet it. -/
def swapOver (g key : Nat) (s : State) : State := cageMod g (fun c => { c with acted := setDel c.acted key }) s

/-- A reading's hundredths of a dB are those of the monitor's mean over 1 ms against the commissioning record
(R345). -/
def fadeFits (s : State) (g l : Nat) (rel : W16) : Bool :=
  match (cageSt s g).record with
  | none => true
  | some r => fadeIs rel.toInt (rf s (oCage g + 0x200 + 4 * (27 + l)) 16 16) (r.lasers.getD l 0).toNat

/-- Step 4 of the bring-up (R342): once every primary that is on has been compared, the search begins, and the spare
is lit at tone 8 for the locker's. -/
def bringupCompared (g l : Nat) (s : State) : State :=
  if cageState s g ≠ 2 ∨ (cageSt s g).searched = true then s
  else
    let s := cageMod g (fun c => { c with compared := setAdd c.compared l }) s
    let c := cageSt s g
    if (List.range 8).any (fun i => decide (tabGet 0 c.lasers i % 2 = 1 ∧ i ∉ c.compared)) then s
    else
      let s := (List.range 27).foldl (fun s r => ringStateSet g r 1 s) s
      if spareState s g = 0 then laserPut g 8 (laserWord 8) 8 s else s

/-- LASER_FADE_CHECK (R342 step 4, R345): `rel` is the comparison of the laser's reading with the commissioning
record. A fade is judged again once a quarantined lane has returned (R357). -/
def laserFadeCheck (g l : Nat) (rel : W16) (s : State) : State :=
  if tabGet 0 (cageSt s g).lasers l % 2 = 0 ∨ fadeFits s g l rel = false then s
  else
    let s := rfSet (oCage g + 0x300 + 4 * l) 16 16 rel.toNat s
    let v := toSigned 16 rel.toNat
    let w := if v ≤ -10 * (rf s (oCage g + 0x010) 0 8 : Int) then tabGet 0 (cageSt s g).warns l + 1 else 0
    let x := if v ≤ -10 * (rf s (oCage g + 0x010) 8 8 : Int) then tabGet 0 (cageSt s g).swaps l + 1 else 0
    let s := cageMod g (fun c => { c with warns := tabSet 0 c.warns l w, swaps := tabSet 0 c.swaps l x }) s
    let s := if w = 2 then raise (oCage g + 0x020) 2 (record cLASER_FADE .cage g .report (.num l) s) else s
    let s := if 2 ≤ x then swapCondition g l (laserPos s g l) l s else swapOver g l s
    bringupCompared g l s

/-- Steps 4 to 7 of R346: in one control frame laser j goes off, the combiner ring takes its last step and the
isolator ring moves onto the position; the modulator relocks on the spare's light, and the window's blocks are
resent. -/
def swapDo (g j : Nat) (s : State) : State :=
  let l := laserAt s g j
  let s := laserPut g 8 (laserWord j) j (laserPut g l 0 0xE s)
  let s := cageMod g (fun c => { c with swap := .none, acted := setDel (setDel c.acted l) (16 + j) }) s
  let s := rfSet (oCage g + 0x008) 4 2 2 s
  let s := ringStateSet g 25 3 (ringCode g 25 (calibOf s g 25 j) s)
  let s := ringStateSet g 26 3 (ringCode g 26 (calibOf s g 26 j) s)
  let s := regAdd (oCage g + 0x408) 1 s
  let s := raise (oCage g + 0x020) 3 (record cLASER_SWAPPED .cage g .masked (.num l) s)
  match portOfCage s g with
  | some p => if roleOf s g j = 1 then linkResend p s else s
  | none => s

/-- Step 4 of R346, which waits while a hitch holds the cage (R357). -/
def swapStep4 (g j : Nat) (s : State) : State :=
  if cageHeld s g then cageMod g (fun c => { c with swap := .acked j }) s else swapDo g j s

/-- Swaps that waited for a hitch go on (R357). -/
def swapsResume (s : State) : State :=
  (List.range 12).foldl (fun s g => match (cageSt s g).swap with
    | .acked j => if cageHeld s g then s else swapDo g j s
    | _ => s) s

/-- SPARE_LOCKED (R346 steps 1 to 3): the spare's heater has locked the locker at a code. The tone check, the
combiner ring within 64 codes of the position, then the SWAP notice, or the swap at once where the lane is not a
LINK lane. -/
def spareLocked (g : Nat) (code : BitVec 14) (x : ToneReading) (s : State) : State :=
  match (cageSt s g).swap with
  | .warming j =>
    let s := ringNote g 24 x (cageMod g (fun c => { c with spareCode := code.toNat }) s)
    if tonePass j x = false then
      laserPut g 8 0 0xF (rfSet (oCage g + 0x008) 4 2 3 (cageMod g (fun c => { c with swap := .none }) s))
    else
      let s := ringStateSet g 24 3 s
      let near := calibOf s g 25 j - Config.freeNat s.free % 65
      let s := bumpFree (ringStateSet g 25 2 (ringCode g 25 near s))
      let s := cageMod g (fun c => { c with swap := .noticed j, lasers := tabSet 0 c.lasers 8 (laserWord j) }) s
      if roleOf s g j = 1 then
        (match portOfCage s g with
         | some p => sendTo (peerHaddr s p) (.swapNotice j) s
         | none => s)
      else swapStep4 g j s
  | _ => s

/-- SWAP_ACK (R346 steps 4 to 7, R357). -/
def swapAck (g : Nat) (s : State) : State :=
  match (cageSt s g).swap with
  | .noticed j => swapStep4 g j s
  | _ => s

/-- LANE_BER_WINDOW (R306, R345): the window's error ratio against the shed threshold and, on an optical
port, against the swap threshold; `symbols` of the lane were in error. -/
def laneBerWindow (p lane errors n symbols : Nat) (s : State) : State :=
  if laneActive s p lane = false then s
  else
    let s := regAdd (oPort p + 0x200 + 4 * lane) symbols s
    let s := match cageOf s p with
      | some g =>
        if n < errors * 10 ^ rf s (oCage g + 0x010) 16 4 then swapCondition g (laserAt s g lane) lane (16 + lane) s
        else swapOver g (16 + lane) s
      | none => s
    if n < errors * 10 ^ rf s (oPort p + 0x014) 8 4 ∧ lane ∉ (portOf s p).masks then shedLane p lane s else s

/-! ### The bypass (R355, R356) -/

/-- Every ring is parked, or locked on a position that its role puts in service (R356). -/
def ringsSettled (s : State) (g : Nat) : Bool :=
  (List.range 27).all (fun r => decide (ringState s g r = 0 ∨ (ringState s g r = 3 ∧ (r ∈ assignedRings s g ∨ 24 ≤ r))))

/-- CAGE_HOLD_OPEN: a write of CAGE_CTRL.HOLD_OPEN. -/
def cageHoldOpen (g : Nat) (v : Bool) (s : State) : State :=
  if v then
    (if ringsSettled s g then
      cageMod g (fun c => { c with beat := true }) (rfSet (oCage g + 0x004) 1 1 1 s)
     else refuse (.write .bar0 (oCage g + 0x004) 2) .cage g s)
  else beatStop g (rfSet (oCage g + 0x004) 1 1 0 s)

/-- As a cage's control link trains, the EN and HOLD_OPEN bits that the board configuration record gives for it are
applied, once in a boot (R419). -/
def boardApply (g : Nat) (s : State) : State :=
  if rf s (oCage g + 0x008) 9 1 = 1 ∨ 60 ∉ s.boot.released ∨ g ∈ s.boot.cagesSet then s
  else
    match s.boot.images[2]? with
    | none => s
    | some im =>
      let v := Config.boardCage im.body g
      let s : State := { s with boot := { s.boot with cagesSet := setAdd s.boot.cagesSet g } }
      let s := if v.getLsbD 0 then cageEnable g true s else s
      if v.getLsbD 1 then cageHoldOpen g true s else s

/-- A frame arrives over a cage's control link (R334, R419): a good one trains the link. -/
def oclArrive (g : Nat) (x : OclSeen) (s : State) : State :=
  oclFrameReceive g x.frame x.record x.spare (if oclGood x.frame then boardApply g s else s)

/-- BYPASS_FAULT (R356). -/
def bypassFault (g : Nat) (s : State) : State :=
  if (rf s (oCage g + 0x008) 3 1 == 1) = (cageSt s g).beat then s
  else
    let s := raise (oCage g + 0x020) 6 (record cBYPASS_FAULT .cage g .masked .none s)
    beatStop g (cageStateSet g 4 (cageQuarantine g s))

/-- HEATER_CODES_TIMEOUT (R355). -/
def heaterCodesTimeout (g : Nat) (s : State) : State :=
  if (cageSt s g).beat then s else cageMod g (fun c => { c with codesOn := false }) s

end Sys2Proof.Machine
end

