-- ==== Sys2Proof/Machine/Collective.lean ====
section
/-!
DEFINITION. The collective entries as the host sets them (R361, R366, R367).
-/
namespace Sys2Proof.Machine

/-- Ranges of a collective entry under check: base and length of its staging. -/
def stageRange (s : State) (e : Nat) : Nat × Nat := (stageBase s e, stageSize s e)

/-- The checks of R367 for an entry that is to name `core` and `desc`. -/
def collLegal (s : State) (e core desc : Nat) : Bool :=
  let o := collOrder s e
  let st := stageRange s e
  let d := core / 4
  let nblk := bits (collReg s e 0xC) 0 16
  let mib := bits (collReg s e 0x1C) 0 10
  let others := (List.range 256).filter (fun x => x != e && collValid s x)
  decide (bits (collReg s e 0x10) 0 13 + collP s e ≤ 8192 ∧ o.Nodup) && o.all (fun r => decide (r < devices s)) &&
  decide (1 ≤ nblk ∧ 2 ≤ mib ∧ mib ≤ 512 ∧ cursorArea nblk + 2 ^ 20 ≤ st.2 ∧
    loftBase d ≤ st.1 ∧ st.1 + st.2 + cacheNow s d * 0x800_0000 ≤ loftBase d + loftSize) &&
  others.all (fun x =>
    !overlap st.1 st.2 (stageRange s x).1 (stageRange s x).2 &&
    !(decide (bits (collReg s x 4) 0 5 = core ∧ bits (collReg s x 4) 5 12 = desc) &&
      overlap (collReg s e 8) nblk (collReg s x 8) (bits (collReg s x 0xC) 0 16)))

/-- Set a register of a collective entry. -/
def collSet (e o v : Nat) (s : State) : State :=
  { s with fab := { s.fab with coll := tabSet 0 s.fab.coll (e * 16 + o / 4) (BitVec.ofNat 32 v) } }

/-- Empty an entry's staging and set every cursor to 0 (R367). -/
def collArm (e : Nat) (s : State) : State :=
  { s with fab := { s.fab with
      folds := s.fab.folds.filter (fun x => x.1 / 2 ^ 24 != e),
      staged := s.fab.staged.filter (fun x => x.entry != e) } }

/-- Every valid entry is armed anew, as at a job start or a restart (R367). -/
def collArmAll (s : State) : State :=
  (List.range 256).foldl (fun s e => if collValid s e then collArm e s else s) s

/-- PORT_COLL_TARGET with VALID 1 (R383). -/
def collTarget (core desc : Nat) : Nat := core + desc * 2 ^ 5 + 2 ^ 31

/-- COLL_ENTRY_VALIDATE (R366, R367): a write of PORT_COLL_TARGET with VALID 1. One that repeats the
present value is not refused (R461). -/
def collEntryValidate (e core desc : Nat) (s : State) : State :=
  let v := collTarget core desc
  if anyRun s then (if collReg s e 4 = v then s else refuse (.write .bar0 (oColl + 0x004) v) .coll 0 s)
  else if collLegal s e core desc then collArm e (collSet e 4 v s)
  else
    raise (oColl + 0x200) 2 (record cCOLL_ILLEGAL .coll 0 .stop (.num e) (collSet e 4 (core + desc * 2 ^ 5) s))

/-- A partition change of die `d` to `v` units would take a valid entry's staging (R382). -/
def collBlocks (s : State) (d v : Nat) : Bool :=
  (List.range 256).any (fun e => collValid s e && decide (bits (collReg s e 4) 0 5 / 4 = d) &&
    overlap (stageRange s e).1 (stageRange s e).2 (loftBase d + loftSize - v * 0x800_0000) (v * 0x800_0000))

end Sys2Proof.Machine
end

