-- ==== Sys2Proof/Machine/Operands.lean ====
section
/-!
DEFINITION. The operand forms of the command ring (R453, R454): the fields of a 64-byte command entry,
the command that an entry spells, and the entry of a command. A command whose operands stand in host
memory (HITCH_OPEN, LOAD, RESTART) is not spelled by its entry alone.
-/
namespace Sys2Proof.Machine

/-- A little-endian field of an entry. -/
def entryField (e : List Byte) (i w : Nat) : Nat := leNat ((e.drop i).take w)

/-- OPCODE, bytes 0 and 1. -/
def entryOp (e : List Byte) : Nat := entryField e 0 2
/-- TAG, bytes 2 and 3. -/
def entryTag (e : List Byte) : W16 := BitVec.ofNat 16 (entryField e 2 2)
/-- The kind of a HITCH_STAGE, byte 12. -/
def entryKind (e : List Byte) : Nat := entryField e 12 1

/-- The opcodes of R454. -/
def cmdOpcodes : List Nat := [0x0001, 0x0002, 0x0003, 0x0004, 0x0005, 0x0010, 0x0020, 0x0030, 0x0031]

/-- A command entry carries a reserved opcode or kind (R454). -/
def cmdIllegal (e : List Byte) : Bool :=
  decide (entryOp e ∉ cmdOpcodes) || decide (entryOp e = 2 ∧ (entryKind e = 0 ∨ 6 < entryKind e))

/-- A lane of a port, where both numbers name one. -/
def laneOf (p l : Nat) : Option (Fin 24 × Fin 8) :=
  if h : p < 24 ∧ l < 8 then some (⟨p, h.1⟩, ⟨l, h.2⟩) else none

/-- The action of a HITCH_STAGE entry (R454); none where the kind is reserved or an object field names
no object. -/
def entryAction (e : List Byte) : Option Action :=
  match entryKind e with
  | 1 => some (.regWrite (BitVec.ofNat 32 (entryField e 16 4)) (BitVec.ofNat 32 (entryField e 20 4))
      (BitVec.ofNat 32 (entryField e 24 4)))
  | 2 => some (.routeEdit (BitVec.ofNat 16 (entryField e 16 2)) (entryField e 18 2) (BitVec.ofNat 32 (entryField e 20 4)))
  | 3 => (laneOf (entryField e 16 1) (entryField e 17 1)).map (fun x => .laneAdd x.1 x.2)
  | 4 => (laneOf (entryField e 16 1) (entryField e 17 1)).map (fun x => .laneRemove x.1 x.2)
  | 5 =>
    if h : entryField e 16 1 < 12 ∧ entryField e 17 1 < 24 ∧ entryField e 20 2 < 8192 then
      some (.retune ⟨entryField e 16 1, h.1⟩ ⟨entryField e 17 1, by omega⟩ (BitVec.ofNat 8 (entryField e 18 1))
        (BitVec.ofNat 13 (entryField e 20 2)))
    else none
  | 6 =>
    if h : entryField e 20 1 < 32 then some (.streamStart (BitVec.ofNat 32 (entryField e 16 4)) ⟨entryField e 20 1, h⟩)
    else none
  | _ => none

/-- The command that an entry spells (R454). -/
def entryCommand (e : List Byte) : Option Instr :=
  match entryOp e with
  | 0x0002 => (entryAction e).map (fun a => .hitchStage (entryTag e) (BitVec.ofNat 16 (entryField e 8 2)) (entryField e 10 2) a)
  | 0x0003 => some (.hitchCommit (entryTag e) (BitVec.ofNat 16 (entryField e 8 2)))
  | 0x0004 => some (.hitchAbort (entryTag e) (BitVec.ofNat 16 (entryField e 8 2)))
  | 0x0005 => some (.hitchQuery (entryTag e) (BitVec.ofNat 16 (entryField e 8 2)))
  | 0x0010 => if entryField e 8 1 < 4 then some (.tackSet (entryTag e) (BitVec.ofNat 2 (entryField e 8 1))) else none
  | 0x0020 => some (.attest (entryTag e) ((e.drop 8).take 32) (BitVec.ofNat 64 (entryField e 40 8)))
  | _ => none

/-- An entry that names no object of its command: it spells none, though its operands stand in it. -/
def entryVoid (e : List Byte) : Bool :=
  decide (entryOp e ∈ [0x0002, 0x0003, 0x0004, 0x0005, 0x0010, 0x0020]) && (entryCommand e).isNone

/-- The object bytes of an action, from byte 16, and its kind; a checkpoint cut and a step commit have
none (R286). -/
def actionBytes (a : Action) : Option (Nat × List Byte) :=
  match a with
  | .regWrite o v m => some (1, leBytes 4 o.toNat ++ (leBytes 4 v.toNat ++ leBytes 4 m.toNat))
  | .routeEdit p e v => some (2, leBytes 2 p.toNat ++ (leBytes 2 e ++ (leBytes 4 v.toNat ++ leBytes 4 0)))
  | .laneAdd p l => some (3, leBytes 1 p.val ++ (leBytes 1 l.val ++ leBytes 10 0))
  | .laneRemove p l => some (4, leBytes 1 p.val ++ (leBytes 1 l.val ++ leBytes 10 0))
  | .retune g r pos w =>
    some (5, leBytes 1 g.val ++ (leBytes 1 r.val ++ (leBytes 1 pos.toNat ++ (leBytes 1 0 ++ (leBytes 2 w.toNat ++ leBytes 6 0)))))
  | .streamStart o b => some (6, leBytes 4 o.toNat ++ (leBytes 1 b.val ++ leBytes 7 0))
  | .cut _ _ => none
  | .stepCommit => none

/-- OPCODE, TAG and the reserved bytes. -/
def entryHead (op : Nat) (tag : W16) : List Byte := leBytes 2 op ++ (leBytes 2 tag.toNat ++ leBytes 4 0)

/-- The entry of a command (R454); none where an entry does not spell the command. -/
def commandEntry (c : Instr) : Option (List Byte) :=
  match c with
  | .hitchStage tag h r a =>
    (actionBytes a).map (fun x =>
      entryHead 0x0002 tag ++ (leBytes 2 h.toNat ++ (leBytes 2 r ++ (leBytes 1 x.1 ++ (leBytes 3 0 ++ (x.2 ++ leBytes 36 0))))))
  | .hitchCommit tag h => some (entryHead 0x0003 tag ++ (leBytes 2 h.toNat ++ leBytes 54 0))
  | .hitchAbort tag h => some (entryHead 0x0004 tag ++ (leBytes 2 h.toNat ++ leBytes 54 0))
  | .hitchQuery tag h => some (entryHead 0x0005 tag ++ (leBytes 2 h.toNat ++ leBytes 54 0))
  | .tackSet tag t => some (entryHead 0x0010 tag ++ (leBytes 1 t.toNat ++ leBytes 55 0))
  | .attest tag n a => some (entryHead 0x0020 tag ++ (n ++ (leBytes 8 a.toNat ++ leBytes 16 0)))
  | _ => none

end Sys2Proof.Machine
end

