-- ==== Sys2Proof/Machine/HostSide.lean ====
section
/-!
DEFINITION. The host attachment (R451 to R457): the commands in execution, and the command, completion and event rings.
-/
namespace Sys2Proof.Machine

/-! ### Commands in execution (R454) -/

/-- The hitch number that an entry names. -/
def entryNum (e : List Byte) : Option W16 :=
  if entryOp e ∈ [0x0002, 0x0003, 0x0004, 0x0005] then some (BitVec.ofNat 16 (entryField e 8 2)) else none

/-- The accepted entry of a command, with its opcode, tag and operands, whose turn it is (R454): it has not begun, and
no earlier entry that names the same hitch has still to begin. -/
def hostTurn (op : Nat) (tag : W16) (args : List Byte → Bool) (s : State) : Option HostCmd :=
  let l := s.host.running.filter (fun c => !c.begun)
  l.find? (fun c => decide (entryOp c.entry = op ∧ entryTag c.entry = tag) && args c.entry &&
    decide (entryNum c.entry = none ∨ l.find? (fun d => decide (entryNum d.entry = entryNum c.entry)) = some c))

/-- A host command executes once the device has accepted its entry (R454): the entry has begun, and stands first among
those in execution. -/
def runAs (op : Nat) (tag : W16) (args : List Byte → Bool) (body : State → State) (s : State) : State :=
  match hostTurn op tag args s with
  | none => s
  | some c => body { s with host := { s.host with running := { c with begun := true } :: s.host.running.erase c } }

/-- The first command in execution that `p` picks comes to the front: the one that completes next. -/
def fore (p : List Byte → Bool) (s : State) : State :=
  match s.host.running.find? (fun c => c.begun && p c.entry) with
  | none => s
  | some c => { s with host := { s.host with running := c :: s.host.running.erase c } }

/-- The tag of the first command in execution that `p` picks. -/
def runningTag (p : List Byte → Bool) (s : State) : Option W16 :=
  (s.host.running.find? (fun c => c.begun && p c.entry)).map (fun c => entryTag c.entry)

/-! ### Completions (R455) -/

/-- A completion entry (R455): tag, status, phase, abort cause, hitch number and result. -/
def cplBytes (tag status : W16) (cause : Nat) (hitch : W16) (result : Nat) (phase : Bool) : List Byte :=
  leBytes 2 tag.toNat ++ leBytes 2 status.toNat ++ leBytes 1 (b2n phase) ++ leBytes 1 cause ++ leBytes 2 hitch.toNat ++
    leBytes 8 result ++ List.replicate 16 0

/-- Write one completion entry and raise vector 0 (R455, R456). -/
def cplWrite (tag status : W16) (cause : Nat) (hitch : W16) (result : Nat) (s : State) : State :=
  msix 0 (ringWrote oCpl (emit (.completion (cplBytes tag status cause hitch result (ringPhase s oCpl))) s))

/-- The first command of a tag that has begun leaves execution: whether its completion is discarded (R457), and the
state. -/
def runDone (tag : W16) (s : State) : Bool × State :=
  match s.host.running.find? (fun c => c.begun && decide (entryTag c.entry = tag)) with
  | none => (false, s)
  | some c => (c.mute, { s with host := { s.host with running := s.host.running.erase c } })

/-- A completion entry can be written: the ring has room, and D3hot does not suspend it (R451, R453). -/
def cplRoom (s : State) : Bool := !ringFull s oCpl && !suspended s

/-- A host command completes (R453 to R455, R457): its entry waits while the ring is full or suspended, and is
discarded while the ring is out of service. -/
def complete' (tag status : W16) (cause : Nat) (hitch : W16) (result : Nat) (s : State) : State :=
  let r := runDone tag s
  if r.1 ∨ ringOn r.2 oCpl = false then r.2
  else if cplRoom r.2 then cplWrite tag status cause hitch result r.2
  else { r.2 with host := { r.2.host with waiting := r.2.host.waiting ++ [(tag, status, cause, hitch, result)] } }

/-- Completions that waited are written once there is room. -/
def cplDrain : Nat → State → State
  | 0, s => s
  | n + 1, s =>
    match s.host.waiting with
    | [] => s
    | (t, st, c, h, r) :: l =>
      if ringOn s oCpl = true ∧ cplRoom s = true then
        cplDrain n (cplWrite t st c h r { s with host := { s.host with waiting := l } })
      else s

/-- Ring service goes on after D3hot (R451): the events that waited, then the completions. -/
def ringsResume (s : State) : State :=
  if suspended s then s
  else
    let s := s.host.evWait.foldl (fun s e => eventWrite e s) { s with host := { s.host with evWait := [] } }
    cplDrain s.host.waiting.length s

/-- A host command that completes with a status and nothing else. -/
def complete1 (tag status : W16) (s : State) : State := complete' tag status 0 0 0 s

/-- A host command of an opcode of R454 that the present state refuses (R16): STATE_REFUSED is recorded and returned. -/
def refuseCmd (op : Nat) (tag : W16) (s : State) : State :=
  complete1 tag cSTATE_REFUSED (refuse (.ring op tag) .global 0 s)

/-- CMD_DOORBELL (R453): a write of CMD_TAIL. Before the seal it is discarded (R428). -/
def cmdDoorbell (tail : BitVec 13) (s : State) : State :=
  if isSealed s = false then refuse (.write .bar2 (oCmd + 0x10) tail.toNat) .security 0 s
  else if ringSize s oCmd ≤ tail.toNat then
    rf2Set (oCmd + 8) 31 1 0 (record cRING_BAD .global 0 .report .none s)
  else rf2Set (oCmd + 0x10) 0 13 tail.toNat s

/-- The device may take a command (R451, R453, R454). -/
def mayAccept (s : State) : Bool :=
  isSealed s && !suspended s && ringOn s oCmd && rf2 s (oCmd + 0xC) 0 13 != rf2 s (oCmd + 0x10) 0 13 &&
    decide (s.host.running.length < 16) && !(ringOn s oCpl && ringFull s oCpl)

/-- CMD_ACCEPT (R454): the next entry in ring order. An entry that names no object is refused (assumption
8). -/
def cmdAccept (entry : List Byte) (s : State) : State :=
  if mayAccept s = false then s
  else
    let s := rf2Set (oCmd + 0xC) 0 13 ((rf2 s (oCmd + 0xC) 0 13 + 1) % ringSize s oCmd) s
    let tag := entryTag entry
    if cmdIllegal entry then complete1 tag cCMD_ILLEGAL (record cCMD_ILLEGAL .global 0 .report .none s)
    else if entryVoid entry then refuseCmd (entryOp entry) tag s
    else { s with host := { s.host with running := s.host.running ++ [⟨entry, false, false⟩] } }

/-- PCIE_RESET (R457): the rings go out of service and to their reset values, every host hitch that is OPEN is
discarded, and the function's configuration starts anew; accepted commands run on, and their completions are
discarded. -/
def pcieReset (s : State) : State :=
  { s with
    cfg := [],
    regs2 := s.regs2.filter (fun e => decide (e.1 < 0x1000)),
    host := { hostReset with running := s.host.running.map (fun c => { c with mute := true }) },
    hitch := { s.hitch with coord := s.hitch.coord.filter (fun h => decide (¬ (h.src = .host ∧ h.st = .opened))) } }

end Sys2Proof.Machine
end

