-- ==== Sys2Proof/Machine/Stop.lean ====
section
/-!
DEFINITION. What stops engines from outside: the reset of a block's state (R421), the poisoning of a
core (R278, R282), and the stop of a paddock on one device (R405 step 3).
-/
namespace Sys2Proof.Machine

/-- Registers in `[lo, hi)` go to their reset values, but for LK fields, which the seal holds until the
next reset of the device (R428), and so do the HI words that reads have latched (R11). -/
def regsReset (lo hi : Nat) (s : State) : State :=
  { s with latches := s.latches.filter (fun e => decide (¬ (lo ≤ e.1 ∧ e.1 < hi))), regs := s.regs.filterMap (fun e =>
      if lo ≤ e.1 ∧ e.1 < hi then
        let m := accMask (fieldsOf e.1) .lk
        let v := (e.2 &&& m) ||| (regReset e.1 &&& ~~~m)
        if v = regReset e.1 then none else some (e.1, v)
      else some e) }

/-- Every sync counter and completion count of a core is poisoned (R278, R282). -/
def poisonTables (n : Nat) (cls : Class) (s : State) : State :=
  coreMod n (fun c =>
    let sync := (List.range 256).foldl (fun t i =>
      let v := tabGet ctrReset t i
      if v.poison.isSome ∧ v ≠ ctrReset then t else if v.poison.isSome then tabSet ctrReset t i { v with poison := some cls }
      else tabSet ctrReset t i { v with poison := some cls }) c.sync
    let ccnt := (List.range 512).foldl (fun t i =>
      let v := tabGet ccntReset t i
      if v.poison.isSome ∧ v ≠ ccntReset then t else tabSet ccntReset t i { v with poison := some (.abandoned cls) }) c.ccnt
    { c with sync := sync, ccnt := ccnt }) s

/-- Every counter and count of a core is poisoned, and POISON is raised (R278, R282, R295). -/
def poisonAll (n : Nat) (cls : Class) (s : State) : State := syncEvent n 3 cABANDONED 0 0 (poisonTables n cls s)

/-- Reset a core's engines, registers and tables; its counters are poisoned and its device epoch breaks
(R278, R284, R420, R421). -/
def coreBlockReset (cls : Class) (n : Nat) (s : State) : State :=
  let s := coreSet n coreReset s
  let s := regsReset (oCore n) (oCore n + 0x10_0000) (poisonTables n cls s)
  breakDevice cls s

/-- Reset a Groom; its counts are zeroed at the next arm (R421). -/
def groomBlockReset (k : Nat) (s : State) : State :=
  regsReset (oGroom k) (oGroom k + 0x1_0000)
    (groomMod k (fun g => { groomReset with counts := g.counts }) { s with exch := [] })

/-- Reset an HBM controller: cache lines of its stack are written back, contents and poisoned sectors
stay (R421), and the stack stays initialised (READY of R247). -/
def hbmBlockReset (k : Nat) (s : State) : State :=
  let s := cacheClean k true s
  rfSet (oHbm k + 0x008) 2 1 (rf s (oHbm k + 0x008) 2 1) <| regsReset (oHbm k) (oHbm k + 0x1_0000)
    { s with mem := { s.mem with tg := s.mem.tg.filter (fun e => decide (e.1 / 64 ≠ k)) } }

/-- Reset a Loft: its cache is written back, a change or a flush of it ends, and the die's registers go to their reset
values (R420, R421). -/
def loftBlockReset (d : Nat) (s : State) : State :=
  let s := cacheClean d false s
  regsReset (oDie d) (oDie d + 0x10_0000) { s with mem := { s.mem with loft := tabSet .idle s.mem.loft d .idle } }

/-- Reset a die: its four cores and its Loft (R421). -/
def dieBlockReset (cls : Class) (d : Nat) (s : State) : State :=
  loftBlockReset d ((List.range 4).foldl (fun s i => coreBlockReset cls (4 * d + i) s) s)

/-- Reset a port: its counters and link state; it trains anew (R421). -/
def portBlockReset (p : Nat) (s : State) : State :=
  portMod p (fun _ => portReset) (regsReset (oPort p) (oPort p + 0x1000) s)

/-! ### The paddock stop -/

/-- The contexts of a core stop: one that has joined an epoch wakes with ABANDONED (R284). A BAR at which the
context stands has no effect, so what its header wait took is given back (R84, R463). -/
def stopCtx (n : Nat) (cls : Class) (s : State) (x : Ctx) : State :=
  let v := (coreOf s n).ctx x
  let s := if v.bar.isSome then giveBack n (ctxWord (coreOf s n) x) s else s
  if v.bar = some .device ∨ v.bar = some .step then ctxFault n x cABANDONED cls s
  else ctxMod n x (fun v => { v with active := false, enq := none, bar := none, chainOcc := 0, dset := false }) s

/-- The filler program will run again from its entry point if it runs (R67). -/
def fillerMark (n : Nat) (s : State) : State :=
  let again : Bool := ctxRun s n .filler && (coreOf s n).ctxX.active
  ctxMod n .filler (fun v => { v with again := v.again || again }) s

/-- The filler context stands at its entry point (R67). -/
def fillerBack (n : Nat) (s : State) : State := ctxMod n .filler (fun v => { v with pc := v.entry }) s

/-- A core at a paddock stop: RUN bits 0, queues flushed with their work in flight, engines empty, open
chains released with FLUSHED (R126, R143), the filler program back at its entry point (R67), counters and counts poisoned (R278, R282, R405 step 3). -/
def stopCore (cls : Class) (s : State) (n : Nat) : State :=
  let s := fillerBack n ([Ctx.primary, Ctx.filler].foldl (stopCtx n cls) (fillerMark n s))
  let open_ := (List.range 8).filter (fun i => ((coreOf s n).stall i).chainOpen)
  let s := open_.foldl (fun s i => raise (oStall n i + 0x010) 3 s) s
  let s := rfSet (oCore n + 0x060) 0 2 0 (rfSet (oCore n + 0x004) 0 1 0 s)
  let wipe (q : Queue) : Queue := { q with live := [], mode := .normal, cls := .report, chains := [] }
  let still (t : Stall) : Stall := { t with act := none, busy := false, chainOpen := false, cLock := none, drains := [], stuck := none }
  let s := coreMod n (fun c => { c with
    qF := wipe c.qF, qB := wipe c.qB, qW := wipe c.qW, qX := wipe c.qX,
    stalls := (List.range 8).foldl (fun t i => tabMod stallReset t i still) c.stalls,
    chains := [], rfl := [], barrows := [] }) s
  poisonAll n cls s

/-- A Groom at a paddock stop: RUN 0; one held on a GWAIT halts with ABANDONED; every count is poisoned
(R282, R405 step 3). -/
def stopGroom (cls : Class) (s : State) (k : Nat) : State :=
  let g := groomOf s k
  let w := tabGet 0 g.uram (groomPc s k)
  let held : Bool := g.active && !g.halted && g.gop.isNone && decide (opOf w = 0xC0) &&
    (match bodyOf w with
     | .gwait h t => decide ((tabGet gcntReset g.counts (handleIndex h)).n.toNat < t.toNat)
     | _ => false)
  let s := groomMod k (fun g => { g with
    gop := none, cutWait := false,
    counts := (List.range 256).foldl (fun t i =>
      let v := tabGet gcntReset t i
      if v.poison.isSome then t else tabSet gcntReset t i { v with poison := some (.abandoned cls) }) g.counts }) s
  let s := rfSet (oGroom k + 0x004) 0 1 0 s
  if held then groomHalt k cABANDONED (groomPc s k) cls s else groomMod k (fun g => { g with active := false }) (countOn (oGroom k + 0x080) s)

/-- Discard the paddock's flits, landings, staging and resend buffers (R327, R382); the credits of flits
that leave an input buffer are owed (R304). -/
def fabDiscard (s : State) : State :=
  let f := s.fab
  let owed (q : Port) : Tab Nat := q.rx.foldl (fun t x => tabMod 0 t (fVc x) (fun n => n + 1)) q.owed
  let ports := (f.ports.map (fun e => (e.1, { e.2 with rx := [], tx := [], tap := [], btx := [], owed := owed e.2 }))).filter
    (fun e => decide (e.2 ≠ portReset))
  { s with fab := { f with ports := ports, tx := [], rx := [], landings := [], stuck := [], heldInj := [], arrivals := [], staged := [], folds := [] } }

/-- The class that an ABANDONED caused by a paddock stop carries: that of the event. No report stops a paddock,
so a STATE_REFUSED that does is an instruction's, which is stop-class (R384). -/
def stopClass (code : W16) : Class := faultClass false code

end Sys2Proof.Machine
end

