-- ==== Sys2Proof/Machine/Boot.lean ====
section
/-!
DEFINITION. Reset, boot, security (R410 to R430): the seven resets, the trim load, straps, the release of
islands, the image chain, measurement, the seal, block resets and attestation.
-/
namespace Sys2Proof.Machine

/-! ### Reset (R410 to R412) -/

/-- Registers that every reset but power-on keeps (R387, R394, R436): the Farrier's lanes, TRIM_GEN and
WARM_COUNT. -/
def keptRegs (s : State) : Tab W32 :=
  s.regs.filter (fun e => decide (e.1 ∈ [0x3000, 0x404C]))

/-- The Farrier's record after a reset: soft repairs become hard (R393), and power-on forgets the rest (R410),
which self-test finds again. -/
def farrierKept (cause : Nat) (f : Farrier) : Farrier :=
  let hard := (f.hard ++ f.soft).dedup
  if cause = 0 then { farrierReset with hard := hard } else { f with hard := hard, soft := [] }

/-- Byte addresses of HBM. -/
def hbmCells (l : List Host.Cell) : List Host.Cell := l.filter (fun e => decide (e.1 < hbmTop))

/-- A partition change that was accepted in `s` takes effect (R246). -/
def changeTakes (s t : State) (d : Nat) : State :=
  match loftOf s d with
  | .change v => rfSet (oDie d + 0x008) 0 5 v (rfSet (oDie d + 0x004) 0 5 v t)
  | _ => t

/-- The first edge of a reset from a source (R410, R411): heartbeats stop, RST_OUT_N goes low, the
generation advances, the trim load starts and issue stops; a warm reset writes every cache partition
back. A partition change that was accepted takes effect (R246). What the device holds beyond what is kept takes its value at reset. -/
def resetEdge (cause : Nat) (s : State) : State :=
  let cold : Bool := decide (cause = 0 ∨ cause = 6)
  let gen := (rf s 0x3000 8 8 + 1) % 256
  let warm := if cause = 0 then 0 else (rf s 0x3000 16 16 + (if cold then 0 else 1)) % 65536
  let cages := (List.range 12).foldl (fun t g =>
    tabSet cageReset t g { cageReset with codesOn := (cageSt s g).codesOn || (cageSt s g).beat, keep := heaterWords s g }) []
  let boot : Boot := { bootReset with
    straps := s.boot.straps, thermTrip := s.boot.thermTrip || decide (cause = 4), cold := cold || (s.boot.cold && decide (Group.hbmDies ∉ s.boot.ready)),
    trims := if cause = 0 then [] else s.boot.trims,
    fromTwin := decide (cause = 5), svn := s.boot.svn, exhausted := s.boot.exhausted && decide (cause ≠ 0), farrier := farrierKept cause s.boot.farrier }
  let regs := if cause = 0 then [] else keptRegs s
  let mem := ((List.range 8).foldl (fun s d => cacheClean d false s) s).mem
  let t : State := { State.reset with
    pending := s.pending, free := s.free, hostRead := s.hostRead, outbox := s.outbox, regs := regs,
    mem := { mem with cache := [], loft := [], tg := [] },
    cages := cages, boot := boot, log := if cause = 0 then logReset else { s.log with terms := [], reports := [] } }
  let t := (List.range 8).foldl (changeTakes s) t
  rfSet 0x3000 16 16 warm (rfSet 0x3000 8 8 gen (rfSet 0x3000 0 3 cause t))

/-- POWER_ON_RESET. -/
def powerOnReset (s : State) : State := resetEdge 0 s
/-- VIN_UNDERVOLTAGE_RESET (R440). -/
def vinReset (s : State) : State := resetEdge 6 s
/-- RST_IN_N_RESET. -/
def rstInReset (s : State) : State := resetEdge 1 s
/-- HOST_RESET (R436): GO with the key. -/
def hostResetCmd (key : Byte) (s : State) : State := if key = 0xD1 then resetEdge 2 s else s
/-- WATCHDOG_RESET. -/
def watchdogReset (s : State) : State := resetEdge 3 s

/-- THERMAL_TRIP (R410, R412): a sensor at or above 115 °C. -/
def thermalTrip (cause : TripCause) (s : State) : State :=
  match cause with
  | .die _ t => if t < 115 then s else resetEdge 4 s

/-- THERMAL_TRIP_CLEAR (R412): every die below 95 °C, every stack below its WARN threshold. -/
def thermalTripClear (dies hbms : List Byte) (s : State) : State :=
  if s.boot.thermTrip ∧ dies.length = 8 ∧ hbms.length = 8 ∧ dies.all (fun t => decide (t.toNat < 95)) ∧
      (hbms.zipIdx).all (fun t => decide (t.1.toNat < rf s (oHbm t.2 + 0x014) 0 8)) then
    { s with boot := { s.boot with thermTrip := false } }
  else s

/-- The device is in recovery wait (R425). -/
def inRecovery (s : State) : Bool := rf s oSec 0 3 == 4

/-- The recovery link is up (R423). -/
def linkUp (s : State) : Bool := (List.range 4).any (fun p => linkPort s p && portState s p == 2)

/-- TWIN_RECOVER (R425): in recovery wait, a RECOVER comes over the recovery link. -/
def twinRecover (s : State) : State :=
  if inRecovery s = true ∧ s.boot.straps.clkMode ≠ 3 then (if linkUp s then resetEdge 5 s else s)
  else refuse .recover .security 0 s

/-! ### Trims and straps (R413 to R417) -/

/-- A trim load passes (R413): 96 segments of 512 bytes, each against its CRC, and the whole against the
fused digest. -/
def trimPass (segs : List (List Byte × W32)) (digest : List Byte) : Bool :=
  decide (segs.length = 96) &&
    segs.all (fun x => decide (x.1.length = 512) && decide (crc32c x.1 = x.2)) &&
    decide (digest = Config.trimDigest) && decide (shake256 (segs.flatMap (fun x => x.1)) 32 = digest)

/-- The trim generation in force (R436). -/
def trimGen (s : State) : Nat := rf s 0x3000 8 8

/-- A write of a segment to the trim registers of an island, with its generation: the island keeps it only where that
is the counter's (R413 step 4). -/
def trimWrite (seg gen : Nat) (bytes : List Byte) (i : Nat) (s : State) : State :=
  if gen = trimGen s then
    { s with boot := { s.boot with trims := tabMod [] s.boot.trims i (fun l =>
        l.filter (fun x => decide (¬ (x.seg = seg ∧ x.gen = gen))) ++ [⟨seg, gen, bytes⟩]) } }
  else s

/-- Each segment of a load is written to the islands that it serves (R413 step 4). -/
def trimsWrite (segs : List (List Byte × W32)) (s : State) : State :=
  (segs.zipIdx).foldl (fun s x =>
    ((List.range 64).filter (fun i => Config.trimServes x.2 i)).foldl (fun s i => trimWrite x.2 (trimGen s) x.1.1 i s) s) s

/-- An island discards every trim that it holds from an earlier generation (R413, R420, R421). -/
def trimFit (i : Nat) (s : State) : State :=
  { s with boot := { s.boot with trims := tabMod [] s.boot.trims i (fun l => l.filter (fun x => decide (x.gen = trimGen s))) } }

/-- TRIM_LOAD_DONE (R413, R414). -/
def trimLoadDone (segs : List (List Byte × W32)) (digest : List Byte) (s : State) : State :=
  if s.boot.trimOk ∨ s.boot.trimFail then s
  else if trimPass segs digest then trimsWrite segs { s with boot := { s.boot with trimOk := true } }
  else
    let n := s.boot.trimTries + 1
    let s : State := { s with boot := { s.boot with trimTries := n } }
    if n < 3 then s
    else record cTRIM_FAIL .security 0 .stop .none { s with boot := { s.boot with trimFail := true } }

/-- RST_OUT_RELEASE (R412, R415). -/
def rstOutRelease (s : State) : State :=
  if s.boot.trimOk ∧ s.boot.thermTrip = false then { s with boot := { s.boot with rstOut := true } } else s

/-- Set the tack set of every island. -/
def tackAll (t : Nat) : Tab Nat := if t = 0 then [] else (List.range 64).map (fun i => (i, t))

/-- STRAP_LATCH (R416, R417, R425, R432, R433): SEC_BOOT_STAT holds the code of the failure that a test strap is. -/
def strapLatch (x : Straps) (s : State) : State :=
  if s.boot.rstOut = false ∨ s.boot.latched then s
  else
    let t := x.tackSel.toNat
    let now := if t = 3 then 2 else t
    let s : State := { s with boot := { s.boot with straps := x, latched := true }, power := { s.power with tack := tackAll now } }
    let s := rfSet 0x3040 2 2 now (rfSet 0x3040 0 2 t s)
    let s := rfSet 0x4018 3 3 x.feedId.toNat s
    if x.clkMode = 3 then rfSet oSec 16 16 cSTRAP_ILLEGAL.toNat (record cSTRAP_ILLEGAL .security 0 .stop .none s) else s

/-! ### Islands (R418 to R420) -/

/-- Islands that are released. -/
abbrev isOut (s : State) (i : Nat) : Prop := i ∈ s.boot.released

/-- The islands of the base dies (R441). -/
def hbmIslands : List Nat := (List.range 8).map (fun k => 40 + k)
/-- The islands of the compute dies: cores, Lofts and die-to-die interfaces (R441). -/
def dieIslands : List Nat :=
  List.range 32 ++ (List.range 8).map (fun d => 32 + d) ++ (List.range 8).map (fun d => 48 + d)

/-- The fabric islands are released. -/
def fabricOut (s : State) : Bool := (List.range 4).all (fun q => decide (isOut s (56 + q)))

/-- The release order of R419: the optics island is the last. -/
def mayRelease (s : State) (i : Nat) : Bool :=
  let stage := rf s oSec 0 3
  if i = 61 then s.boot.latched
  else if s.boot.straps.clkMode = 3 then false
  else if i = 62 ∨ i = 63 then decide (isOut s 61)
  else if i ∈ hbmIslands then decide (stage = 2 ∨ stage = 3) && decide (isOut s 62 ∧ isOut s 63)
  else if i ∈ dieIslands then decide (Group.hbmDies ∈ s.boot.ready)
  else if i = 60 then isSealed s && fabricOut s
  else decide (Group.computeDies ∈ s.boot.ready)

/-- Enter recovery wait (R425): ALERT_N is asserted by GLB_ALERT.RECOVERY. -/
def recoveryWait (s : State) : State := msix 3 (rfSet oSec 0 3 4 s)

/-- Judge the plan at the first release of a fabric island; the verdict stands until the next reset (R298). -/
def planCheck (s : State) : State :=
  if (List.range 4).any (fun q => decide (isOut s (56 + q))) then s
  else if planLegal s then { s with boot := { s.boot with planOk := true } }
  else record cPLAN_ILLEGAL .global 0 .stop .none s

/-- Before the compute dies are released, each zeroes its Mangers and its Loft, with valid codes, and its
sidecars (R241, R419 step 7). -/
def diesZero (s : State) : State :=
  { s with mem := { s.mem with bytes := hbmCells s.mem.bytes, badSram := [], softSram := [], sidecar := [] } }

/-- No island of a compute die has been released since the reset. -/
def diesHeld (s : State) : Bool :=
  decide (Group.computeDies ∉ s.boot.ready) && dieIslands.all (fun i => decide (¬ isOut s i))

/-- The ports of the recovery link are reset again as the fabric island is released (R423). -/
def linkReset (s : State) : State :=
  (List.range 4).foldl (fun s p =>
    if portState s p = 0 then s
    else portMod p (fun q => { q with out := false }) (linkClear p (portLanesSet p 0 (portStateSet p 0 s)))) s

/-- ISLAND_RELEASE (R413, R418 to R420): clock-good asserts, and the island is released in its turn, with the trims of
the current generation alone. -/
def islandRelease (i : Nat) (s : State) : State :=
  let off := if i < 32 then 0x3030 else 0x3034
  let s := rfSet off (i % 32) 1 1 s
  if isOut s i ∨ mayRelease s i = false then s
  else
    let s := if 56 ≤ i ∧ i < 60 then planCheck s else s
    let s := if i ∈ dieIslands ∧ diesHeld s = true then diesZero s else s
    let s := if i = 56 ∧ linkPort s 0 = true then linkReset s else s
    let s : State := trimFit i { s with boot := { s.boot with released := setAdd s.boot.released i } }
    if i = 61 then
      let s := rfSet oSec 3 2 (if s.boot.fromTwin then 2 else s.boot.straps.bootSrc.toNat) s
      if s.boot.straps.clkMode = 3 then recoveryWait s else s
    else if (i = 62 ∨ i = 63) ∧ isOut s 62 ∧ isOut s 63 ∧ rf s oSec 3 2 = 3 ∧ rf s oSec 0 3 = 0 then recoveryWait s
    else s

/-- Rows and stalls that fail a test are marked for sparing (R393). -/
def markSparing (rows stalls : List (Fin 256)) (f : Farrier) : Farrier :=
  { f with rowsPend := rows.foldl (fun l i => setAdd l i.val) f.rowsPend,
           stallsPend := stalls.foldl (fun l i => setAdd l i.val) f.stallsPend }

/-- GROUP_REPORTED_READY (R419 steps 6 and 7, R241, R393): after a cold reset the stacks are zeroed, with valid
codes, before they report ready; `rows` and `stalls` are what the self-test of the compute dies declares failed. -/
def groupReady (g : Group) (rows stalls : List (Fin 256)) (s : State) : State :=
  if g ∈ s.boot.ready then s
  else
    match g with
    | .hbmDies =>
      if hbmIslands.all (fun i => decide (isOut s i)) then
        let s : State := { s with boot := { s.boot with ready := s.boot.ready ++ [g] } }
        let s := (List.range 8).foldl (fun s k => rfSet (oHbm k + 0x008) 2 1 1 s) s
        if s.boot.cold then
          { s with mem := { s.mem with
              bytes := s.mem.bytes.filter (fun e => decide (hbmTop ≤ e.1)), badHbm := [], poison := [], softHbm := [] } }
        else s
      else s
    | .computeDies =>
      if dieIslands.all (fun i => decide (isOut s i)) then
        { s with boot := { s.boot with ready := s.boot.ready ++ [g], farrier := markSparing rows stalls s.boot.farrier } }
      else s

/-! ### Images (R422 to R426) -/

/-- A field of an image header. -/
def imgF (im : SignedImage) (lo n : Nat) : Nat := leNat ((im.header.drop lo).take n)
/-- KIND of an image. -/
abbrev imgKind (im : SignedImage) : Nat := imgF im 6 1
/-- Key slot of an image. -/
abbrev imgSlot (im : SignedImage) : Nat := imgF im 7 1
/-- SVN of an image. -/
abbrev imgSvn (im : SignedImage) : Nat := imgF im 8 4
/-- BODY_DIGEST of an image. -/
abbrev imgDigest (im : SignedImage) : List Byte := (im.header.drop 32).take 64

/-- Bytes `lo` to `lo + n - 1` of a header are zero. -/
def imgZero (im : SignedImage) (lo n : Nat) : Bool := ((im.header.drop lo).take n).all (fun b => decide (b = 0))

/-- An image has the form of R422: a whole header and a body of its LENGTH. -/
def imgFormed (im : SignedImage) : Bool :=
  decide (im.header.length = 512 ∧ imgF im 12 4 = im.body.length ∧ im.body.length ≤ 0x80_0000)

/-- The public key that travels with an image is the one of its slot: it hashes to the digest in the fuses (R422). -/
def imgKeyOk (im : SignedImage) : Bool :=
  decide (im.key.length = 57) && Config.keyDigest (imgSlot im) == some (shake256 im.key 32)

/-- The checks of R422 other than the SVN's. `slotOk` says which key slots the kind may use. -/
def imgAuth (im : SignedImage) (kind : Nat) (slotOk : Nat → Bool) : Bool :=
  imgFormed im &&
  decide (im.header.take 4 = [0x4F, 0x56, 0x41, 0x42] ∧ imgF im 4 2 = 1 ∧ imgKind im = kind) &&
  imgZero im 96 160 && imgZero im 370 142 &&
  slotOk (imgSlot im) && !Config.slotRevoked (imgSlot im) && imgKeyOk im &&
  Config.ed448Verify im.key (shake256 (im.header.take 256) 64) ((im.header.drop 256).take 114) &&
  decide (shake256 im.body 64 = imgDigest im)

/-- The fused counter of a kind: what manufacture and later seals have blown (R422, R437). -/
def fusedSvn (s : State) (k : Nat) : Nat := max (Config.fusedSvn k) (tabGet 0 s.boot.svn k)

/-- M (R426), from the registers that show it. -/
def measOf (s : State) : List Byte := (List.range 16).flatMap (fun i => leBytes 4 (regGet s (oSec + 0x100 + 4 * i)).toNat)

/-- Extend M and its log (R426). -/
def measExtend (kind svn : Nat) (digest : List Byte) (s : State) : State :=
  let m := shake256 (measOf s ++ leBytes 1 kind ++ leBytes 4 svn ++ digest) 64
  let s := (List.range 16).foldl (fun s i => regSet (oSec + 0x100 + 4 * i) (BitVec.ofNat 32 (leNat ((m.drop (4 * i)).take 4))) s) s
  let s := rfSet (oSec + 0x140) 0 9 (rf s (oSec + 0x140) 0 9 + 1) s
  { s with boot := { s.boot with log := s.boot.log ++ [(kind, svn, digest)] } }

/-- The boot mailbox's STATE and CODE (R459); vector 2 is raised where the state changes (R456). -/
def mbSet (st code : Nat) (s : State) : State :=
  let t := rf2Set 0x10 16 16 code (rf2Set 0x10 0 2 st s)
  if rf2 s 0x10 0 2 = st then t else msix 2 t

/-- A boot failure (R422, R423): the code, then the next copy of the flash or recovery wait. -/
def bootFail (code : W16) (s : State) : State :=
  let s := rfSet oSec 16 16 code.toNat (record code .security 0 .stop .none s)
  let s : State := { s with boot := { s.boot with images := [] } }
  let s := if rf s oSec 3 2 = 1 then mbSet 3 code.toNat s else s
  if rf s oSec 3 2 = 0 ∧ rf s oSec 5 1 = 0 then rfSet oSec 5 1 1 (rfSet oSec 0 3 0 s) else recoveryWait s

/-- Key slots of a boot image (R422): Ouvras for kinds 1 and 2, an operator for kind 3. -/
def bootSlot (kind slot : Nat) : Bool := if kind = 3 then decide (1 ≤ slot ∧ slot ≤ 3) else decide (slot = 0)

/-- BOOT_IMAGE_FETCHED (R419 steps 4 and 5, R422, R423, R426): stage 1, then stage 2, then the board
configuration record. The twin's come over the recovery link. A measurement log that is full takes no further load. -/
def bootImageFetched (img : Option SignedImage) (s : State) : State :=
  let stage := rf s oSec 0 3
  let kind := s.boot.images.length + 1
  if 2 ≤ stage ∨ ¬ (isOut s 62 ∧ isOut s 63) ∨ 3 < kind then s
  else
    match img with
    | none => bootFail cBOOT_SOURCE_FAIL s
    | some im =>
      if imgFormed im = false ∨ (rf s oSec 3 2 = 2 ∧ linkUp s = false) then bootFail cBOOT_SOURCE_FAIL s
      else if imgAuth im kind (bootSlot kind) = false then bootFail cBOOT_AUTH_FAIL s
      else if imgSvn im < fusedSvn s kind then bootFail cBOOT_ROLLBACK s
      else if 256 ≤ s.boot.log.length then bootFail cSTATE_REFUSED s
      else
        let s := measExtend kind (imgSvn im) (imgDigest im) s
        let s : State := { s with boot := { s.boot with images := s.boot.images ++ [im] } }
        let s := if rf s oSec 3 2 = 1 then mbSet 2 0 s else s
        if kind = 1 then rfSet oSec 0 3 1 s else if kind = 3 then rfSet oSec 0 3 2 s else s

/-- MAILBOX_GO (R423, R425, R428): the boot code fetches the image that the host names. -/
def mailboxGo (s : State) : State :=
  let fetch (s : State) : State := mbSet 1 (rf2 s 0x10 16 16) s
  if isSealed s ∨ s.boot.straps.clkMode = 3 then refuse (.write .bar2 0xC 1) .security 0 s
  else if inRecovery s then
    fetch (rfSet oSec 3 2 1 (rfSet oSec 0 3 0 { s with boot := { s.boot with images := [] } }))
  else if rf s oSec 3 2 = 1 ∧ rf s oSec 0 3 < 2 then fetch s
  else refuse (.write .bar2 0xC 1) .security 0 s

/-! ### The seal (R428, R429) -/

/-- The seal: LK fields lock, the fused counter that SEC_SVN_ADV names is blown if higher, the rings
open, a test port that stays open raises its alert (R456, R458), and a device strapped to Rest sets out for it (R433). -/
def sealDo (s : State) : State :=
  let adv := (regGet s (oSec + 0x01C)).toNat
  let k := adv % 4
  let s : State :=
    if 1 ≤ k ∧ fusedSvn s k < adv / 4 then { s with boot := { s.boot with svn := tabSet 0 s.boot.svn k (adv / 4) } } else s
  let s := rfSet oSec 0 3 3 (rfSet (oSec + 0x004) 1 1 1 s)
  let s := if rf s (oSec + 0x060) 0 2 = 3 then msix 3 s else s
  if s.boot.straps.tackSel = 3 then rfSet 0x3040 4 1 1 s else s

/-- SEC_SEAL: accepted from boot code in stage 2, once the fabric is released (R419 step 9). -/
def secSeal (s : State) : State :=
  if rf s oSec 0 3 = 2 ∧ isSealed s = false ∧ fabricOut s = true then sealDo s
  else refuse (.write .bar0 (oSec + 0x004) 1) .security 0 s

/-- SEAL_TIMEOUT (R429). -/
def sealTimeout (s : State) : State :=
  if rf s oSec 0 3 = 2 ∧ isSealed s = false then
    let s := record cSEAL_TIMEOUT .security 0 .report .none (sealDo s)
    msix 3 { s with boot := { s.boot with sealTimedOut := true } }
  else s

/-! ### Block resets (R421) -/

/-- Blocks of a kind. -/
def kindCount (k : Nat) : Nat := match k with
  | 0 => 32 | 1 | 2 | 3 => 8 | 4 => 24 | 5 => 12 | _ => 0

/-- The log's block of a kind. -/
def kindBlk (k : Nat) : Blk := match k with
  | 0 => .core | 1 => .groom | 2 => .hbm | 3 => .die | 4 => .port | _ => .cage

/-- BLOCK_RESET: a write of GLB_BLOCK_RESET with GO. The block is asked to go idle: a port goes down, a cage's rings are
parked. -/
def blockReset (kind : BitVec 3) (index : BitVec 5) (s : State) : State :=
  let k := kind.toNat
  let i := index.toNat
  if kindCount k ≤ i ∨ s.boot.block.isSome ∨ (k ≤ 3 ∧ anyRun s) then
    refuse (.write .bar0 0x3010 (k + i * 8 + 2 ^ 31)) .global 0 s
  else
    let s := rfSet 0x3010 3 5 i (rfSet 0x3010 0 3 k s)
    let s : State := { s with boot := { s.boot with block := some (k, i) } }
    let s := rfSet 0x3014 16 16 0 (rfSet 0x3014 0 2 1 s)
    if k = 4 ∧ portState s i ≠ 0 then portDown i s
    else if k = 5 then (List.range 27).foldl (fun s r => ringPark i r s) s
    else s

/-! ### Attestation (R427) -/

/-- The private identity key, which the key engine derives from the device secret at every reset (R427): SHAKE256, 456
bits, of the secret and the ASCII text OVA-8640 identity. The secret's bytes are taken in little-endian order, as
le512 takes M's (DEDUCED, assumption 6). -/
def identityPriv : List Byte :=
  shake256 (leBytes 32 Config.deviceSecret.toNat ++
    [0x4F, 0x56, 0x41, 0x2D, 0x38, 0x36, 0x34, 0x30, 0x20, 0x69, 0x64, 0x65, 0x6E, 0x74, 0x69, 0x74, 0x79]) 57

/-- The identity public key (R427, R437). -/
def identityPublic : List Byte := Config.ed448Public identityPriv

/-- GLB_STRAP as latched (R436). -/
def strapWord (x : Straps) : Nat :=
  x.bootSrc.toNat + x.clkMode.toNat * 4 + x.tackSel.toNat * 16 + x.feedId.toNat * 64 + x.twinSide.toNat * 512 +
    x.slotId.toNat * 1024

/-- The measurement log as bytes: kind, SVN and digest of each entry in order (assumption 26). -/
def logBytes (s : State) : List Byte := s.boot.log.flatMap (fun e => leBytes 1 e.1 ++ leBytes 4 e.2.1 ++ e.2.2)

/-- Bytes 0 to 255 of the report. -/
def attestBytes (nonce : List Byte) (s : State) : List Byte :=
  nonce ++ measOf s ++ shake256 (logBytes s) 64 ++ leBytes 4 s.boot.log.length ++
  (List.range 3).flatMap (fun k => leBytes 4 (fusedSvn s (k + 1))) ++ leBytes 4 (strapWord s.boot.straps) ++
  leBytes 4 ((regGet s (oSec + 0x060)).toNat % 4 + rf s 0x3040 2 2 * 2 ^ 24) ++
  leBytes 4 (0x10 + Config.serial.toNat % 2 ^ 24 * 2 ^ 8) ++ leBytes 4 (regGet s (oSec + 0x024)).toNat ++
  List.replicate 64 0

/-- ATTEST (R427): refused before the seal (R435). -/
def attest (tag : W16) (nonce : List Byte) (addr : W64) (s : State) : State :=
  if isSealed s = false then refuseCmd 0x20 tag s
  else
    let r := attestBytes ((nonce ++ List.replicate 32 0).take 32) s
    complete1 tag cOK (emit (.report addr (r ++ Config.ed448Sign identityPriv (shake256 r 64))) s)

end Sys2Proof.Machine
end

