-- ==== Sys2Proof/Machine/Power.lean ====
section
/-!
DEFINITION. Tack sets and the power controller (R431 to R434, R440 to R444, R464).
-/
namespace Sys2Proof.Machine

/-- Raise a W1C bit of GLB_ALERT and MSI-X vector 3 (R456, R458). -/
def alertSet (bit : Nat) (s : State) : State := msix 3 (rfSet 0x2000 bit 1 1 s)

/-- Tack set in force (R436). -/
abbrev tackNow (s : State) : Nat := rf s 0x3040 2 2
/-- Tack set requested (R436). -/
abbrev tackTarget (s : State) : Nat := rf s 0x3040 0 2
/-- A change is in progress (R434). -/
abbrev tackBusy (s : State) : Bool := rf s 0x3040 4 1 == 1

/-- The state refuses a request for a tack set (R432). -/
def tackRefused (t : Nat) (s : State) : Bool := decide (t = 3) && anyRun s

/-- Take a request (R432, R434): while BUSY it replaces the target. -/
def tackRequest (t : Nat) (s : State) : State :=
  let s := rfSet 0x3040 0 2 t s
  if tackNow s = t ∧ tackBusy s = false then s else rfSet 0x3040 4 1 1 s

/-- TACK_SET (R428, R432, R455): it completes when NOW reaches the target. -/
def tackSetCmd (tag : W16) (t : BitVec 2) (s : State) : State :=
  if isSealed s = false ∨ tackRefused t.toNat s = true then refuseCmd 0x10 tag s
  else
    let s := tackRequest t.toNat s
    if tackBusy s then s else complete1 tag cOK s

/-- TACK_TARGET_WRITE (R432). -/
def tackTargetWrite (t : BitVec 2) (s : State) : State :=
  if t.toNat ≠ tackTarget s ∧ tackRefused t.toNat s then refuse (.write .bar0 0x3040 t.toNat) .global 0 s else tackRequest t.toNat s

/-- An island takes the target's clocks (R434). The counts of one whose clock stops hold what they have reached
(R464); a stack enters self-refresh with Rest, or leaves it (R431, R433). -/
def islandTack (i : Nat) (s : State) : State :=
  let t := tackTarget s
  let s := if t = 3 ∧ tabGet 0 s.power.tack i ≠ 3 then countAll i s else s
  let s : State := { s with power := { s.power with tack := tabSet 0 s.power.tack i t } }
  if 40 ≤ i ∧ i < 48 then rfSet (oHbm (i - 40) + 0x008) 2 1 (b2n (decide (t ≠ 3 ∧ Group.hbmDies ∈ s.boot.ready))) s else s

/-- TACK_ISLAND_SWITCH (R434, R464): one island reaches the target. Grains that waited for a stack in self-refresh go on
when it leaves it. -/
def tackIslandSwitch (i : Nat) (s : State) : State :=
  if tackBusy s = false then s
  else
    let t := islandTack i s
    if 40 ≤ i ∧ i < 48 ∧ tabGet 0 s.power.tack i = 3 ∧ tackTarget s ≠ 3 then arrivalsGo t else t

/-! ### Clocks (R431, R442 to R444) -/

/-- Clock of the compute islands in a tack set, in MHz (R431). -/
def tackMhz : Nat → Nat
  | 0 => 1800 | 1 => 1500 | 2 => 1200 | _ => 0

/-- Clock of the Loft and die-to-die islands in a tack set (R431). -/
def loftMhz : Nat → Nat
  | 0 => 2000 | 1 => 1700 | 2 => 1400 | _ => 200

/-- Clock of the Groom islands in a tack set (R431). -/
def groomMhz : Nat → Nat
  | 0 => 1400 | 1 => 1200 | 2 => 1000 | _ => 0

/-- The clock that a tack set gives an island (R431, R441); the others keep theirs. -/
def targetMhz (i t : Nat) : Option Nat :=
  if i < 32 then some (tackMhz t)
  else if (32 ≤ i ∧ i < 40) ∨ (48 ≤ i ∧ i < 56) then some (loftMhz t)
  else if 40 ≤ i ∧ i < 48 then some (groomMhz t)
  else none

/-- The compute die whose heat slows an island (R242, R443): that of a core, a Loft or a die-to-die interface. -/
def dieOfIsland (i : Nat) : Option Nat :=
  if i < 32 then some (i / 4) else if 32 ≤ i ∧ i < 40 then some (i - 32) else if 48 ≤ i ∧ i < 56 then some (i - 48) else none

/-- A die is slowed, by its own heat (R443) or by its stack's (R242). -/
def dieSlow (s : State) (d : Nat) : Bool := decide (d ∈ s.power.hot) || decide (2 ≤ rf s (oHbm d + 0x008) 3 2)

/-- The clock of an island (R444): the lowest of what its tack set, the cap and its die's heat request; none where no
tack set touches it. A slowed die runs at three quarters of its target (R242 and R443 ask for at least a quarter less). -/
def islandMhz (s : State) (i : Nat) : Option Nat :=
  (targetMhz i (tabGet 0 s.power.tack i)).map (fun m =>
    let cap := if i < 32 then min m s.power.capLimit else m
    if (dieOfIsland i).any (dieSlow s) then min cap (m * 3 / 4) else cap)

/-- The highest clock that the tack sets in force give a compute island. -/
def topMhz (s : State) : Nat := (List.range 32).foldl (fun n i => max n (tackMhz (tabGet 0 s.power.tack i))) 0

/-- R442 is lowering clocks. -/
def capped (s : State) : Bool := decide (s.power.capLimit < topMhz s)

/-- The compute clocks are at the floor of R442. -/
def atFloor (s : State) : Bool := capped s && decide (s.power.capLimit ≤ 600)

/-- The lowest clock of a compute island that is released (R458); 0 where none is. -/
def lowMhz (s : State) : Nat :=
  (((List.range 32).filter (fun i => decide (isOut s i))).filterMap (islandMhz s)).min?.getD 0

/-- GLB_PWR_STAT (R458). -/
def pwrWord (s : State) : Nat := b2n (capped s) + b2n (atFloor s) * 2 + lowMhz s % 4096 * 2 ^ 16

/-- TACK_CHANGE_DONE (R434, R455): every island is at the target, and each TACK_SET that waits completes. -/
def tackChangeDone (s : State) : State :=
  if tackBusy s = false ∨ (List.range 64).any (fun i => decide (tabGet 0 s.power.tack i ≠ tackTarget s)) then s
  else
    let s := rfSet 0x3040 4 1 0 (rfSet 0x3040 2 2 (tackTarget s) s)
    let mine (c : HostCmd) : Bool := c.begun && entryOp c.entry == 0x0010
    (s.host.running.filter mine).foldl (fun s c =>
      complete1 (entryTag c.entry) cOK (fore (fun e => entryOp e == 0x0010 && entryTag e == entryTag c.entry) s)) s

/-- The cap of a tack set, in W (R431). -/
def tackCap : Nat → Nat
  | 0 => 3200 | 1 => 2600 | 2 => 2000 | _ => 450

/-- The effective cap (R442). -/
def effCap (s : State) : Nat := min (tackCap (tackNow s)) (rf s 0x1000 0 16)

/-- The cap's clock after one decision (R442): 50 MHz down, not below 600 MHz, or 50 MHz up, until it reaches the tack
set's target and asks for nothing more. -/
def capStep (top lim : Nat) (down up : Bool) : Nat :=
  if down then (if top ≤ 600 then lim else max 600 (min lim top - 50))
  else if up ∧ lim < top then (if top ≤ lim + 50 then 1800 else lim + 50)
  else lim

/-- POWER_CAP_TICK (R442): 50 MHz down while either average is above its limit, 50 MHz up while the 1 ms
average is below 0.95 of the cap. -/
def powerCapTick (avg1ms avg10us : Nat) (s : State) : State :=
  let s := rfSet 0x1004 16 16 (max (rf s 0x1004 16 16) avg10us) (rfSet 0x1004 0 16 avg1ms s)
  let cap := effCap s
  let lim := capStep (topMhz s) s.power.capLimit (decide (cap < avg1ms ∨ 5 * cap < 4 * avg10us)) (decide (100 * avg1ms < 95 * cap))
  { s with power := { s.power with capLimit := lim } }

/-- POWER_LIMIT_FAIL (R442): the 1 ms average still exceeds the cap at the floor. -/
def powerLimitFail (s : State) : State :=
  if atFloor s = true ∧ effCap s < rf s 0x1004 0 16 then alertSet 5 (record cPOWER_LIMIT_FAIL .global 0 .report .none s) else s

/-- RAIL_FAULT (R440). -/
def railFault (s : State) : State := alertSet 4 (record cRAIL_FAULT .global 0 .report .none s)

/-- Note a die's reading (R458). -/
def dieTemp (d t : Nat) (s : State) : State :=
  let o := 0x1020 + 4 * d
  rfSet o 8 8 (max (rf s o 8 8) t) (rfSet o 0 8 t s)

/-- DIE_HOT (R443): a reading at or above HOT. -/
def dieHot (d t : Nat) (s : State) : State :=
  let s := dieTemp d t s
  if t < rf s 0x1010 0 8 ∨ d ∈ s.power.hot then s
  else
    let s : State := { s with power := { s.power with hot := setAdd s.power.hot d } }
    alertSet 6 (record cDIE_HOT .die d .report (.num t) s)

/-- DIE_HOT_CLEAR (R443): the reading is 5 °C below HOT. -/
def dieHotClear (d t : Nat) (s : State) : State :=
  let s := dieTemp d t s
  if t + 5 ≤ rf s 0x1010 0 8 then { s with power := { s.power with hot := setDel s.power.hot d } } else s

/-- DIE_TEMP_PEAK_CLR (R458). -/
def dieTempPeakClr (d : Nat) (s : State) : State :=
  let o := 0x1020 + 4 * d
  rfSet o 8 8 (rf s o 0 8) s

/-! ### Live registers -/

/-- GLB_ALERT (R458): the live bits and the recorded ones. -/
def alertWord (s : State) : Nat :=
  b2n (rf s 0x4018 0 3 == 2) + b2n (inRecovery s) * 2 + b2n s.boot.sealTimedOut * 4 +
    b2n (isSealed s && rf s (oSec + 0x060) 0 2 == 3) * 8 + rf s 0x2000 4 3 * 16

/-- ALERT_N is low (R447). -/
def alertAsserted (s : State) : Bool := alertWord s != 0 || s.boot.trimFail

end Sys2Proof.Machine
end

