-- ==== Sys2Proof/Machine/HostGate.lean ====
section
/-!
DEFINITION. Which writes of the host reach BAR0 (R428, R287), and the commands that are such writes.
-/
namespace Sys2Proof.Machine

/-- A host window holds a BAR0 offset (R428, R437). -/
def inHostWin (s : State) (off : Nat) : Bool :=
  (List.range 8).any (fun i =>
    let w := (regGet s (oSec + 0x040 + 4 * i)).toNat
    decide (bits w 0 16 * 0x1000 ≤ off ∧ off < bits w 0 16 * 0x1000 + bits w 16 16 * 0x1000))

/-- The host may write a BAR0 offset: the device is sealed, and a host window holds it (R428). -/
def hostMay (s : State) (off : Nat) : Bool := isSealed s && inHostWin s off

/-- A host write of a field of BAR0 at bit `lo` of a register: discarded where R428 does not serve it, and
refused where a hitch holds the field, unless it repeats the field's value (R287, R461). -/
def hostGate (off lo value : Nat) (repeats : Bool) (body : State → State) (s : State) : State :=
  if hostMay s off = false then refuse (.write .bar0 off value) .security 0 s
  else if objTaken s none (1, off, lo) ∧ repeats = false then refuse (.write .bar0 off value) .global 0 s
  else body s

/-- A host write of `v` to the field of `w` bits at bit `lo`, which repeats the other fields. -/
def hostWrite (off lo w v : Nat) (body : State → State) (s : State) : State :=
  hostGate off lo (v * 2 ^ lo) (decide (rf s off lo w = v)) body s

/-- A host write of 1 to the WO bit `lo` of a register. -/
def hostAct (off lo : Nat) (body : State → State) (s : State) : State := hostGate off lo (2 ^ lo) false body s

/-- A RUN bit cannot be set in Rest (R432). -/
def restRefuses (s : State) (cur v : Bool) : Bool := v && !cur && decide (tackNow s = 3)

end Sys2Proof.Machine
end

