-- ==== Sys2Proof/Machine/CmdCage.lean ====
section
/-!
DEFINITION. The commands of the cages and the collective entries (R333 to R358, R367).
Each meaning answers a next state.
-/
namespace Sys2Proof.Machine

/-- OCL_FRAME_RECEIVE (R334). -/
def execOclFrameReceive (g : Fin 12) (f : OclSeen) (s : State) : Host.Outcome State Fault Refusal :=
  .next (oclArrive g.val f s)

/-- OCL_FRAME_SEND (R334). -/
def execOclFrameSend (g : Fin 12) (s : State) : Host.Outcome State Fault Refusal :=
  .next (Sys2Proof.Machine.oclFrameSend g.val s)

/-- CAGE_LINK_LOST (R335). -/
def execCageLinkLost (g : Fin 12) (s : State) : Host.Outcome State Fault Refusal :=
  .next (Sys2Proof.Machine.cageLinkLost g.val s)

/-- RING_LOOP_TICK (R338). -/
def execRingLoopTick (g : Fin 12) (s : State) : Host.Outcome State Fault Refusal :=
  .next (Sys2Proof.Machine.ringLoopTick g.val s)

/-- TONE_CHECK (R337). -/
def execToneCheck (g : Fin 12) (ring : Fin 27) (r : ToneReading) (s : State) : Host.Outcome State Fault Refusal :=
  .next (Sys2Proof.Machine.toneCheck g.val ring.val r s)

/-- RING_SEARCH_DONE (R341). -/
def execRingSearchDone (g : Fin 12) (ring : Fin 27) (w : RingSweep) (s : State) : Host.Outcome State Fault Refusal :=
  .next (Sys2Proof.Machine.ringSearchDone g.val ring.val w s)

/-- CAGE_ENABLE (R342). -/
def execCageEnable (g : Fin 12) (v : Bool) (s : State) : Host.Outcome State Fault Refusal :=
  .next (hostWrite (oCage g.val + 0x004) 0 1 (b2n v) (fun s => if cageEn s g.val = v then s else Sys2Proof.Machine.cageEnable g.val v s) s)

/-- CAGE_BRINGUP_SEARCHED (R342). -/
def execCageBringupSearched (g : Fin 12) (rings spare : List RingSweep) (decouple : List (List W16)) (s : State) :
    Host.Outcome State Fault Refusal :=
  .next (Sys2Proof.Machine.cageBringupSearched g.val (rings ++ spare) decouple s)

/-- RING_LOCK_ACQUIRE (R342). -/
def execRingLockAcquire (g : Fin 12) (ring : Fin 27) (code : BitVec 14) (r : ToneReading) (s : State) : Host.Outcome State Fault Refusal :=
  .next (Sys2Proof.Machine.ringLockAcquire g.val ring.val code r s)

/-- LASER_FADE_CHECK (R345). -/
def execLaserFadeCheck (g : Fin 12) (laser : Fin 9) (rel : W16) (s : State) : Host.Outcome State Fault Refusal :=
  .next (Sys2Proof.Machine.laserFadeCheck g.val laser.val rel s)

/-- SPARE_LOCKED (R346). -/
def execSpareLocked (g : Fin 12) (x : LockFound) (s : State) : Host.Outcome State Fault Refusal :=
  .next (Sys2Proof.Machine.spareLocked g.val x.code x.tone s)

/-- SWAP_ACK (R346). -/
def execSwapAck (g : Fin 12) (s : State) : Host.Outcome State Fault Refusal :=
  .next (Sys2Proof.Machine.swapAck g.val s)

/-- CAGE_HOLD_OPEN (R356). -/
def execCageHoldOpen (g : Fin 12) (v : Bool) (s : State) : Host.Outcome State Fault Refusal :=
  .next (hostWrite (oCage g.val + 0x004) 1 1 (b2n v) (fun s => if rf s (oCage g.val + 0x004) 1 1 = b2n v then s else Sys2Proof.Machine.cageHoldOpen g.val v s) s)

/-- BYPASS_FAULT (R356). -/
def execBypassFault (g : Fin 12) (s : State) : Host.Outcome State Fault Refusal :=
  .next (Sys2Proof.Machine.bypassFault g.val s)

/-- COLL_ENTRY_VALIDATE (R367). -/
def execCollEntryValidate (entry : Fin 256) (core : BitVec 5) (desc : BitVec 12) (s : State) : Host.Outcome State Fault Refusal :=
  .next (hostGate (oColl + 0x004) 31 (collTarget core.toNat desc.toNat)
    (decide (collReg s entry.val 4 = collTarget core.toNat desc.toNat))
    (Sys2Proof.Machine.collEntryValidate entry.val core.toNat desc.toNat) s)

/-- HEATER_CODES_TIMEOUT (R355). -/
def execHeaterCodesTimeout (g : Fin 12) (s : State) : Host.Outcome State Fault Refusal :=
  .next (Sys2Proof.Machine.heaterCodesTimeout g.val s)

end Sys2Proof.Machine
end

