-- ==== Sys2Proof/Machine/TileMath.lean ====
section
/-!
DEFINITION. What a TMUL computes (R121 to R139, R173): terms, windows, accumulators and the drain.
-/
namespace Sys2Proof.Machine

/-- The operand codes of one k-step of an exact-class or distance operand: 128 elements, each one code,
or two in FP4 (R103, R122, R123). -/
def kstepCodes (fmt : Nat) (l : List Byte) : List (List Nat) :=
  l.map (fun b => if fmt = 0 then [b.toNat % 16, b.toNat / 16] else [b.toNat])

/-- Cut a byte operand into its k-steps of 128 bytes. -/
def kRows : Nat → List Byte → List (List Byte)
  | 0, _ => []
  | k + 1, l => l.take 128 :: kRows k (l.drop 128)

/-- The operand vectors of each fold: one for each k-step, or one for each pair of k-steps in BF16,
whose low bytes stand in the even step and high bytes in the odd one (R123). -/
def folds (fmt : Nat) : List (List Byte) → List (List (List Nat))
  | [] => []
  | lo :: rest =>
    if fmt = 4 then
      match rest with
      | [] => []
      | hi :: rest' => (List.zipWith (fun (a b : Byte) => [a.toNat + 256 * b.toNat]) lo hi) :: folds fmt rest'
    else kstepCodes fmt lo :: folds fmt rest

/-- The window code W of a mode and formats (R129). -/
def windowOf (mode fa fb : Nat) : Nat :=
  let e5 := (if fa = 2 then 1 else 0) + (if fb = 2 then 1 else 0)
  match mode with
  | 0 => if fa = 3 then 0 else if fa = 0 then 1 else if e5 = 2 then 3 else if e5 = 1 then 4 else 7
  | 4 => if e5 = 0 then 6 else 2
  | 5 | 6 => 0
  | _ => 5

/-- Number of ones of a byte. -/
def popcount8 (n : Nat) : Nat := ((List.range 8).map (fun i => bits n i 1)).sum

/-- The aligned integer terms of one fold in one cell, in ascending depth (R130, R136); none where an
operand is non-finite (R137). -/
def cellTerms (f : TmulF) (as bs : List Nat) : Option (List Int) :=
  let fa := f.fmta.toNat
  let fb := f.fmtb.toNat
  let l := windowL (windowOf f.mode.toNat fa fb)
  let one (a b : Nat) : Option Int :=
    match f.mode.toNat with
    | 5 => some (popcount8 (a ^^^ b) : Int)
    | 6 =>
      match decode fa 0 a, decode fb 0 b with
      | .nan, _ => none
      | _, .nan => none
      | x, y => some (if vLt y x then 1 else 0)
    | m =>
      match decode fa 0 a, decode fb 0 b with
      | .fin x, .fin y =>
        some (match m with
          | 0 => alignTerm (dyMul x y) l
          | 1 | 2 => alignTerm (dyAdd x y) l
          | 3 => alignTerm { dySub x y with neg := false } l
          | _ => let d := dySub x y; alignTerm (dyMul d d) l)
      | _, _ => none
  (List.zipWith one as bs).foldr (fun o t => match o, t with
    | some x, some r => some (x :: r)
    | _, _ => none) (some [])

/-- The start value of an accumulator (R126). -/
def accStart (f : TmulF) : Acc :=
  if f.fmta.toNat = 4 then .flt dyZero
  else if f.mode.toNat = 1 then .exact (2 ^ 55 - 1)
  else if f.mode.toNat = 2 then .exact (-(2 ^ 55))
  else .exact 0

/-- Fold one term into an exact accumulator (R125, R136, R173): `depth` counts the depths folded with
this one, `last` says that it is the chain's last. -/
def accTerm (mode : Nat) (heritage : Bool) (depth : Nat) (last : Bool) (v t : Int) : Int :=
  match mode with
  | 1 => min v t
  | 2 => max v t
  | 0 =>
    let x := v + t
    if heritage && (depth % 32 == 0 || last) then roundRne24 x else x
  | _ => v + t

/-- Fold one operand pair into a cell. -/
def cellFold (f : TmulF) (heritage : Bool) (depth : Nat) (last : Bool) (acc : Acc) (as bs : List Nat) : Acc :=
  match acc with
  | .nf => .nf
  | .flt v =>
    match decode 4 0 (as.headD 0), decode 4 0 (bs.headD 0) with
    | .fin x, .fin y =>
      match acc40Round (.fin (dyAdd v (dyMul x y))) with
      | .fin r => .flt r
      | _ => .nf
    | _, _ => .nf
  | .exact v =>
    match cellTerms f as bs with
    | none => .nf
    | some ts =>
      let n := ts.length
      .exact ((ts.zipIdx).foldl (fun v p =>
        accTerm f.mode.toNat heritage (depth + p.2 + 1) (last && p.2 + 1 == n) v p.1) v)

/-- Fold one operand vector pair into the 128 × 128 cells, in row-major order (R121). -/
def tileFold (f : TmulF) (heritage : Bool) (depth : Nat) (last : Bool) (acc : List Acc)
    (a b : List (List Nat)) : List Acc :=
  List.zipWith (fun v p => cellFold f heritage depth last v p.1 p.2) acc
    (a.flatMap (fun x => b.map (fun y => (x, y))))

/-- Depths of one fold: two in FP4, one otherwise. -/
def foldDepth (f : TmulF) : Nat := if f.fmta.toNat = 0 then 2 else 1

/-- Run the folds of a TMUL: `depth` counts the depths folded before, `closing` says that the chain's
last depth is the last of these. -/
def tileRun (f : TmulF) (heritage closing : Bool) :
    Nat → List Acc → List (List (List Nat)) → List (List (List Nat)) → List Acc
  | _, acc, [], _ => acc
  | _, acc, _, [] => acc
  | depth, acc, a :: as, b :: bs =>
    let last := closing && as.isEmpty
    tileRun f heritage closing (depth + foldDepth f) (tileFold f heritage depth last acc a b) as bs

/-- The accumulators after a TMUL that reads `a` and `b` (R125 to R137, R173). -/
def tileMul (f : TmulF) (heritage closing : Bool) (ksteps : Nat) (acc : List Acc) (a b : List Byte) : List Acc :=
  let k := f.k.toNat
  let depth := if f.fmta.toNat = 0 then 2 * ksteps else ksteps
  tileRun f (heritage && f.mode.toNat == 0 && f.fmta.toNat != 4) closing depth acc
    (folds f.fmta.toNat (kRows k a)) (folds f.fmtb.toNat (kRows k b))

/-- Cells of a new tile (R126). -/
def tileStart (f : TmulF) : List Acc := List.replicate 16384 (accStart f)

/-- The value of an accumulator (R139). -/
def accVal (f : TmulF) : Acc → Val
  | .nf => .nan
  | .flt d => .fin d
  | .exact v => .fin (dyOfInt v (-(windowL (windowOf f.mode.toNat f.fmta.toNat f.fmtb.toNat) : Int)))

/-- One output element of a drain (R132, R137, R139): its code, saturation and non-finite flags. -/
def drainElem (f : TmulF) (shift : Int) (a : Acc) : Conv :=
  let w := windowOf f.mode.toNat f.fmta.toNat f.fmtb.toNat
  if f.fmtc.toNat = 7 then
    match a with
    | .exact v => ⟨x64 false w v, false, false⟩
    | _ => ⟨x64 true w 0, false, true⟩
  else
    match accVal f a with
    | .fin d => encode f.fmtc.toNat 0 (.fin (if f.sout = 1 then dyShift d shift else d))
    | v => encode f.fmtc.toNat 0 v

/-- The exponent that a drain applies to cell `i * 128 + j` (R138, R139). -/
def edgeShift (st : Stall) (e : Nat) : Int :=
  toSigned 8 (tabGet 0 st.rowScale (e / 128)).toNat + toSigned 8 (tabGet 0 st.colScale (e % 128)).toNat

/-- The output elements of a drain. -/
def drainTile (st : Stall) (t : Tile) : List Conv :=
  (t.acc.zipIdx).map (fun p => drainElem t.f (edgeShift st p.2) p.1)

end Sys2Proof.Machine
end

