-- ==== Sys2Proof/Machine/TroughMath.lean ====
section
/-!
DEFINITION. What a Trough chain and the reduction unit compute (R198 to R216).
-/
namespace Sys2Proof.Machine

/-- Row lane of a stream position (R199). -/
def rowOf (e : Nat) : Nat := e % 16384 / 128
/-- Column lane of a stream position (R199). -/
def colOf (e : Nat) : Nat := e % 128

/-- Elements of a member's stream. -/
def trgElems (f : TrgF) : Nat := (f.count.toNat + 1) * 512

/-- Values after a clear (R209). -/
abbrev negInf : Val := .inf true
abbrev vZero : Val := .fin dyZero

/-- A lane of an accumulator that RED names, as a readback gives it (R211). -/
def redLane (r : RedSet) (red lane : Nat) : Val :=
  match red with
  | 1 => tabGet negInf r.rowMax lane
  | 2 => tabGet vZero r.rowSum lane
  | 3 =>
    match tabGet none r.argBest lane with
    | some (_, c) => .fin (dyOfInt c 0)
    | none => .fin (dyOfInt 4294967295 0)
  | 4 => tabGet vZero r.rowAmax lane
  | 5 => tabGet vZero r.colSum lane
  | 7 => tabGet negInf r.colMax lane
  | _ => vZero

/-- The values of a stream that reads an accumulator (R211). -/
def redStream (r : RedSet) (red n : Nat) : List Val :=
  (List.range n).map (fun e => redLane r red (if red = 5 ∨ red = 7 then colOf e else rowOf e))

/-- The latches c0 to c3 of a chain, as whole streams. -/
abbrev Latches := Tab (List Val)

/-- Read a Manger stream of a format (R199, R200). -/
def mangerStream (s : State) (n off fmt count : Nat) : List Val :=
  ((elems fmt (memRead s (mangerBase n + off) (fmtBytes fmt count))).map (fun c => decode fmt 0 c))

/-- Source A of a member (R107). -/
def srcA (s : State) (n : Nat) (r : RedSet) (lat : Latches) (f : TrgF) : List Val :=
  match f.sa.toNat with
  | 0 => mangerStream s n (opnd f.a) f.fin.toNat (trgElems f)
  | 5 => redStream r f.red.toNat (trgElems f)
  | k => tabGet [] lat (k - 1)

/-- Source B of a member (R107, R200). -/
def srcB (s : State) (n : Nat) (lat : Latches) (f : TrgF) : List Val :=
  match f.sb.toNat with
  | 0 => mangerStream s n (opnd f.barg) f.fin.toNat (trgElems f)
  | 5 => List.replicate (trgElems f) (decode fBF16 0 (f.barg.toNat % 65536))
  | 6 | 7 => List.replicate (trgElems f) vZero
  | k => tabGet [] lat (k - 1)

/-- 1.0. -/
def vOne : Val := .fin ⟨false, 1, 0⟩

/-- A value times a power of two (R163). -/
def vScale (v : Val) (k : Int) : Val :=
  match v with
  | .fin d => .fin (dyShift d k)
  | w => w

/-- The exact result of an operation on one element (R201); `sig` is the exponent that CVTR, CVTD or
SHIFT applies. -/
def trgOp (op : Nat) (sig : Int) (a b : Val) : Val :=
  match op with
  | 0x00 => vPass a
  | 0x01 => vAdd a b
  | 0x02 => vAdd a (vNeg b)
  | 0x03 => vMul a b
  | 0x04 => vMax a b
  | 0x05 => vMin a b
  | 0x06 => vAbs a
  | 0x07 => vNeg a
  | 0x08 => vExp2 a
  | 0x09 => vLog2 a
  | 0x0A => vRecip a
  | 0x0B => vRsqrt a
  | 0x0C => if a = .nan ∨ b = .nan then .nan else if vLt b a then vOne else vZero
  | 0x0D => if a = .nan ∨ b = .nan then .nan else if vEq a b then vOne else vZero
  | _ => vScale a sig

/-- σ of a row lane for CVTR (R181, R215): ρ of the lane's amax. -/
def cvtrSigma (r : RedSet) (fout lane : Nat) : Int :=
  match tabGet vZero r.rowAmax lane with
  | .fin d => rho fout d
  | _ => 127

/-- CVTD narrows when its input format is BF16 or X64 (R183). -/
def cvtdNarrow (f : TrgF) : Bool := decide (f.fin.toNat = 4 ∨ f.fin.toNat = 7)

/-- The exponent that a member applies to element `e`. -/
def memberShift (r : RedSet) (m : Member) (e : Nat) : Int :=
  match m.f.op.toNat with
  | 0x10 => -(cvtrSigma r m.f.fout.toNat (rowOf e))
  | 0x11 => if cvtdNarrow m.f then -(dSCALE m.desc) else dSCALE m.desc
  | 0x12 => toSigned 16 m.f.barg.toNat
  | _ => 0

/-- What one element of a member gives: the value that passes on (R202), its code where D is 0, its
saturation, whether it wrote a non-finite value, and its exact result. -/
structure MElem where
  val : Val
  code : Nat
  sat : Bool
  nf : Bool
  exact : Val
deriving DecidableEq, Repr

/-- One element of a member (R201, R202). -/
def memberElem (r : RedSet) (m : Member) (e : Nat) (a b : Val) : MElem :=
  let x := trgOp m.f.op.toNat (memberShift r m e) a b
  if m.f.d = 0 then
    let c := encode m.f.fout.toNat 0 x
    ⟨decode m.f.fout.toNat 0 c.code, c.code, c.sat, c.nf, x⟩
  else
    let y := laneRound x
    ⟨y.1, 0, y.2, false, x⟩

/-- The stream of a member and its source A. -/
structure MOut where
  m : Member
  src : List Val
  elems : List MElem
deriving DecidableEq, Repr

/-- Run a chain's members over their streams, in order (R203). -/
def chainRun (s : State) (n : Nat) (r : RedSet) : Latches → List Member → List MOut
  | _, [] => []
  | lat, m :: ms =>
    let a := srcA s n r lat m.f
    let b := srcB s n lat m.f
    let es := ((List.zip a b).zipIdx).map (fun p => memberElem r m p.2 p.1.1 p.1.2)
    let d := m.f.d.toNat
    let lat' := if 1 ≤ d ∧ d ≤ 4 then tabSet [] lat (d - 1) (es.map (fun x => x.val)) else lat
    ⟨m, a, es⟩ :: chainRun s n r lat' ms

/-! ### Taps (R209, R210) -/

/-- Fold one group's elements of a lane into a sum: exact inside the group, rounded once (R210). -/
def sumGroup (t : Tab Val) (l : List (Nat × Val)) : Tab Val :=
  let lanes := l.foldl (fun acc p => setAdd acc p.1) []
  lanes.foldl (fun t lane =>
    let g := (l.filter (fun p => p.1 = lane)).foldl (fun x p => vAdd x p.2) vZero
    tabSet vZero t lane (laneRound (vAdd (tabGet vZero t lane) g)).1) t

/-- Raise a lane to the greater of itself and a value; NaN is sticky (R209). -/
def maxLane (t : Tab Val) (lane : Nat) (v : Val) : Tab Val :=
  tabSet negInf t lane (vMax (tabGet negInf t lane) v)

/-- One element of a RED 3 tap at the row argmax (R210). -/
def argStep (r : RedSet) (lane : Nat) (v : Val) : RedSet :=
  let c := tabGet 0 r.argSeen lane
  let better := match v, tabGet none r.argBest lane with
    | .nan, _ => false
    | _, none => true
    | _, some (b, _) => vLt b v
  { r with argSeen := tabSet 0 r.argSeen lane (c + 1),
           argBest := if better then tabSet none r.argBest lane (some (v, c)) else r.argBest }

/-- One tapped element at the accumulators that are not sums. -/
def tapElem (red : Nat) (r : RedSet) (p : Nat × Val) : RedSet :=
  let e := p.1
  let v := p.2
  let r := { r with elems := r.elems + 1, nfs := if v.isNf then r.nfs + 1 else r.nfs }
  match red with
  | 1 => { r with rowMax := maxLane r.rowMax (rowOf e) v, maxSeen := setAdd r.maxSeen (rowOf e) }
  | 3 =>
    argStep { r with rowMax := maxLane r.rowMax (rowOf e) v, maxSeen := setAdd r.maxSeen (rowOf e) } (rowOf e) v
  | 4 =>
    match v with
    | .fin d =>
      let x := vMax (tabGet vZero r.rowAmax (rowOf e)) (vAbs (.fin d))
      { r with rowAmax := tabSet vZero r.rowAmax (rowOf e) x }
    | _ => r
  | 7 => { r with colMax := maxLane r.colMax (colOf e) v }
  | _ => r

/-- One group of a tap (R210). -/
def tapGroup (red : Nat) (r : RedSet) (l : List (Nat × Val)) : RedSet :=
  let r := l.foldl (tapElem red) r
  let r := if red = 2 ∨ red = 6 then { r with rowSum := sumGroup r.rowSum (l.map (fun p => (rowOf p.1, p.2))) } else r
  if red = 5 ∨ red = 6 then { r with colSum := sumGroup r.colSum (l.map (fun p => (colOf p.1, p.2))) } else r

/-- Cut a stream into its groups of 512. -/
def groupsOf {α : Type} : Nat → List α → List (List α)
  | 0, _ => []
  | n + 1, l => l.take 512 :: groupsOf n (l.drop 512)

/-- The taps of one member over `g` groups. -/
def tapMember (r : RedSet) (g : Nat) (o : MOut) : RedSet :=
  if o.m.f.red = 0 ∨ o.m.f.sa.toNat = 5 then r
  else (groupsOf g ((o.elems.zipIdx).map (fun p => (p.2, p.1.val)))).foldl (tapGroup o.m.f.red.toNat) r

/-! ### Summaries (R213, R214) -/

/-- The ordered key of a value, sign-extended to 64 bits (R214). -/
def keyOf (v : Val) : W64 :=
  let b := (encode fBF16 0 v).code
  if b < 2 ^ 15 then BitVec.ofNat 64 b else BitVec.ofInt 64 (-((b % 2 ^ 15 : Nat) : Int))

/-- The greatest of the 128 lanes of a table; NaN where any lane holds it. -/
def greatestLane (d : Val) (t : Tab Val) : Val :=
  (List.range 128).foldl (fun v i => vMax v (tabGet d t i)) (tabGet d t 0)

/-- The sum of the 128 lanes, in ascending order, rounded after each add. -/
def laneSum (t : Tab Val) : Val :=
  (List.range 128).foldl (fun v i => (laneRound (vAdd v (tabGet vZero t i))).1) vZero

/-- The row of SEL 4: the lowest-numbered qualifying row whose lane holds the greatest value. -/
def bestRow (r : RedSet) : Option Nat :=
  ((List.range 128).filter (fun i => decide (i ∈ r.maxSeen ∧ tabGet negInf r.rowMax i ≠ .nan))).foldl
    (fun b i => match b with
      | none => some i
      | some j => if vLt (tabGet negInf r.rowMax j) (tabGet negInf r.rowMax i) then some i else some j) none

/-- The summary that SEL selects (R213). -/
def summary (r : RedSet) (sel : Nat) : W64 :=
  match sel with
  | 0 => keyOf (greatestLane negInf r.rowMax)
  | 1 => keyOf (greatestLane vZero r.rowAmax)
  | 2 => keyOf (laneSum r.rowSum)
  | 3 => keyOf (laneSum r.colSum)
  | 4 =>
    match bestRow r with
    | none => BitVec.ofNat 64 (2 ^ 64 - 1)
    | some i =>
      let c := match tabGet none r.argBest i with
        | some (_, c) => c % 2 ^ 32
        | none => 2 ^ 32 - 1
      BitVec.ofNat 64 (i * 2 ^ 32 + c)
  | 5 => r.elems
  | _ => r.nfs

/-! ### Occupancy (R65, R207) -/

/-- Pipeline cycles of an operation (R207). -/
def opCycles (op : Nat) : Nat := if op ∈ [0x08, 0x09, 0x0A, 0x0B, 0x10, 0x11] then 5 else 2

/-- Cycles per group of one instruction taken alone (R207). -/
def trgG (f : TrgF) : Nat :=
  let per := fmtBytes f.fin.toNat 512
  let r := (if f.sa = 0 then per else 0) + (if f.sb = 0 then per else 0)
  let w := if f.d = 0 then fmtBytes f.fout.toNat 512 else 0
  max 1 (max (ceilDiv r 2048) (ceilDiv w 1024))

/-- The nominal occupancy of an instruction (R65). -/
def nominalOcc (b : NI) : Nat :=
  match b with
  | .tmul f => f.k.toNat + 128
  | .trg f => (f.count.toNat + 1) * trgG f + opCycles f.op.toNat + 8
  | .copy f => f.len.toNat
  | _ => 1

end Sys2Proof.Machine
end

