-- ==== Sys2Proof/Machine/Issue.lean ====
section
/-!
DEFINITION. How an instruction of a queue issues (R46, R47, R64, R81): which entry of the window an
issue command means, its header wait, and what every issue records.
-/
namespace Sys2Proof.Machine

/-- The stack under a core's die is at HALT: its scoreboards issue nothing (R242). -/
def dieHalted (s : State) (n : Nat) : Bool := rf s (oHbm (n / 4) + 0x008) 3 2 == 3

/-- The filler conditions of R64 that state holds. -/
def fillerOpen (s : State) (n : Nat) : Bool := rf s (oCore n + 0x030) 0 2 == 1

/-- A core, or its die, has been asked to go idle: it takes no new work (R421). -/
def coreAsked (s : State) (n : Nat) : Bool := asked s 0 n || asked s 3 (n / 4)

/-- A queue may issue: RUN is 1, it is neither halted nor flushing, and X is open (R46, R64, R71). -/
def mayIssue (s : State) (n : Nat) (q : Q) : Bool :=
  rf s (oCore n + 0x004) 0 1 == 1 && !dieHalted s n && !coreAsked s n && decide (((coreOf s n).queue q).mode = .normal) &&
    (decide (q ≠ .X) || fillerOpen s n)

/-- The issue window (R46). -/
def window (qu : Queue) (q : Q) : List Ent := qu.unissued.take (qWin q)

/-- The instruction at place `i` of the window, where it has the opcode of the command and the order of
ordering points lets it issue (R46 conditions 1 to 3, R47). -/
def candidate (s : State) (n : Nat) (q : Q) (i op : Nat) : Option Ent :=
  if mayIssue s n q = false then none
  else
    let win := window ((coreOf s n).queue q) q
    match win[i]? with
    | none => none
    | some e =>
      if opOf e.word = op ∧ (win.take i).all (fun x => !isOrdering x.word) ∧ (isOrdering e.word → i = 0) then some e
      else none

/-- Run an issue command: the header wait first (R81 item 1), then the rest. Where the instruction cannot
issue now, nothing changes. -/
def issueWith (n : Nat) (q : Q) (i op : Nat) (body : Ent → State → State) (s : State) : State :=
  match candidate s n q i op with
  | none => s
  | some e =>
    match waitOf (coreOf s n) e.word with
    | .notYet => s
    | .poisoned k => haltWait n q e.sn cABANDONED k s
    | .ok => body e s

/-- What every issue does: the wait takes its signals, the entry is in flight with its locks and the
descriptors it names, and the counts of R75 advance. `unit` says that it occupies a unit. -/
def takeIssue (n : Nat) (q : Q) (e : Ent) (locks : List Lock) (descs : List Nat) (unit : Bool) (s : State) : State :=
  let s := takeWait n e.word s
  let s := entMod n q e.sn (fun x => { x with st := .issued, locks := locks, descs := descs }) s
  let s := regAdd (oCore n + 0x090 + 4 * qNum q) 1 s
  let s := if q = .X ∧ unit then regAdd (oCore n + 0x0A0) 1 s else s
  lockPeak n s

/-- Every Manger range of an instruction lies inside the 24 MiB (R56). -/
def mangerOk (b : NI) : Bool := (rangesOf b).all (fun r => decide (r.1 + r.2.1 ≤ mangerSize))

end Sys2Proof.Machine
end

