-- ==== Sys2Proof/Machine/Ostler.lean ====
section
/-!
DEFINITION. The Ostler (R42 to R45, R80, R83, R84, R113 to R115, R277, R283, R284, R463): the
control-class instructions of its two contexts.
-/
namespace Sys2Proof.Machine

/-! ### Scalar registers (R113) -/

/-- A scalar register; s0 reads as zero. -/
def sGet (v : CtxSt) (r : BitVec 5) : W64 := if r = 0 then 0 else tabGet 0 v.regs r.toNat

/-- Write a scalar register; a write of s0 is discarded. -/
def sSet (r : BitVec 5) (x : W64) (v : CtxSt) : CtxSt :=
  if r = 0 then v else { v with regs := tabSet 0 v.regs r.toNat x }

/-- An immediate as a value. -/
abbrev immVal (f : CtlF) : W64 := f.imm.signExtend 64

/-- The address that a control-class instruction computes. -/
def ctlAddr (v : CtxSt) (f : CtlF) : Nat := (immVal f + sGet v f.ra).toNat

/-! ### Running an instruction -/

/-- An instruction of a context ends well: its signal is applied, and PC takes the next index. A signal
that would overflow stops the context there, with the effect standing (R84). -/
def ctlDone (n : Nat) (x : Ctx) (w : W128) (next : BitVec 12) (s : State) : State :=
  let h := hdrOf w
  let r := signal n h.sctr.toNat h.samt.toNat s
  let s := if r.2 then ctxStop n x cCOUNTER_OVERFLOW (faultClass (x = .filler) cCOUNTER_OVERFLOW) r.1 else r.1
  ctxMod n x (fun v => { v with pc := next, enq := none, bar := none, dset := false }) s

/-- A context faults at its instruction (R83, R84). -/
def ctlFault (n : Nat) (x : Ctx) (code : W16) (s : State) : State :=
  ctxStop n x code (faultClass (x = .filler) code) s

/-- PC after the instruction of a context; index 4,095 wraps to 0 (R113). -/
def nextPc (s : State) (n : Nat) (x : Ctx) : BitVec 12 := ((coreOf s n).ctx x).pc + 1

/-- An issued instruction or a landing uses a descriptor of the core (R92). -/
def descInUse (s : State) (n d : Nat) : Bool :=
  [Q.F, Q.B, Q.W, Q.X].any (fun q => ((coreOf s n).queue q).inflight.any (fun e => decide (d ∈ e.descs))) ||
    s.fab.landings.any (fun l => decide (l.core = n ∧ l.di = d))

/-- Room of a queue. -/
def qRoom (s : State) (n : Nat) (q : Q) : Nat := qCap q - ((coreOf s n).queue q).unissued.length

/-- The descriptor that the DSET of a word writes. -/
def dsetDesc (w : W128) : Nat :=
  match bodyOf w with
  | .ctl _ f => f.x.toNat % 4096
  | _ => 0

/-- A control-class word passes its static checks (R80, R83). -/
def staticOk (w : W128) : Bool :=
  match decodeNative .ostler w with
  | .ok _ => true
  | .error _ => false

/-- The primary context can proceed (R42): at an instruction that fails a static check, which comes before any
wait (R83), or whose header wait is satisfied or fails; at a begun ENQ for which its queue has room or a begun
DSET whose descriptor is free, which go on also once RUN_P is 0 (R463); or at a BAR whose core is idle. -/
def primaryCan (s : State) (n : Nat) : Bool :=
  let c := coreOf s n
  let v := c.ctxP
  let w := ctxWord c .primary
  v.active &&
    (match v.enq, v.bar with
     | some e, _ => decide (0 < qRoom s n e.q)
     | none, some .waiting => ctxRun s n .primary && coreIdle c
     | none, some _ => false
     | none, none =>
       if v.dset then !descInUse s n (dsetDesc w)
       else ctxRun s n .primary && (!staticOk w || decide (waitOf c w ≠ .notYet)))

/-- A context may execute: the filler only while the primary context cannot proceed (R42). -/
def ctxMayRun (s : State) (n : Nat) (x : Ctx) : Bool := decide (x = .primary) || !primaryCan s n

/-- Run the instruction at a context's PC, where it has opcode `op`: the static checks, then the header
wait, then `body` (R83). A word whose opcode no control instruction has fails under every command of the
class. A core that is asked to go idle begins nothing (R421). -/
def ctlRun (n : Nat) (x : Ctx) (op : Nat) (body : CtlF → W128 → State → State) (s : State) : State :=
  let w := ctxWord (coreOf s n) x
  if ctxStands s n x = false ∨ coreAsked s n = true ∨ ctxMayRun s n x = false ∨ (opLegal .ostler (fld w 120 8) = true ∧ opOf w ≠ op) then s
  else
    match decodeNative .ostler w with
    | .error k => ctlFault n x k s
    | .ok i =>
      match waitOf (coreOf s n) w with
      | .notYet => s
      | .poisoned k => ctxStop n x cABANDONED k s
      | .ok =>
        match i.body with
        | .ctl _ f => body f w s
        | _ => s

/-- An instruction whose only effect is on its context's registers and PC. -/
def ctlPlain (n : Nat) (x : Ctx) (f : CtxSt → CtxSt) (next : BitVec 12) (w : W128) (s : State) : State :=
  ctlDone n x w next (ctxMod n x f (takeWait n w s))

/-! ### Scalar instructions (R113) -/

/-- LI. -/
def ostlerLi (n : Nat) (x : Ctx) (s : State) : State :=
  ctlRun n x 0x81 (fun f w s => ctlPlain n x (sSet f.rd (immVal f)) (nextPc s n x) w s) s

/-- The ALU operations by SUB (R113). -/
def aluOp (sub : Nat) (a y : W64) : W64 :=
  let k := (y.extractLsb' 0 6).toNat
  match sub with
  | 0 => a + y
  | 1 => a - y
  | 2 => a &&& y
  | 3 => a ||| y
  | 4 => a ^^^ y
  | 5 => a <<< k
  | 6 => a >>> k
  | 7 => a.sshiftRight k
  | 8 => a * y
  | 9 => if a.slt y then a else y
  | 10 => if a.slt y then y else a
  | 11 => if a.slt y then 1 else 0
  | _ => if a.ult y then 1 else 0

/-- ALU. -/
def ostlerAlu (n : Nat) (x : Ctx) (s : State) : State :=
  ctlRun n x 0x82 (fun f w s =>
    let v := (coreOf s n).ctx x
    let y := if f.x.getLsbD 0 then immVal f else sGet v f.rb
    ctlPlain n x (sSet f.rd (aluOp f.sub.toNat (sGet v f.ra) y)) (nextPc s n x) w s) s

/-- The BR conditions by SUB (R113). -/
def brCond (sub : Nat) (a b : W64) : Bool :=
  match sub with
  | 0 => true
  | 1 => a == b
  | 2 => a != b
  | 3 => a.slt b
  | 4 => !a.slt b
  | 5 => a.ult b
  | _ => !a.ult b

/-- BR. -/
def ostlerBr (n : Nat) (x : Ctx) (s : State) : State :=
  ctlRun n x 0x83 (fun f w s =>
    let v := (coreOf s n).ctx x
    let next := if brCond f.sub.toNat (sGet v f.ra) (sGet v f.rb) then f.imm.extractLsb' 0 12 else nextPc s n x
    ctlPlain n x (fun v => v) next w s) s

/-- LOOP. -/
def ostlerLoop (n : Nat) (x : Ctx) (s : State) : State :=
  ctlRun n x 0x84 (fun f w s =>
    let v := sSet f.rd (sGet ((coreOf s n).ctx x) f.rd - 1) ((coreOf s n).ctx x)
    let next := if sGet v f.rd ≠ 0 then f.imm.extractLsb' 0 12 else nextPc s n x
    ctlPlain n x (fun v => sSet f.rd (sGet v f.rd - 1) v) next w s) s

/-- SUMRD (R112). -/
def ostlerSumrd (n : Nat) (x : Ctx) (s : State) : State :=
  ctlRun n x 0x85 (fun f w s =>
    match tabGet none (coreOf s n).slots f.x.toNat with
    | none => ctlFault n x cSUMMARY_EMPTY s
    | some v =>
      let next := nextPc s n x
      let s := coreMod n (fun c => { c with slots := tabSet none c.slots f.x.toNat none }) s
      ctlPlain n x (sSet f.rd v) next w s) s

/-! ### Manger and descriptors (R92, R114) -/

/-- The fault of a computed address of 8 bytes (R83). -/
def addr8Fault (a : Nat) : Option W16 :=
  if a % 8 ≠ 0 then some cFIELD_ILLEGAL else if mangerSize < a + 8 then some cMANGER_RANGE else none

/-- SLD. -/
def ostlerSld (n : Nat) (x : Ctx) (s : State) : State :=
  ctlRun n x 0x86 (fun f w s =>
    let a := ctlAddr ((coreOf s n).ctx x) f
    match addr8Fault a with
    | some k => ctlFault n x k s
    | none =>
      let r := readErrors (mangerBase n + a) 8 s
      match r.1 with
      | some k => ctlFault n x k r.2
      | none =>
        let v := BitVec.ofNat 64 (leNat (memRead r.2 (mangerBase n + a) 8))
        ctlPlain n x (sSet f.rd v) (nextPc s n x) w r.2) s

/-- SST. The sidecar is unchanged (R223). -/
def ostlerSst (n : Nat) (x : Ctx) (s : State) : State :=
  ctlRun n x 0x87 (fun f w s =>
    let v := (coreOf s n).ctx x
    let a := ctlAddr v f
    match addr8Fault a with
    | some k => ctlFault n x k s
    | none =>
      let s := memWrite (mangerBase n + a) (leBytes 8 (sGet v f.rb).toNat) s
      ctlPlain n x (fun v => v) (nextPc s n x) w s) s

/-- DGET. -/
def ostlerDget (n : Nat) (x : Ctx) (s : State) : State :=
  ctlRun n x 0x88 (fun f w s =>
    let v := (dWord ((coreOf s n).dsc (f.x.toNat % 4096)) f.sub.toNat).setWidth 64
    ctlPlain n x (sSet f.rd v) (nextPc s n x) w s) s

/-- The effect of a DSET whose header wait has been taken, and its end. -/
def dsetEnd (n : Nat) (x : Ctx) (w : W128) (s : State) : State :=
  match bodyOf w with
  | .ctl _ f =>
    let d := f.x.toNat % 4096
    let v := sGet ((coreOf s n).ctx x) f.rb
    ctlDone n x w (nextPc s n x) (coreMod n (fun c => c.setDsc d (dWordSet (c.dsc d) f.sub.toNat (v.setWidth 32))) s)
  | _ => s

/-- DSET. It takes its header wait, and waits while its descriptor is in use (R92): one that has begun goes
on where it stood. -/
def ostlerDset (n : Nat) (x : Ctx) (s : State) : State :=
  let v := (coreOf s n).ctx x
  let w := ctxWord (coreOf s n) x
  if v.dset then
    (if ctxRun s n x = false ∨ ctxMayRun s n x = false ∨ descInUse s n (dsetDesc w) then s else dsetEnd n x w s)
  else
    ctlRun n x 0x89 (fun _ w s =>
      let s := takeWait n w s
      if descInUse s n (dsetDesc w) then ctxMod n x (fun v => { v with dset := true }) s
      else dsetEnd n x w s) s

/-! ### ENQ (R43 to R45, R65, R80, R115) -/

/-- The queue that SUB names. -/
def enqQueue (f : CtlF) : Q :=
  match f.sub.toNat with
  | 0 => .F | 1 => .B | 2 => .W | _ => .X

/-- Instructions of an ENQ's block. -/
abbrev enqCount (f : CtlF) : Nat := f.x.toNat % 256 + 1

/-- An ENQ is refused: a queue that is not the context's, or W in the unsplit form (R44). -/
def enqRefused (s : State) (n : Nat) (x : Ctx) (q : Q) : Bool :=
  decide (x = .filler ∧ q ≠ .X ∨ x = .primary ∧ q = .X) ||
    (decide (q = .W) && rf s (oCore n + 0x004) 1 1 == 0)

/-- The limit of R65, in cycles. -/
def occLimit (s : State) (n : Nat) : Nat := (rf s (oCore n + 0x030) 8 8 + 1) * 256

/-- The static checks of a block (R80) and, in the filler context, the running sum of the chain being
enqueued (R65): the first fault, or the sum after the block. -/
def blockCheckN (filler : Bool) (limit : Nat) : Nat → List W128 → Except W16 Nat
  | occ, [] => .ok occ
  | occ, w :: ws =>
    match decodeNative .queue w with
    | .error k => .error k
    | .ok i =>
      if filler = false then blockCheckN filler limit occ ws
      else
        let o := nominalOcc i.body
        match i.body with
        | .trg f =>
          if limit < o ∨ limit < occ + o then .error cFILLER_TOO_LONG
          else blockCheckN filler limit (if f.more = 1 then occ + o else 0) ws
        | _ => if limit < o then .error cFILLER_TOO_LONG else blockCheckN filler limit occ ws

/-- Place instructions at the end of a queue. -/
def enqPut (n : Nat) (q : Q) (ws : List W128) (s : State) : State :=
  queueMod n q (fun v => { v with
    live := v.live ++ (ws.zipIdx).map (fun p => ⟨v.next + p.2, p.1, .waiting, [], []⟩), next := v.next + ws.length }) s

/-- The words of a block in the Manger. -/
def blockWords (s : State) (n a k : Nat) : List W128 :=
  (List.range k).map (fun i => BitVec.ofNat 128 (leNat (memRead s (mangerBase n + a + 16 * i) 16)))

/-- Enqueue a checked block: what fits enters the queue, and the rest waits for room. -/
def enqBegin (n : Nat) (x : Ctx) (q : Q) (ws : List W128) (occ : Nat) (w : W128) (s : State) : State :=
  let next := nextPc s n x
  let room := qRoom s n q
  let s := enqPut n q (ws.take room) (takeWait n w s)
  let s := ctxMod n x (fun v => { v with chainOcc := occ }) s
  if ws.length ≤ room then ctlDone n x w next s
  else ctxMod n x (fun v => { v with enq := some ⟨q, ws.drop room, (hdrOf w).sctr.toNat, (hdrOf w).samt.toNat⟩ }) s

/-- ENQ: refusals, alignment, range, then the static checks of its block (R83). An uncorrectable word of the
block comes before any static fault, for the Ostler reads the block before it checks it (the spec does not order
the two: DESIGN CHOICE, assumption 100). -/
def ostlerEnq (n : Nat) (x : Ctx) (s : State) : State :=
  ctlRun n x 0x80 (fun f w s =>
    let v := (coreOf s n).ctx x
    let q := enqQueue f
    let a := ctlAddr v f
    let k := enqCount f
    if enqRefused s n x q then ctlFault n x cSTATE_REFUSED s
    else if a % 16 ≠ 0 then ctlFault n x cFIELD_ILLEGAL s
    else if mangerSize < a + 16 * k then ctlFault n x cMANGER_RANGE s
    else
      let r := readErrors (mangerBase n + a) (16 * k) s
      match r.1 with
      | some c => ctlFault n x c r.2
      | none =>
        let s := r.2
        let ws := blockWords s n a k
        match blockCheckN (x = .filler) (occLimit s n) v.chainOcc ws with
        | .error c => ctlFault n x c s
        | .ok occ => enqBegin n x q ws occ w s) s

/-- ENQ_COMPLETE: an enqueue that waits for room goes on, and ends when its last instruction has entered
the queue. -/
def enqComplete (n : Nat) (x : Ctx) (s : State) : State :=
  let v := (coreOf s n).ctx x
  match v.enq with
  | none => s
  | some e =>
    if ctxMayRun s n x = false then s
    else
    let room := qRoom s n e.q
    let next := nextPc s n x
    let s := enqPut n e.q (e.rest.take room) s
    if e.rest.length ≤ room then ctlDone n x (ctxWord (coreOf s n) x) next s
    else ctxMod n x (fun v => { v with enq := some { e with rest := e.rest.drop room } }) s

/-! ### BAR and STOP (R113, R114, R277, R283) -/

/-- BAR. In the primary context it waits for BAR_REALIGN; in the filler context kind 0 completes once F,
B and W are idle, and the other kinds are refused. -/
def ostlerBar (n : Nat) (x : Ctx) (s : State) : State :=
  ctlRun n x 0x8A (fun f w s =>
    match x with
    | .filler =>
      if f.sub ≠ 0 then ctlFault n x cSTATE_REFUSED s
      else if coreIdle (coreOf s n) = false then s
      else ctlPlain n x (fun v => v) (nextPc s n x) w s
    | .primary => ctxMod n x (fun v => { v with bar := some .waiting }) (takeWait n w s)) s

/-- STOP: the context stops, with PC at the next index. -/
def ostlerStop (n : Nat) (x : Ctx) (s : State) : State :=
  ctlRun n x 0x8B (fun _ w s =>
    let next := nextPc s n x
    let s := ctlPlain n x (fun v => v) next w s
    rfSet (oCore n + 0x060) (runBit x) 1 0 (ctxMod n x (fun v => { v with active := false }) s)) s

/-- Counters of a core that are marked for realignment and not poisoned (R277). -/
def markedCtrs (s : State) (n : Nat) : List Nat :=
  (List.range 256).filter (fun i =>
    rf s (oCore n + 0x1_0410 + 4 * (i / 32)) (i % 32) 1 == 1 && ((coreOf s n).ctr i).poison.isNone)

/-- A marked counter with positive drift is set to its rest value (R277). -/
def driftOne (n : Nat) (s : State) (i : Nat) : State :=
  let v := (coreOf s n).ctr i
  if v.r.toNat < v.c.toNat then
    let s := coreMod n (fun c => c.setCtr i { v with c := v.r }) s
    let s := regAdd (oCore n + 0x1_044C) (v.c.toNat - v.r.toNat) s
    record cSYNC_DRIFT .core n .report (.num i) (syncEvent n 2 cSYNC_DRIFT i 0 s)
  else s

/-- A counter that realignment found below its rest value (R277). -/
def underOne (n : Nat) (s : State) (i : Nat) : State :=
  poisonCtr n i .stop (syncEvent n 1 cCOUNTER_UNDERFLOW i 0 s)

/-- The contexts of every core have joined an epoch. -/
def allJoined (s : State) (b : BarSt) : Bool := (List.range 32).all (fun n => decide ((coreOf s n).ctxP.bar = some b))

/-- The effective storage interval in minutes (R397). -/
def effInterval (s : State) : Nat :=
  if rf s 0x4018 0 3 ∈ [2, 3, 4] then min (rf s 0x4014 0 8) 15 else rf s 0x4014 0 8

/-- The device joins the paddock step-end epoch once every core has (R283, R390, R397): the coordinator
is told. -/
def joinSend (s : State) : State :=
  if allJoined s .step then sendRank 0 (.join (ownRank s) (rf s 0x4000 16 1 == 1) (effInterval s)) s else s

/-- BAR_REALIGN: the marked counters are realigned, and the BAR completes or joins its epoch, or faults
(R277). A BAR that has not joined when RUN_P goes to 0 has no effect (R463). -/
def barRealign (n : Nat) (s : State) : State :=
  let c := coreOf s n
  if c.ctxP.bar ≠ some .waiting ∨ ctxRun s n .primary = false ∨ coreIdle c = false then s
  else
    let w := ctxWord c .primary
    let marked := markedCtrs s n
    let low := marked.filter (fun i => decide ((c.ctr i).c.toNat < (c.ctr i).r.toNat))
    if low ≠ [] then
      let s := giveBack n w (low.foldl (underOne n) s)
      ctlFault n .primary cCOUNTER_UNDERFLOW s
    else
      let s := marked.foldl (driftOne n) s
      match (match bodyOf w with
        | .ctl _ f => f.sub.toNat
        | _ => 0) with
      | 0 => ctlDone n .primary w (nextPc s n .primary) s
      | 1 => ctxMod n .primary (fun v => { v with bar := some .device }) s
      | _ => joinSend (ctxMod n .primary (fun v => { v with bar := some .step }) s)

/-- A context whose epoch has closed proceeds past its BAR (R283). -/
def barRelease (s : State) (n : Nat) : State :=
  ctlDone n .primary (ctxWord (coreOf s n) .primary) (nextPc s n .primary) s

/-- An epoch closes: no context stands at its BAR any more, and then each that had joined proceeds, so that
a signal that one of them overflows breaks nothing (R283). -/
def epochRelease (b : BarSt) (s : State) : State :=
  let l := (List.range 32).filter (fun n => decide ((coreOf s n).ctxP.bar = some b))
  l.foldl barRelease (l.foldl (fun s n => ctxMod n .primary (fun v => { v with bar := none }) s) s)

/-- The device epoch closes: its number advances and every context proceeds (R283). -/
def deviceEpochCloseCore (s : State) : State :=
  epochRelease .device ((List.range 32).foldl (fun s n => regAdd (oCore n + 0x1_0460) 1 s) s)

/-! ### RUN bits of the contexts (R463) -/

/-- A write of a context's RUN bit. The PC at which a stopped context is set running is the entry point of
its program (R67; DEDUCED, assumption 84). -/
def ostlerRun (n : Nat) (x : Ctx) (v : Bool) (s : State) : State :=
  let s := rfSet (oCore n + 0x060) (runBit x) 1 (b2n v) s
  if v then ctxMod n x (fun c => { c with active := true, entry := if c.active then c.entry else c.pc }) s else s

/-- OSTLER_CONTEXT_STOPPED: a context whose RUN bit is 0 reaches its boundary (R284, R463). A DSET that has
begun ends first. -/
def ostlerContextStopped (n : Nat) (x : Ctx) (s : State) : State :=
  let v := (coreOf s n).ctx x
  let w := ctxWord (coreOf s n) x
  if v.active = false ∨ ctxRun s n x ∨ v.enq.isSome ∨ (v.dset ∧ descInUse s n (dsetDesc w)) then s
  else
    let s := if v.dset then dsetEnd n x w s else s
    let s := match v.bar with
      | some .waiting | some .device =>
        ctxMod n x (fun c => { c with bar := none }) (giveBack n w s)
      | _ => s
    let s := ctxMod n x (fun c => { c with active := false }) s
    if x = .primary then breakDevice .report s else s

end Sys2Proof.Machine
end

