-- ==== Sys2Proof/Machine/SyncOps.lean ====
section
/-!
DEFINITION. The sync-class instructions (R93, R271 to R282).
-/
namespace Sys2Proof.Machine

/-- A sync-class instruction issues and completes in one cycle (R93). -/
def syncDone (n : Nat) (q : Q) (e : Ent) (s : State) : State := complete n q e.sn (takeIssue n q e [] [] false s)

/-- SYNC: the header's wait and signal, nothing else. -/
def issueSync (n : Nat) (q : Q) (i : Nat) (s : State) : State := issueWith n q i 0x01 (syncDone n q) s

/-- CWAIT's condition, once its header wait allows: it issues, waits, or halts its queue (R93, R281). -/
def cwaitBody (n : Nat) (q : Q) (e : Ent) (s : State) : State :=
  match bodyOf e.word with
  | .cwait h t =>
    (match cwaitOf s n h t with
     | .ok => syncDone n q e s
     | .notYet => s
     | .bad code k => haltWait n q e.sn code k s)
  | _ => s

/-- CWAIT. A poisoned count faults at once, whether or not the header wait is satisfied (R281). -/
def issueCwait (n : Nat) (q : Q) (i : Nat) (s : State) : State :=
  match candidate s n q i 0x02 with
  | none => s
  | some e =>
    match waitOf (coreOf s n) e.word, bodyOf e.word with
    | .poisoned k, _ => haltWait n q e.sn cABANDONED k s
    | .notYet, .cwait h t =>
      (match cwaitOf s n h t with
       | .bad code k => haltWait n q e.sn code k s
       | _ => s)
    | .notYet, _ => s
    | .ok, _ => cwaitBody n q e s

/-- A CWAIT of the core is held on completion count `i` (R276, R282). -/
def countHeld (s : State) (n i : Nat) : Bool :=
  [Q.F, Q.B, Q.W, Q.X].any (fun q =>
    match heldEnt ((coreOf s n).queue q) with
    | none => false
    | some e =>
      match bodyOf e.word with
      | .cwait h t =>
        decide (opOf e.word = 2 ∧ handleHolder h = 0 ∧ handleIndex h = i ∧ cwaitOf s n h t = .notYet)
      | _ => false)

/-- An instruction is held on sync counter `i` (R276). -/
def entHeld (c : Core) (i : Nat) (q : Q) : Bool :=
  match heldEnt (c.queue q) with
  | none => false
  | some e => decide ((hdrOf e.word).wctr.toNat = i ∧ waitOf c e.word = .notYet)

/-- A context is held on sync counter `i` (R276). -/
def ctxHeld (s : State) (n i : Nat) (x : Ctx) : Bool :=
  let c := coreOf s n
  ctxStands s n x && decide ((hdrOf (ctxWord c x)).wctr.toNat = i ∧ waitOf c (ctxWord c x) = .notYet)

/-- An instruction or context of the core is held on sync counter `i` (R276). -/
def counterHeld (s : State) (n i : Nat) : Bool :=
  [Q.F, Q.B, Q.W, Q.X].any (entHeld (coreOf s n) i) || [Ctx.primary, Ctx.filler].any (ctxHeld s n i)

/-- CRESET (R282): the count is 0 and unpoisoned, unless a CWAIT is held on it. -/
def cresetBody (n : Nat) (q : Q) (e : Ent) (s : State) : State :=
  match bodyOf e.word with
  | .creset h =>
    if countHeld s n (handleIndex h) then halt n q e.sn cSTATE_REFUSED s
    else
      let s := takeIssue n q e [] [] false s
      complete n q e.sn (coreMod n (fun c => c.setCc (handleIndex h) ⟨0, none, false⟩) s)
  | _ => s

/-- CRESET. -/
def issueCreset (n : Nat) (q : Q) (i : Nat) (s : State) : State := issueWith n q i 0x03 (cresetBody n q) s

/-- CARM (R276): c and r take VALUE and the poison clears, unless a waiter is held on the counter. Its
own header wait takes its signals after that, and its header signal comes last (R275). -/
def carmBody (n : Nat) (q : Q) (e : Ent) (s : State) : State :=
  match bodyOf e.word with
  | .carm ctr v =>
    if counterHeld s n ctr.toNat then halt n q e.sn cSTATE_REFUSED s
    else
      syncDone n q e (coreMod n (fun c => c.setCtr ctr.toNat ⟨v, v, none⟩) s)
  | _ => s

/-- CARM. -/
def issueCarm (n : Nat) (q : Q) (i : Nat) (s : State) : State := issueWith n q i 0x04 (carmBody n q) s

/-- SYNC_ARM (R295): the host's GO arms one counter as CARM does, or every counter and every completion
count; it is refused while a RUN bit of the core is 1. -/
def syncArm (n : Nat) (counter : Fin 256) (value : BitVec 12) (all : Bool) (s : State) : State :=
  let w := counter.val + value.toNat * 2 ^ 8 + b2n all * 2 ^ 20
  if coreRunAny s n then refuse (.write .bar0 (oCore n + 0x1_0400) (w + 2 ^ 31)) .core n s
  else
    let s := regSet (oCore n + 0x1_0400) (BitVec.ofNat 32 w) s
    if all then
      coreMod n (fun c => { c with
        sync := (List.range 256).foldl (fun t i => tabSet ctrReset t i ⟨value, value, none⟩) c.sync,
        ccnt := (List.range 512).foldl (fun t i => tabSet ccntReset t i ⟨0, none, false⟩) c.ccnt }) s
    else coreMod n (fun c => c.setCtr counter.val ⟨value, value, none⟩) s

end Sys2Proof.Machine
end

