-- ==== Sys2Proof/Machine/Arbiter.lean ====
section
/-!
DEFINITION. The units of a core and who issues to them (R46 condition 6 and 8, R50, R58 to R64, R105, R112,
R206): when a stall, a Barrow, the Trough and the reduction unit accept an instruction, the order in which
queues are granted a unit, and the filler conditions.
-/
namespace Sys2Proof.Machine

/-! ### Stalls -/

/-- The fields of a CONT or CLOSE that must equal those of the OPEN (R105). -/
def sameChain (f g : TmulF) : Bool :=
  decide (f.mode = g.mode ∧ f.fmta = g.fmta ∧ f.fmtb = g.fmtb ∧ f.fmtc = g.fmtc ∧ f.sout = g.sout ∧ f.c = g.c)

/-- Ordered-class MAC (R102). -/
abbrev ordered (f : TmulF) : Bool := decide (f.fmta.toNat = 4)

/-- The chain faults of a TMUL at its point in the queue's order: ACC_CHAIN, then CHAIN_DEPTH (R105,
R131). -/
def tmulChainFault (v : Tab (Option (TmulF × Nat))) (f : TmulF) : Option W16 :=
  match chainStall v f with
  | none => some cACC_CHAIN
  | some i =>
    match tabGet none v i with
    | some (g, depth) =>
      if f.chain.toNat ≤ 1 then some cACC_CHAIN
      else if sameChain f g = false then some cACC_CHAIN
      else if ordered f = false ∧ 262144 < depth + f.k.toNat then some cCHAIN_DEPTH
      else none
    | none => if f.chain.toNat ≤ 1 then none else some cACC_CHAIN

/-- A stall accepts an opening TMUL (R59, R127, R192): its active accumulator is free, and no tile is
held after a tag mismatch. -/
def stallFree (st : Stall) : Bool := st.act.isNone && st.stuck.isNone

/-- A stall accepts the next TMUL of the chain that the queue holds on it (R60). -/
def stallNext (st : Stall) (q : Q) : Bool :=
  st.chainOpen && !st.busy && (match st.act with
    | some t => decide (t.q = q)
    | none => false)

/-- An older unissued TMUL of the queue goes to stall `i` (R60). -/
def olderOn (qu : Queue) (sn i : Nat) : Bool :=
  ((qu.older sn).filter (fun e => e.st = .waiting)).any (fun e =>
    match bodyOf e.word with
    | .tmul f => decide (opOf e.word = 0x20 ∧ chainStall (chainView qu e.sn) f = some i)
    | _ => false)

/-- The stall that a TMUL without chain fault issues to, if it can now (R58, R59, R60, R105). -/
def tmulStall (c : Core) (q : Q) (sn : Nat) (f : TmulF) : Option Nat :=
  let qu := c.queue q
  let v := chainView qu sn
  if f.chain.toNat ≤ 1 then
    if f.any = 1 ∧ f.chain = 0 then
      (List.range 8).find? (fun i => (tabGet none v i).isNone && stallFree (c.stall i))
    else (chainStall v f).filter (fun i => stallFree (c.stall i))
  else (chainStall v f).filter (fun i => stallNext (c.stall i) q && !olderOn qu sn i)

/-! ### Barrows -/

/-- The Barrow that a copy issues to (R58, R62). -/
def barrowFor (c : Core) (f : CopyF) : Option Nat :=
  (if f.any = 1 then [0, 1, 2, 3] else [f.barrow.toNat]).find? (fun b => decide ((tabGet [] c.barrows b).length < 8))

/-! ### The Trough and the reduction unit -/

/-- The queue's chain whose last member has not issued. -/
def openChain (c : Core) : Option Chain := c.chains.find? (fun ch => !ch.closed)

/-- The Trough accepts a TRG of a queue: no other queue's chain is between its first and last members
(R61). -/
def troughFree (c : Core) (q : Q) : Bool :=
  match openChain c with
  | some ch => decide (ch.q = q)
  | none => true

/-- Members of the queue's open chain. -/
def priorOf (c : Core) (q : Q) : List TrgF :=
  match openChain c with
  | some ch => if ch.q = q then ch.members.map (fun m => m.f) else []
  | none => []

/-- An older TRG of the queue is unissued: members issue in order (R61, R204). -/
def olderTrg (qu : Queue) (sn : Nat) : Bool :=
  (qu.older sn).any (fun e => decide (e.st = .waiting ∧ opOf e.word = 0x30))

/-- TRG instructions of X's window from an instruction on, by their MORE bits. -/
def xMores (c : Core) (sn : Nat) : List Bool :=
  ((window c.qX .X).filter (fun e => decide (sn ≤ e.sn ∧ opOf e.word = 0x30))).map (fun e => fld e.word 80 1 = 1)

/-- The first member of a chain in X (R206): it may issue, must wait, or fails because the chain would
exceed 4 members. -/
inductive XFirst where
  | go | hold | tooLong
deriving DecidableEq, Repr

/-- Judge the first member of an X chain (R206). -/
def xFirst (c : Core) (q : Q) (sn : Nat) : XFirst :=
  if q ≠ .X ∨ priorOf c q ≠ [] then .go
  else
    let l := xMores c sn
    if l.any (fun m => !m) then .go else if 4 ≤ l.length then .tooLong else .hold

/-- A summary slot is empty, and no issued RFLUSH will post to it (R112, R217). -/
def slotFree (c : Core) (i : Nat) : Bool :=
  (tabGet none c.slots i).isNone && c.rfl.all (fun x => decide (¬ (x.f.post = 1 ∧ x.f.slot.toNat = i)))

/-! ### Who is ready for a unit (R50, R64) -/

/-- A unit of a core. -/
inductive UnitId where
  | stall (i : Nat)
  | barrow (i : Nat)
  | trough
  | reduction
deriving DecidableEq, Repr

/-- The number that a unit has in the table of last grants. -/
def UnitId.key : UnitId → Nat
  | .stall i => i
  | .barrow i => 8 + i
  | .trough => 12
  | .reduction => 13

/-- Two units are of one kind. -/
def UnitId.sameKind : UnitId → UnitId → Bool
  | .stall _, .stall _ => true
  | .barrow _, .barrow _ => true
  | .trough, .trough => true
  | .reduction, .reduction => true
  | _, _ => false

/-- The instruction at a place of a queue's window may issue but for its unit: its place in the order of
ordering points, its wait and its locks (R46 conditions 1 to 5). -/
def readyEnt (s : State) (n : Nat) (q : Q) (i : Nat) : Option Ent :=
  let c := coreOf s n
  match (window (c.queue q) q)[i]? with
  | none => none
  | some e =>
    if candidate s n q i (opOf e.word) = some e ∧ waitOf c e.word = .ok ∧ locksFree c q e.sn (bodyOf e.word) then some e
    else none

/-- The unit that an instruction would issue to now, where one accepts it (R46 condition 6, R58). -/
def unitFor (c : Core) (q : Q) (e : Ent) : Option UnitId :=
  match bodyOf e.word with
  | .tmul f =>
    if (tmulChainFault (chainView (c.queue q) e.sn) f).isSome then none else (tmulStall c q e.sn f).map .stall
  | .copy f => (barrowFor c f).map .barrow
  | .trg _ =>
    if troughFree c q = false ∨ olderTrg (c.queue q) e.sn ∨ xFirst c q e.sn ≠ .go then none else some .trough
  | .rflush f => if f.post = 1 ∧ slotFree c f.slot.toNat = false then none else some .reduction
  | _ => none

/-- The units that an instruction waits for, whether or not they accept it: the one it names, or every
unit of its kind where it leaves the choice to the scoreboard (R64). -/
def unitsOf (c : Core) (q : Q) (e : Ent) : List UnitId :=
  match bodyOf e.word with
  | .tmul f =>
    if f.any = 1 then (List.range 8).map .stall
    else ((chainStall (chainView (c.queue q) e.sn) f).map UnitId.stall).toList
  | .copy f => if f.any = 1 then (List.range 4).map .barrow else [.barrow f.barrow.toNat]
  | .trg _ => [.trough]
  | .rflush _ => [.reduction]
  | _ => []

/-- A queue has an instruction ready that unit `u` would accept (R50). -/
def readyOn (s : State) (n : Nat) (u : UnitId) (q : Q) : Bool :=
  (List.range (qWin q)).any (fun i => ((readyEnt s n q i).bind (unitFor (coreOf s n) q)) == some u)

/-- A queue has an instruction ready for unit `u`, whether or not it accepts it (R64). -/
def wantsUnit (s : State) (n : Nat) (u : UnitId) (q : Q) : Bool :=
  (List.range (qWin q)).any (fun i =>
    match readyEnt s n q i with
    | some e => decide (u ∈ unitsOf (coreOf s n) q e)
    | none => false)

/-! ### Grants (R50) -/

/-- The queue of a number. -/
def qAt : Nat → Q
  | 0 => .F | 1 => .B | 2 => .W | _ => .X

/-- W_DEFER of CORE_SCHED (R75). -/
def wDefer (s : State) (n : Nat) : Bool := rf s (oCore n + 0x008) 0 1 == 1

/-- The order of grants for a unit (R50): the rotating streams, starting with the one after the stream
that last issued to it; W where it is deferred; X. Before any stream has issued, F is first (DESIGN
CHOICE, assumption 80). -/
def grantOrder (s : State) (n : Nat) (u : UnitId) : List Q :=
  let last := tabGet 2 (coreOf s n).lastQ u.key
  let turn := [qAt ((last + 1) % 3), qAt ((last + 2) % 3), qAt (last % 3)]
  if wDefer s n then turn.filter (fun q => decide (q ≠ .W)) ++ [.W, .X] else turn ++ [.X]

/-- Work of a primary queue occupies a unit (R59, R61, R62, R64): a tile that takes k-steps, a Trough chain,
a copy that is still to be read. -/
def primaryOn (c : Core) : UnitId → Bool
  | .stall i => (c.stall i).busy && (c.stall i).act.any (fun (t : Tile) => decide (t.q ≠ .X))
  | .barrow i => (tabGet [] c.barrows i).any (fun x => decide (x.q ≠ .X) && !x.readDone)
  | .trough => c.chains.any (fun ch => decide (ch.q ≠ .X))
  | .reduction => false

/-- The filler conditions of a unit (R64): no primary queue has an instruction ready for it, and no
primary work occupies it. That both have lasted IDLE_MIN cycles is the sender's to answer for (assumption
63). -/
def fillerClear (s : State) (n : Nat) (u : UnitId) : Bool :=
  [Q.F, Q.B, Q.W].all (fun q => !wantsUnit s n u q) && !primaryOn (coreOf s n) u

/-- The scoreboard grants unit `u` to queue `q` (R50, R64): no queue before it in the order has an
instruction ready for the unit, and an X instruction meets the filler conditions. -/
def granted (s : State) (n : Nat) (q : Q) (u : UnitId) : Bool :=
  ((grantOrder s n u).takeWhile (fun p => decide (p ≠ q))).all (fun p => !readyOn s n u p) &&
    (decide (q ≠ .X) || fillerClear s n u)

/-- A unit is granted: the rotation goes on from a rotating stream (R50). -/
def grantTake (n : Nat) (q : Q) (u : UnitId) (s : State) : State :=
  if q = .X then s else coreMod n (fun c => { c with lastQ := tabSet 2 c.lastQ u.key (qNum q) }) s

end Sys2Proof.Machine
end

