-- ==== Sys2Proof/Machine/TileOps.lean ====
section
/-!
DEFINITION. Tile multiplies on a stall (R59, R60, R101 to R106, R121 to R143, R188, R191, R192, R465).
-/
namespace Sys2Proof.Machine

/-- C occupies these bytes (R103). -/
abbrev cBytes (f : TmulF) : Nat := fmtBytes f.fmtc.toNat 16384

/-- MANGER_RANGE and REGION_ALIAS of a TMUL (R56, R104). -/
def tmulRangeFault (f : TmulF) : Option W16 :=
  let k := 128 * f.k.toNat
  let inside (o n : Nat) : Bool := decide (o + n ≤ mangerSize)
  if !(inside (opnd f.a) k && inside (opnd f.b) k && inside (opnd f.c) (cBytes f)) then some cMANGER_RANGE
  else if overlap (opnd f.c) (cBytes f) (opnd f.a) k || overlap (opnd f.c) (cBytes f) (opnd f.b) k then
    some cREGION_ALIAS
  else none

/-- The tags of the granules of a range (R465). -/
def tagsOf (s : State) (n off len : Nat) : List W16 := (granules off len).map (fun g => (sideGet s n g).tag)

/-- The tile after a TMUL that reads `a` and `b` (R125, R126, R465). -/
def tileAfter (s : State) (n : Nat) (q : Q) (sn : Nat) (f : TmulF) (old : Option Tile) (a b : List Byte) : Tile :=
  let k := 128 * f.k.toNat
  let ta := if f.sout = 1 then tagsOf s n (opnd f.a) k else []
  let tb := if f.sout = 1 then tagsOf s n (opnd f.b) k else []
  let closing : Bool := decide (f.chain = 0 ∨ f.chain = 3)
  let acc0 := match old with
    | some t => t.acc
    | none => tileStart f
  let ks := match old with
    | some t => t.ksteps
    | none => 0
  let t0 := match old with
    | some t => (t.tagsA, t.tagsB)
    | none => ([], [])
  ⟨q, sn, f, ks + f.k.toNat, tileMul f s.job.heritage closing ks acc0 a b, t0.1 ++ ta, t0.2 ++ tb⟩

/-- The locks of an issuing TMUL: its entry's, and the C lock that an open chain keeps (R54). -/
def tmulLocks (st : Stall) (f : TmulF) : List Lock × Option Lock :=
  let k := 128 * f.k.toNat
  let reads := [lockOf (opnd f.a) k false, lockOf (opnd f.b) k false]
  let cl := lockOf (opnd f.c) (cBytes f) true
  match f.chain.toNat with
  | 0 => (reads ++ [cl], none)
  | 1 => (reads, some cl)
  | 2 => (reads, st.cLock)
  | _ => (reads ++ st.cLock.toList, none)

/-- The TMUL issues to stall `i`: its reads, its terms, and its place in the chain. A read that meets an
uncorrectable word faults with the stall as it stood (R221). -/
def tmulStart (n : Nat) (q : Q) (e : Ent) (f : TmulF) (i : Nat) (s : State) : State :=
  let st := (coreOf s n).stall i
  let k := 128 * f.k.toNat
  let l := tmulLocks st f
  let ra := readErrors (mangerBase n + opnd f.a) k s
  let rb := match ra.1 with
    | some c => (some c, ra.2)
    | none => readErrors (mangerBase n + opnd f.b) k ra.2
  match rb.1 with
  | some c => halt n q e.sn c (takeIssue n q e l.1 [] true rb.2)
  | none =>
    let s := rb.2
    let a := memRead s (mangerBase n + opnd f.a) k
    let b := memRead s (mangerBase n + opnd f.b) k
    let old := if f.chain.toNat ≤ 1 then none else st.act
    let t := tileAfter s n q e.sn f old a b
    let isOpen : Bool := decide (f.chain = 1 ∨ f.chain = 2)
    let s := stallMod n i (fun st =>
      { st with act := some t, busy := true, chainOpen := isOpen, cLock := l.2, mode := f.mode }) s
    let s := regAdd64 (oStall n i + 0x200) f.k.toNat s
    takeIssue n q e l.1 [] true s

/-- TMUL, once its header wait allows (R81, R106). An operand that overlaps its own chain's C is refused
before its locks are asked for, since the chain holds the lock of C (R54, R104). -/
def tmulBody (n : Nat) (q : Q) (e : Ent) (s : State) : State :=
  match bodyOf e.word with
  | .tmul f =>
    let c := coreOf s n
    (match tmulChainFault (chainView (c.queue q) e.sn) f with
     | some k => halt n q e.sn k s
     | none =>
       match tmulStall c q e.sn f with
       | none => s
       | some i =>
         match tmulRangeFault f with
         | some k => halt n q e.sn k s
         | none =>
           if locksFree c q e.sn (.tmul f) = false ∨ granted s n q (.stall i) = false then s
           else tmulStart n q e f i (grantTake n q (.stall i) s))
  | _ => s

/-- TMUL. -/
def issueTmul (n : Nat) (q : Q) (i : Nat) (s : State) : State := issueWith n q i 0x20 (tmulBody n q) s

/-- TMUL_EDGE_DONE (R54, R59, R128): the last k-step has entered the edge. An OPEN or CONT completes; a
SINGLE or CLOSE releases its read locks, and its tile leaves the active accumulator. -/
def tmulEdgeDone (n i : Nat) (s : State) : State :=
  let st := (coreOf s n).stall i
  match st.act with
  | none => s
  | some t =>
    if st.busy = false then s
    else if t.f.chain = 1 ∨ t.f.chain = 2 then
      let s := stallMod n i (fun st => { st with busy := false, act := if st.chainOpen then st.act else none }) s
      complete n t.q t.sn s
    else
      let s := stallMod n i (fun st => { st with busy := false, act := none, drains := st.drains ++ [t] }) s
      entMod n t.q t.sn (fun e => { e with locks := e.locks.filter (fun k => k.wr) }) s

/-- The tags that a drain with SOUT at 1 checks (R191, R465). -/
def tagsMatch (st : Stall) (t : Tile) : Bool :=
  decide (t.f.sout = 0) || (t.tagsA.all (fun x => x == st.rowTag) && t.tagsB.all (fun x => x == st.colTag))

/-- Write C, its sidecar entries and the events of a drain (R139, R188, R193, R223). -/
def drainWrite (n i : Nat) (t : Tile) (st : Stall) (s : State) : State :=
  let out := drainTile st t
  let off := opnd t.f.c
  let sat := out.any (fun c => c.sat)
  let nf := out.any (fun c => c.nf)
  let tag : W16 := if t.f.sout = 1 then st.rowTag else 0
  let s := memWrite (mangerBase n + off) (unelems t.f.fmtc.toNat (out.map (fun c => c.code))) s
  let s := sideStamp n off (cBytes t.f) (fun _ => tag) (fun _ => (sat, nf)) s
  let s := if nf then raise (oStall n i + 0x010) 0 s else s
  let s := if sat then raise (oStall n i + 0x010) 1 s else s
  regAdd (oStall n i + 0x20C) 1 s

/-- TMUL_DRAIN (R128, R139, R191, R192): the oldest tile of the stall's draining accumulators. A tile that
stood in the active accumulator when an older one was held after SCALE_SKEW drains beside it (DEDUCED,
assumption 44). -/
def tmulDrain (n i : Nat) (s : State) : State :=
  let st := (coreOf s n).stall i
  match st.drains with
  | [] => s
  | t :: rest =>
    let s1 := stallMod n i (fun st => { st with drains := rest }) s
    if tagsMatch st t = false then
      let s2 := stallMod n i (fun st => { st with stuck := some t }) s1
      halt n t.q t.sn cSCALE_SKEW (raise (oStall n i + 0x010) 2 s2)
    else complete n t.q t.sn (drainWrite n i t st s1)

end Sys2Proof.Machine
end

