-- ==== Sys2Proof/Machine/TroughOps.lean ====
section
/-!
DEFINITION. Trough chains and the reduction unit (R61, R107 to R112, R181 to R184, R190 to R193, R196,
R201 to R217).
-/
namespace Sys2Proof.Machine

/-! ### Chain rules (R203) -/

/-- The accumulators of R209 that a member taps and that the rule of one tap covers, coded 1 row max, 2 row sum, 3 row argmax, 4 row amax, 5
column sum, 7 column max (R210, R211). The element count and the non-finite count, which every tap feeds
(R209), are left out: with them no chain could tap twice (DEDUCED, assumption 81). -/
def tapsOf (f : TrgF) : List Nat :=
  if f.sa.toNat = 5 then []
  else match f.red.toNat with
    | 0 => []
    | 3 => [1, 3]
    | 6 => [2, 5]
    | r => [r]

/-- A member breaks a form rule (R203). -/
def formBad (f : TrgF) : Bool :=
  decide (f.sa.toNat = 5 ∧ (f.red.toNat = 0 ∨ f.red.toNat = 6)) ||
  decide (f.op.toNat = 0x10 ∧ ¬ (f.sb.toNat = 5 ∧ f.d = 0 ∧ f.fout.toNat ≤ 3))

/-- Most members of a chain (R203, R206). -/
def maxMembers (q : Q) : Nat := if q = .X then 4 else 16

/-- A member that joins `prior` breaks a chain rule (R203). -/
def mismatchBad (q : Q) (prior : List TrgF) (f : TrgF) : Bool :=
  (match prior.head? with
   | some g => decide (g.count ≠ f.count)
   | none => false) ||
  decide (maxMembers q ≤ prior.length) || (tapsOf f).any (fun a => prior.any (fun g => decide (a ∈ tapsOf g)))

/-- A latch that an operand field names was written by an earlier member (R203). -/
def latchSet (prior : List TrgF) (k : Nat) : Bool :=
  decide (¬ (1 ≤ k ∧ k ≤ 4)) || prior.any (fun g => decide (g.d.toNat = k))

/-- The chain fault of a member (R81, R203). -/
def trgChainFault (q : Q) (prior : List TrgF) (f : TrgF) : Option W16 :=
  if formBad f then some cTROUGH_FORM
  else if mismatchBad q prior f then some cCHAIN_MISMATCH
  else if latchSet prior f.sa.toNat = false ∨ latchSet prior f.sb.toNat = false then some cLATCH_UNSET
  else none

/-! ### Issue -/

/-- The descriptor faults of a CVTD (R109, R183). -/
def cvtdFault (c : Core) (f : TrgF) : Option W16 :=
  if f.op.toNat ≠ 0x11 then none
  else
    let d := c.dsc f.barg.toNat
    let pair : Bool :=
      decide ((f.fin.toNat = 4 ∨ f.fin.toNat = 7) ∧ f.fout.toNat ≤ 3 ∧ f.fout.toNat = dFMT d) ||
      decide (f.fin.toNat ≤ 3 ∧ f.fin.toNat = dFMT d ∧ f.fout.toNat = 4)
    descCheck d (decide (dHLEN d = 0) || !pair) 0 0

/-- The Manger sources of a member: offset and length (R109). -/
def trgSources (f : TrgF) : List (Nat × Nat) :=
  (if f.sa = 0 then [(opnd f.a, trgBytes f f.fin.toNat)] else []) ++
    (if f.sb = 0 then [(opnd f.barg, trgBytes f f.fin.toNat)] else [])

/-- The length of a member's Manger destination (R109, R215). -/
def trgDstLen (f : TrgF) : Nat := trgBytes f f.fout.toNat + (if f.op.toNat = 0x10 then 256 else 0)

/-- A destination partly overlaps a source (R56, R109). -/
def trgAlias (f : TrgF) : Bool :=
  decide (f.d = 0) && (trgSources f).any (fun r =>
    overlap (opnd f.dst) (trgDstLen f) r.1 r.2 && decide (¬ (r.1 = opnd f.dst ∧ r.2 = trgDstLen f)))

/-- The issue faults of a TRG after its chain rules, in the order of R81. -/
def trgCheck (c : Core) (f : TrgF) : Option W16 :=
  match cvtdFault c f with
  | some k => some k
  | none =>
    if mangerOk (.trg f) = false then some cMANGER_RANGE
    else if trgAlias f then some cREGION_ALIAS
    else none

/-- A member fails a chain rule: CHAIN_FAULT, and its queue halts (R203, R218). -/
def chainHalt (n : Nat) (q : Q) (sn : Nat) (code : W16) (s : State) : State :=
  halt n q sn code (raise (oCore n + 0x8010) 2 s)

/-- A member joins its chain. -/
def memberJoin (c : Core) (q : Q) (m : Member) : Core :=
  let closed : Bool := decide (m.f.more = 0)
  match openChain c with
  | some _ =>
    { c with chains := c.chains.map (fun ch =>
        if ch.closed then ch else { ch with members := ch.members ++ [m], closed := closed }) }
  | none => { c with chains := c.chains ++ [⟨q, [m], closed, none⟩] }

/-- TRG, once its header wait allows (R81, R110, R203). -/
def trgBody (n : Nat) (q : Q) (e : Ent) (s : State) : State :=
  match bodyOf e.word with
  | .trg f =>
    let c := coreOf s n
    if troughFree c q = false ∨ olderTrg (c.queue q) e.sn then s
    else
      (match xFirst c q e.sn with
       | .hold => s
       | .tooLong => chainHalt n q e.sn (if formBad f then cTROUGH_FORM else cCHAIN_MISMATCH) s
       | .go =>
         match trgChainFault q (priorOf c q) f with
         | some k => chainHalt n q e.sn k s
         | none =>
           if locksFree c q e.sn (.trg f) = false ∨ granted s n q .trough = false then s
           else
             match trgCheck c f with
             | some k => halt n q e.sn k s
             | none =>
               let d := f.barg.toNat
               let s := coreMod n (fun c => memberJoin c q ⟨e.sn, f, c.dsc d⟩) (grantTake n q .trough s)
               takeIssue n q e (locksOf (.trg f)) (if f.op.toNat = 0x11 then [d] else []) true s)
  | _ => s

/-- TRG. -/
def issueTrg (n : Nat) (q : Q) (i : Nat) (s : State) : State := issueWith n q i 0x30 (trgBody n q) s

/-! ### The start of a chain (R204, R212) -/

/-- A chain reads back, or contains a CVTR (R204). -/
def chainReads (ch : Chain) : Bool := ch.members.any (fun m => decide (m.f.sa.toNat = 5 ∨ m.f.op.toNat = 0x10))

/-- A word is a tapping TRG. -/
def isTap (w : W128) : Bool :=
  match bodyOf w with
  | .trg f => decide (opOf w = 0x30 ∧ tapsOf f ≠ [])
  | _ => false

/-- An older instruction of the queue for which `p` holds has not completed: one that a fault has ended
has (R71, R205). -/
def olderLeft (qu : Queue) (sn : Nat) (p : W128 → Bool) : Bool :=
  (qu.older sn).any (fun e => decide (e.st = .waiting ∨ e.st = .issued) && p e.word)

/-- The serial number of a chain's first member. -/
def chainSn (ch : Chain) : Nat := ((ch.members.head?).map (fun m => m.sn)).getD 0

/-- TROUGH_CHAIN_START: the oldest chain that has not started. It reads the accumulators as they stand
(R211). -/
def troughChainStart (n : Nat) (s : State) : State :=
  let c := coreOf s n
  match c.chains.find? (fun ch => ch.started.isNone) with
  | none => s
  | some ch =>
    if ch.closed = false then s
    else if chainReads ch ∧ olderLeft (c.queue ch.q) (chainSn ch) (fun w => isTap w || opOf w == 0x40) then s
    else
      let r := c.redSet ch.q
      coreSet n { c with chains := c.chains.map (fun x =>
        if x.q = ch.q ∧ chainSn x = chainSn ch then { x with started := some r } else x) } s

/-! ### Faults of the streams (R192, R205, R221, R224) -/

/-- The first input block of a CVTD with narrow FIN whose tag is not the descriptor's (R191, R224). -/
def tagBad (s : State) (n : Nat) (m : Member) : Option Nat :=
  if m.f.op.toNat = 0x11 ∧ m.f.fin.toNat ≤ 3 ∧ m.f.sa = 0 then
    let bb := blockBytes m.f.fin.toNat
    let total := trgBytes m.f m.f.fin.toNat
    (List.range (ceilDiv total bb)).find? (fun b =>
      (granules (opnd m.f.a + b * bb) (min bb (total - b * bb))).any (fun g => decide ((sideGet s n g).tag ≠ dTAG m.desc)))
  else none

/-- The first group of a Manger source with a faulting word. -/
def ueBad (s : State) (n off len per : Nat) : Option Nat :=
  (sramUeIn s (mangerBase n + off) len).map (fun w => (w * 8 - (mangerBase n + off)) / per)

/-- The first fault of a member's streams: its group and code. -/
def memberFault (s : State) (n : Nat) (m : Member) : Option (Nat × W16) :=
  let per := fmtBytes m.f.fin.toNat 512
  let ues := (trgSources m.f).filterMap (fun r => ueBad s n r.1 r.2 per)
  let ue := ues.foldl (fun b g => match b with
    | none => some g
    | some h => some (min g h)) none
  match (tagBad s n m).map (fun b => b * 32), ue with
  | some g, some h => if g ≤ h then some (g, cSCALE_SKEW) else some (h, cSRAM_UE)
  | some g, none => some (g, cSCALE_SKEW)
  | none, some h => some (h, cSRAM_UE)
  | none, none => none

/-- The fault of a chain: the earliest group, the earlier member among equals: group, member's serial
number, code (R205). -/
def chainFault (s : State) (n : Nat) (ms : List Member) : Option (Nat × Nat × W16) :=
  ms.foldl (fun b m => match memberFault s n m, b with
    | some (g, k), some (h, sn, k') => if g < h then some (g, m.sn, k) else some (h, sn, k')
    | some (g, k), none => some (g, m.sn, k)
    | none, b => b) none

/-! ### Writes, stamps and records (R183, R184, R190, R193, R196, R202, R215) -/

/-- The chain's first Manger source: offset and format (R190). -/
def firstSource (ms : List Member) : Option (Nat × Nat) :=
  ms.findSome? (fun m => (trgSources m.f).head?.map (fun r => (r.1, m.f.fin.toNat)))

/-- The tag of an output block of a member (R190). -/
def outTag (s : State) (n : Nat) (ms : List Member) (m : Member) (b : Nat) : W16 :=
  match m.f.op.toNat with
  | 0x10 => BitVec.ofNat 16 m.f.barg.toNat
  | 0x11 => dTAG m.desc
  | _ =>
    match firstSource ms with
    | some (off, fmt) => (sideGet s n ((off + b * blockBytes fmt) / 8192)).tag
    | none => 0

/-- Any element of a block of 16,384, among those of the first `g` groups, has a property. -/
def blockAny (es : List MElem) (g b : Nat) (p : MElem → Bool) : Bool :=
  (((es.take (g * 512)).drop (b * 16384)).take 16384).any p

/-- The blocks of a member's output that a byte range reaches: first and last. -/
def blockSpan (fmt lo hi : Nat) : List Nat :=
  let bb := blockBytes fmt
  (List.range ((hi - 1) / bb - lo / bb + 1)).map (fun i => lo / bb + i)

/-- Write the first `g` groups of a member's output, and stamp the granules they reach. A granule that two output blocks
share takes the tag of the lower one (R190 and R223 do not say: DESIGN CHOICE, assumption 100). -/
def memberWrite (n g : Nat) (outs : List MOut) (tags : Nat → W16) (o : MOut) (s : State) : State :=
  let f := o.m.f
  if f.d ≠ 0 ∨ g = 0 then s
  else
    let off := opnd f.dst
    let fo := f.fout.toNat
    let len := fmtBytes fo (g * 512)
    let s := memWrite (mangerBase n + off) (unelems fo ((o.elems.take (g * 512)).map (fun x => x.code))) s
    let span (m : Nat) : List Nat := blockSpan fo (max (m * 8192) off - off) (min (m * 8192 + 8192) (off + len) - off)
    sideStamp n off len (fun m => tags ((span m).headD 0))
      (fun m => ((span m).any (fun b => outs.any (fun x => blockAny x.elems g b (fun y => y.sat))),
        (span m).any (fun b => blockAny o.elems g b (fun y => y.nf)))) s

/-- The scale block that a CVTR writes after its elements (R178, R215). -/
def scaleBlock (r : RedSet) (f : TrgF) : List Byte :=
  (List.range 128).map (fun i => BitVec.ofNat 8 (ofSigned 8 (cvtrSigma r f.fout.toNat i))) ++
    leBytes 2 (f.barg.toNat % 65536) ++ [0, BitVec.ofNat 8 f.fout.toNat] ++ List.replicate 124 0

/-- Write a CVTR's scale block. -/
def scaleWrite (n : Nat) (r : RedSet) (f : TrgF) (s : State) : State :=
  if f.op.toNat = 0x10 then
    memWrite (mangerBase n + opnd f.dst + trgBytes f f.fout.toNat) (scaleBlock r f) s
  else s

/-- The greatest finite magnitude of a list of values, if any is finite. -/
def amaxOf (l : List Val) : Option Dy :=
  l.foldl (fun b v => match v, b with
    | .fin d, none => some { d with neg := false }
    | .fin d, some x => if dyLt x { d with neg := false } then some { d with neg := false } else some x
    | _, b => b) none

/-- What a narrowing CVTD records for one block of 16,384 elements of its stream (R183), also where D is a
latch or none and no block is written (DEDUCED, assumption 82). -/
def blockRecord (m : Member) (src : List Val) (sat : Bool) : Int :=
  if sat then scaleUp m.desc
  else match amaxOf src with
    | some d => rho m.f.fout.toNat d
    | none => -128

/-- The record of a narrowing CVTD in its descriptor (R91, R183). -/
def cvtdRecord (n : Nat) (o : MOut) (s : State) : State :=
  if o.m.f.op.toNat = 0x11 ∧ cvtdNarrow o.m.f then
    let nb := ceilDiv (trgElems o.m.f) 16384
    let v := (List.range nb).foldl (fun v b =>
      max v (blockRecord o.m ((o.src.drop (b * 16384)).take 16384)
        (((o.elems.drop (b * 16384)).take 16384).any (fun x => x.sat)))) (-128)
    coreMod n (fun c => c.setDsc o.m.f.barg.toNat (histRaise (c.dsc o.m.f.barg.toNat) (dHPOS o.m.desc) v)) s
  else s

/-- e² of one conversion in units of 2^-32, truncated (R196). -/
def convErr (x : MElem) : Nat :=
  match x.exact, x.val with
  | .fin v, .fin q =>
    let e := dySub v q
    (dyUnits (dyMul e e) (min (dyMul e e).q (-32)) / 2 ^ ((-32) - min (dyMul e e).q (-32)).toNat).natAbs
  | _, _ => 0

/-- The conversion statistic of one member (R196, R197). -/
def convStat (n g : Nat) (o : MOut) (s : State) : State :=
  let f := o.m.f
  let r := oCore n + 0x8F00
  let counted : Bool := rf s r 0 1 == 1 && decide (f.d = 0 ∧ f.fout.toNat ≤ 3) &&
    (decide (f.op.toNat = 0x10) || (decide (f.op.toNat = 0x11) && cvtdNarrow f)) &&
    (rf s r 7 1 == 1 || rf s r 4 3 == f.fout.toNat)
  if counted = false then s
  else
    let es := o.elems.take (g * 512)
    let fin := es.filter (fun x => !x.exact.isNf)
    let sse := min (2 ^ 64 - 1) (reg64 s (r + 0x08) + (fin.map convErr).sum)
    let s := reg64Set (r + 0x08) sse s
    let s := regAdd64 (r + 0x10) fin.length s
    let s := regAdd (r + 0x18) (fin.countP (fun x => x.sat)) s
    regAdd (r + 0x1C) (es.length - fin.length) s

/-- The effects of a chain's first `g` groups: writes, taps, events and the statistic. -/
def chainEffects (n : Nat) (q : Q) (g : Nat) (outs : List MOut) (s : State) : State :=
  let ms := outs.map (fun o => o.m)
  let tags (m : Member) (b : Nat) : W16 := outTag s n ms m b
  let s := outs.foldl (fun s o => memberWrite n g outs (tags o.m) o s) s
  let s := coreMod n (fun c => { c with red := tabMod redReset c.red (qNum q) (fun r =>
    outs.foldl (fun r o => tapMember r g o) r) }) s
  let s := outs.foldl (fun s o => convStat n g o s) s
  let es (o : MOut) : List MElem := o.elems.take (g * 512)
  let s := if outs.any (fun o => (es o).any (fun x => x.nf)) then raise (oCore n + 0x8010) 0 s else s
  let s := if outs.any (fun o => (es o).any (fun x => x.sat)) then raise (oCore n + 0x8010) 1 s else s
  regAdd64 (oCore n + 0x8060) g s

/-- Drop a chain from the Trough. -/
def chainDrop (n : Nat) (ch : Chain) (s : State) : State :=
  coreMod n (fun c => { c with chains := c.chains.filter (fun x => decide (¬ (x.q = ch.q ∧ chainSn x = chainSn ch))) }) s

/-- Every member of a chain ends with its signal withheld and its locks released (R205). -/
def membersFail (n : Nat) (ch : Chain) (s : State) : State :=
  ch.members.foldl (fun s m => entMod n ch.q m.sn (fun e => { e with st := .failed, locks := [], descs := [] }) s) s

/-- The corrected errors that a chain meets in the first `g` groups of its sources (R221). -/
def chainCorrected (n g : Nat) (ms : List Member) (s : State) : State :=
  (ms.flatMap (fun m => (trgSources m.f).map (fun r => (r.1, min r.2 (fmtBytes m.f.fin.toNat (g * 512)))))).foldl
    (fun s r => readCorrected (mangerBase n + r.1) r.2 s) s

/-- A chain runs to its end or to its fault (R205, R208). -/
def chainRunAll (n : Nat) (ch : Chain) (r : RedSet) (s : State) : State :=
  let outs := chainRun s n r [] ch.members
  let groups := ((ch.members.head?).map (fun m => m.f.count.toNat + 1)).getD 0
  match chainFault s n ch.members with
  | some (g, sn, code) =>
    let s := chainEffects n ch.q g outs (chainCorrected n g ch.members s)
    let s := if code = cSRAM_UE then raise (oDie (n / 4) + 0x010) 1 (regAdd (oDie (n / 4) + 0x024) 1 s) else s
    chainDrop n ch (membersFail n ch (halt n ch.q sn code s))
  | none =>
    let s := chainEffects n ch.q groups outs (chainCorrected n groups ch.members s)
    let s := outs.foldl (fun s o => scaleWrite n r o.m.f s) s
    let s := outs.foldl (fun s o => cvtdRecord n o s) s
    ch.members.foldl (fun s m => complete n ch.q m.sn s) (chainDrop n ch s)

/-- TROUGH_CHAIN_COMPLETE: the `k`-th chain of the Trough, once started. Taps keep the queue's order
(R212). -/
def troughChainComplete (n k : Nat) (s : State) : State :=
  let c := coreOf s n
  match c.chains[k]? with
  | none => s
  | some ch =>
    match ch.started with
    | none => s
    | some r =>
      if ch.members.any (fun m => tapsOf m.f != []) ∧
          olderLeft (c.queue ch.q) (chainSn ch) (fun w => isTap w || opOf w == 0x40) then s
      else chainRunAll n ch r s

/-! ### RFLUSH (R111, R112, R212, R213) -/

/-- RFLUSH, once its header wait allows: it issues when its slot is empty (R112). -/
def rflushBody (n : Nat) (q : Q) (e : Ent) (s : State) : State :=
  match bodyOf e.word with
  | .rflush f =>
    if (f.post = 1 ∧ slotFree (coreOf s n) f.slot.toNat = false) ∨ granted s n q .reduction = false then s
    else
      let s := coreMod n (fun c => { c with rfl := c.rfl ++ [⟨q, e.sn, f⟩] }) (grantTake n q .reduction s)
      takeIssue n q e [] [] true s
  | _ => s

/-- RFLUSH. -/
def issueRflush (n : Nat) (q : Q) (i : Nat) (s : State) : State := issueWith n q i 0x40 (rflushBody n q) s

/-- Form the summary, post it, clear the set (R213). -/
def rflushDo (f : RflushF) (q : Q) (c : Core) : Core :=
  let r := c.redSet q
  let c : Core := if f.post = 1 then { c with slots := tabSet none c.slots f.slot.toNat (some (summary r f.sel.toNat)) } else c
  if f.clear = 1 then { c with red := tabSet redReset c.red (qNum q) redReset } else c

/-- RFLUSH_EFFECT: the oldest issued RFLUSH of a queue, once every older tapping TRG and older RFLUSH of
the queue has completed (R212). -/
def rflushEffect (n : Nat) (q : Q) (s : State) : State :=
  let c := coreOf s n
  match c.rfl.find? (fun x => decide (x.q = q) && !olderLeft (c.queue q) x.sn (fun w => isTap w || opOf w == 0x40)) with
  | none => s
  | some x =>
    let c : Core := { c with rfl := c.rfl.filter (fun y => decide (¬ (y.q = q ∧ y.sn = x.sn))) }
    complete n q x.sn (coreSet n (rflushDo x.f q c) s)

end Sys2Proof.Machine
end

