-- ==== Sys2Proof/Machine/Control.lean ====
section
/-!
DEFINITION. Flushes, RUN, the watchdog and the statistics of a core (R70 to R75, R197, R295).
-/
namespace Sys2Proof.Machine

/-! ### Flushes (R72) -/

/-- A flush releases an accumulation chain of the queue that is open on a stall, and discards the tile
that a tag mismatch left of it (R72, R192). -/
def flushStall (q : Q) (st : Stall) : Stall :=
  let mine : Bool := st.chainOpen && st.act.any (fun (t : Tile) => decide (t.q = q))
  let st : Stall := if st.stuck.any (fun (t : Tile) => decide (t.q = q)) then { st with stuck := none } else st
  if mine then { st with chainOpen := false, cLock := none, act := if st.busy then st.act else none } else st

/-- Stall `i` holds an open chain of the queue. -/
def stallOpenFor (c : Core) (q : Q) (i : Nat) : Bool :=
  (c.stall i).chainOpen && (c.stall i).act.any (fun (t : Tile) => decide (t.q = q))

/-- Members of the Trough chains of a queue: a chain is open until it completes or is released (R218). -/
def chainMembers (c : Core) (q : Q) : List Nat :=
  (c.chains.filter (fun ch => decide (ch.q = q))).flatMap (fun ch => ch.members.map (fun m => m.sn))

/-- Members of the queue's Trough chain that has not all issued. -/
def openMembers (c : Core) (q : Q) : List Nat :=
  (c.chains.filter (fun ch => decide (ch.q = q) && !ch.closed)).flatMap (fun ch => ch.members.map (fun m => m.sn))

/-- The flush itself: unissued instructions, held signals and open chains of the queue go, a Trough chain
that has started among them, which leaves no effect (R72, R205, R217, R218); what else is in flight runs
on (R72). With RUN at 0 the counters that the discarded signals name are poisoned (R278). The filler
context's running sum stays as it is (R65 says nothing of a flush: DEDUCED, assumption 85). -/
def flushDo (n : Nat) (q : Q) (s : State) : State :=
  let c := coreOf s n
  let qu := c.queue q
  let freed := chainMembers c q
  let lost := qu.live.filter (fun e => decide (e.st ≠ .failed))
  let hit := (List.range 8).filter (stallOpenFor c q)
  let run := rf s (oCore n + 0x004) 0 1
  let keep := qu.live.filter (fun e => decide (e.st = .issued ∧ e.sn ∉ freed))
  let qu' : Queue := { qu with live := keep, mode := .flushing, chains := [] }
  let stalls := (List.range 8).foldl (fun t i => tabMod stallReset t i (flushStall q)) c.stalls
  let c' : Core := { c with stalls := stalls, chains := c.chains.filter (fun ch => decide (ch.q ≠ q)) }
  let s := coreSet n (c'.setQueue q qu') s
  let s := hit.foldl (fun s i => raise (oStall n i + 0x010) 3 s) s
  if run = 0 then settle n (lost.foldl (fun s e => poisonSignal n .report s e.word) s) else s

/-- A flush is accepted while its queue is halted or RUN is 0 (R72). -/
def flushOk (s : State) (n : Nat) (q : Q) : Bool :=
  decide (((coreOf s n).queue q).mode = .halted) || rf s (oCore n + 0x004) 0 1 == 0

/-- A flush that the host asks for. -/
def flushReq (n : Nat) (q : Q) (s : State) : State :=
  if flushOk s n q then flushDo n q s else refuse (.write .bar0 (oCore n + 0x004) (2 ^ (8 + qNum q))) .core n s

/-- FLUSH_F. -/
def flushF (n : Nat) (s : State) : State := hostAct (oCore n + 0x004) 8 (flushReq n .F) s
/-- FLUSH_B. -/
def flushB (n : Nat) (s : State) : State := hostAct (oCore n + 0x004) 9 (flushReq n .B) s
/-- FLUSH_W. -/
def flushW (n : Nat) (s : State) : State := hostAct (oCore n + 0x004) 10 (flushReq n .W) s
/-- FLUSH_X. -/
def flushX (n : Nat) (s : State) : State := hostAct (oCore n + 0x004) 11 (flushReq n .X) s

/-- FLUSH_DONE: a flushing queue with nothing in flight is idle. Instructions that an ENQ, which the flush
gave room (R463), placed in it since the flush began are discarded with it (DEDUCED, assumption 85); with RUN at
0 the counters that their signals name are poisoned (R278). -/
def flushDone (n : Nat) (q : Q) (s : State) : State :=
  let qu := (coreOf s n).queue q
  if qu.mode = .flushing ∧ qu.inflight = [] then
    let t := queueMod n q (fun v => { v with live := [], mode := .normal, cls := .report, chains := [] }) s
    if rf s (oCore n + 0x004) 0 1 = 0 then
      settle n (qu.unissued.foldl (fun s e => poisonSignal n .report s e.word) t)
    else t
  else s

/-! ### RUN, the watchdog, statistics -/

/-- A write of CORE_CTRL.RUN (R75, R432). -/
def coreRunReq (n : Nat) (v : Bool) (s : State) : State :=
  if restRefuses s (rf s (oCore n + 0x004) 0 1 == 1) v then
    refuse (.write .bar0 (oCore n + 0x004) (b2n v)) .core n s
  else rfSet (oCore n + 0x004) 0 1 (b2n v) s

/-- CORE_RUN. -/
def coreRun (n : Nat) (v : Bool) (s : State) : State := hostWrite (oCore n + 0x004) 0 1 (b2n v) (coreRunReq n v) s

/-- A write of a context's RUN bit (R432, R463). -/
def ctxRunReq (n : Nat) (x : Ctx) (v : Bool) (s : State) : State :=
  if restRefuses s (ctxRun s n x) v then refuse (.write .bar0 (oCore n + 0x060) (b2n v * 2 ^ runBit x)) .core n s
  else ostlerRun n x v s

/-- OSTLER_RUN_P. -/
def ostlerRunP (n : Nat) (v : Bool) (s : State) : State := hostWrite (oCore n + 0x060) 0 1 (b2n v) (ctxRunReq n .primary v) s

/-- OSTLER_RUN_X. -/
def ostlerRunX (n : Nat) (v : Bool) (s : State) : State := hostWrite (oCore n + 0x060) 1 1 (b2n v) (ctxRunReq n .filler v) s

/-- The queue's instructions in flight, members of a chain that has not all issued left out (R217). -/
def busyInflight (c : Core) (q : Q) : List Ent :=
  (c.queue q).inflight.filter (fun e => decide (e.sn ∉ openMembers c q))

/-- STREAM_HANG (R73): the limit has passed with a primary queue running and nothing in flight. -/
def streamHang (n : Nat) (s : State) : State :=
  let c := coreOf s n
  if rf s (oCore n + 0x044) 0 20 ≠ 0 ∧ [Q.F, Q.B, Q.W].any (fun q => qStateNum (c.queue q) == 1) ∧
      [Q.F, Q.B, Q.W].all (fun q => busyInflight c q == []) then
    coreRaise n 4 (record cSTREAM_HANG .core n .report .none s)
  else s

/-- PEAK takes the number of locks in use (R75). -/
def lockPeakSet (n : Nat) (s : State) : State := rfSet (oCore n + 0x040) 16 11 (locksHeld (coreOf s n)).length s

/-- LOCK_PEAK_CLR. -/
def lockPeakClr (n : Nat) (s : State) : State := hostAct (oCore n + 0x040) 31 (lockPeakSet n) s

/-- The conversion statistic goes to zero (R197). -/
def convZero (n : Nat) (s : State) : State :=
  [0x8F08, 0x8F0C, 0x8F10, 0x8F14, 0x8F18, 0x8F1C].foldl (fun s o => regSet (oCore n + o) 0 s) s

/-- CONV_STAT_CLEAR. -/
def convStatClear (n : Nat) (s : State) : State := hostAct (oCore n + 0x8F00) 1 (convZero n) s

/-- SYNC_ARM. -/
def syncArmCmd (n : Nat) (counter : Fin 256) (value : BitVec 12) (all : Bool) (s : State) : State :=
  hostAct (oCore n + 0x1_0400) 31 (syncArm n counter value all) s

end Sys2Proof.Machine
end

