-- ==== Sys2Proof/Machine/CopyOps.lean ====
section
/-!
DEFINITION. Barrow copies (R62, R94 to R100, R179, R190, R193, R222 to R237, R300, R318 to R322).
-/
namespace Sys2Proof.Machine

/-! ### Operands (R94) -/

/-- Bytes of a copy. -/
abbrev CopyF.bytes (f : CopyF) : Nat := f.len.toNat * 256
/-- Source descriptor index and first block. -/
abbrev CopyF.sDesc (f : CopyF) : Nat := bits f.src.toNat 20 12
abbrev CopyF.sFirst (f : CopyF) : Nat := bits f.src.toNat 0 20
/-- Local destination descriptor index and first block. -/
abbrev CopyF.dDesc (f : CopyF) : Nat := bits f.dst.toNat 24 12
abbrev CopyF.dFirst (f : CopyF) : Nat := bits f.dst.toNat 0 24
/-- Remote destination: rank or group, descriptor index, first block. -/
abbrev CopyF.rank (f : CopyF) : Nat := bits f.dst.toNat 23 13
abbrev CopyF.rDesc (f : CopyF) : Nat := bits f.dst.toNat 11 12
abbrev CopyF.rFirst (f : CopyF) : Nat := bits f.dst.toNat 0 11
/-- Stall and side of a copy to scale registers. -/
abbrev CopyF.scStall (f : CopyF) : Nat := bits f.dst.toNat 1 3
abbrev CopyF.scCol (f : CopyF) : Bool := bits f.dst.toNat 0 1 == 1
/-- Manger byte offsets. -/
abbrev CopyF.sOff (f : CopyF) : Nat := 64 * bits f.src.toNat 0 19
abbrev CopyF.dOff (f : CopyF) : Nat := 64 * bits f.dst.toNat 0 19

/-- Blocks that a copy of `n` bytes covers in a descriptor's format. -/
abbrev nBlocks (d : Dsc) (n : Nat) : Nat := ceilDiv n (blockBytes (dFMT d))

/-! ### Issue checks (R81, R95, R97, R99, R318, R244) -/

/-- The faults of the source descriptor. MCAST takes any format, as R97 says; R153 names MOVE alone for AX16
and LG16, and MCAST is a MOVE at every member (DEDUCED, assumption 87). -/
def srcFault (c : Core) (f : CopyF) : Option W16 :=
  if f.srck ≠ 1 then none
  else
    let d := c.dsc f.sDesc
    let op := f.op.toNat
    let bad : Bool := decide ((op = 2 ∧ dFMT d ≠ fX64) ∨ ((op = 3 ∨ op = 4) ∧ dFMT d ≠ fBF16) ∨
      (op = 5 ∧ (dFMT d = fAX16 ∨ dFMT d = fLG16)) ∨ (dCSUM d = 1 ∧ f.bytes % blockBytes (dFMT d) ≠ 0))
    descCheck d bad f.sFirst (nBlocks d f.bytes)

/-- The format of a remote destination's blocks, as the sender knows it: its own descriptor's, or what the
surroundings hold (assumption 46). -/
def destFmt (s : State) (n : Nat) (f : CopyF) : Nat :=
  let h := (haddrOf s f.rank).getD 0
  if f.op = 1 then Config.destFormat (8192 + f.rank) n f.rDesc % 8
  else if h = haddr s then dFMT ((coreOf s n).dsc f.rDesc) % 8
  else Config.destFormat h n f.rDesc % 8

/-- The faults of the destination descriptor that the issue finds: a local one's contents, and the format of
a remote one that an OR8 of a descriptor must equal (R97). -/
def dstFault (s : State) (n : Nat) (f : CopyF) : Option W16 :=
  let c := coreOf s n
  let or8 : Bool := decide (f.op.toNat = 5 ∧ f.srck = 1)
  if f.dstk = 1 then
    let d := c.dsc f.dDesc
    let pair : Bool := or8 && decide (dFMT (c.dsc f.sDesc) ≠ dFMT d)
    descCheck d (opMismatch f.op.toNat d f.bytes || pair) f.dFirst (nBlocks d f.bytes)
  else if f.dstk = 2 ∧ or8 = true ∧ (haddrOf s f.rank).isSome ∧ dFMT (c.dsc f.sDesc) ≠ destFmt s n f then
    some cDESC_MISMATCH
  else none

/-- The block range of a copy keeps to its windows (R220). -/
def copyWindowOk (s : State) (n : Nat) (d : Dsc) (first len : Nat) : Bool :=
  descWindowOk s (some n) d first (nBlocks d len)

/-- The faults of a remote destination: RANK_RANGE, then ROUTE_MISSING (R99, R318). -/
def rankFault (s : State) (f : CopyF) : Option W16 :=
  if f.dstk ≠ 2 then none
  else if f.op = 1 then (if groupMembers s f.rank = [] then some cRANK_RANGE else none)
  else if devices s ≤ f.rank then some cRANK_RANGE
  else
    match haddrOf s f.rank with
    | none => some cRANK_RANGE
    | some h =>
      let e := rtEntry s 24 h
      if bits e 31 1 = 0 ∨ (bits e 25 1 = 1 ∧ midset s (bits e 26 4) = []) then some cROUTE_MISSING else none

/-- The source blocks of a copy touch a stack that `p` picks. -/
def srcTouches (p : Nat → Bool) (d : Dsc) (f : CopyF) : Bool :=
  decide (f.srck = 1) && descTouches p d f.sFirst (nBlocks d f.bytes)

/-- The local destination blocks of a copy touch a stack that `p` picks. -/
def dstTouches (p : Nat → Bool) (d : Dsc) (f : CopyF) : Bool :=
  decide (f.dstk = 1) && descTouches p d f.dFirst (nBlocks d f.bytes)

/-- A copy touches a stack that is in TEST (R244). -/
def copyTest (s : State) (c : Core) (f : CopyF) : Bool :=
  srcTouches (inTest s) (c.dsc f.sDesc) f || dstTouches (inTest s) (c.dsc f.dDesc) f

/-- The first issue fault of a copy, in the order of R81. -/
def copyCheck (s : State) (n : Nat) (f : CopyF) : Option W16 :=
  let c := coreOf s n
  match srcFault c f with
  | some k => some k
  | none =>
    match dstFault s n f with
    | some k => some k
    | none =>
      if f.srck = 1 ∧ copyWindowOk s n (c.dsc f.sDesc) f.sFirst f.bytes = false then some cADDR_WINDOW
      else if f.dstk = 1 ∧ copyWindowOk s n (c.dsc f.dDesc) f.dFirst f.bytes = false then some cADDR_WINDOW
      else if f.dstk = 1 ∧ handleOk (dCCOUNT (c.dsc f.dDesc)) = false then some cHANDLE_RANGE
      else
        match rankFault s f with
        | some k => some k
        | none =>
          if mangerOk (.copy f) = false then some cMANGER_RANGE
          else if f.srck = 0 ∧ f.dstk = 0 ∧ overlap f.sOff f.bytes f.dOff f.bytes then some cREGION_ALIAS
          else if copyTest s c f then some cSTATE_REFUSED
          else none

/-! ### Reading the source (R95, R193, R222, R223) -/

/-- What a copy reads: a fault, or its bytes, its metadata units, and the source's non-finite flag. -/
structure SrcRead where
  data : List Byte
  units : CopyMeta
  nf : Bool
deriving DecidableEq, Repr

/-- Read the source of a copy, with the copy `d` of its source descriptor. -/
def copyRead (n : Nat) (f : CopyF) (d : Dsc) (s : State) : Except W16 SrcRead × State :=
  if f.srck = 0 then
    let a := mangerBase n + f.sOff
    let r := readErrors a f.bytes s
    match r.1 with
    | some k => (.error k, r.2)
    | none =>
      let us := (granules f.sOff f.bytes).map (fun g => sideWord (sideGet r.2 n g))
      (.ok ⟨memRead r.2 a f.bytes, ⟨false, 8192, f.sOff % 8192, us⟩, us.any mNf⟩, r.2)
  else
    let a := dBASE d + f.sFirst * blockBytes (dFMT d)
    let nb := nBlocks d f.bytes
    let r := readErrors a f.bytes s
    match r.1 with
    | some k => (.error k, r.2)
    | none =>
      let r2 := readErrors (dMETA d + 8 * f.sFirst) (8 * nb) r.2
      match r2.1 with
      | some k => (.error k, r2.2)
      | none =>
        let s := metaAccess d f.sFirst nb f.hint.toNat false (hbmAccess a f.bytes f.hint.toNat false r2.2)
        let us := (List.range nb).map (fun i => metaRead s d (f.sFirst + i))
        (.ok ⟨memRead s a f.bytes, ⟨true, blockBytes (dFMT d), 0, us⟩, dNF d || us.any mNf⟩, s)

/-- The source is a descriptor whose CSUM is 1 (R236). -/
def srcCsum (c : Core) (f : CopyF) : Bool := decide (f.srck = 1) && dCSUM (c.dsc f.sDesc) == 1

/-! ### Sending a remote copy (R300, R315, R322) -/

/-- The format of the destination blocks that metadata flits describe, as the sender counts them (R300). -/
def sendFmt (s : State) (n : Nat) (f : CopyF) : Nat :=
  match f.op.toNat with
  | 2 => fX64
  | 3 | 4 => fBF16
  | _ => destFmt s n f

/-- The header of a copy's flit. -/
def copyHdr (s : State) (n : Nat) (f : CopyF) (dst barrow slot off op : Nat) : W128 :=
  BitVec.ofNat 128 ((if f.op = 1 then 2 else 1) * 2 ^ 126 + dst * 2 ^ 111 + haddr s * 2 ^ 85 + 2 ^ 84 + n * 2 ^ 79 +
    f.rDesc * 2 ^ 67 + f.rFirst * 2 ^ 56 + off * 2 ^ 40 + f.len.toNat * 2 ^ 24 + op * 2 ^ 21 +
    (barrow * 8 + slot) * 2 ^ 16)

/-- The metadata word that a metadata flit carries for destination block `k`. -/
def sendWord (m : CopyMeta) (fmt bb n k : Nat) : W64 :=
  let v := metaOver m (k * bb) (min (k * bb + bb) n)
  v.2.2.2.getD (metaWord v.1 v.2.1 v.2.2.1 fmt 0)

/-- The flits of a remote copy: its grains, then its metadata flits (R300). -/
def copyFlits (s : State) (n : Nat) (f : CopyF) (csum : Bool) (dst barrow slot : Nat) (r : SrcRead) : List Flit :=
  let fmt := sendFmt s n f
  let bb := max 256 (blockBytes fmt)
  let nb := ceilDiv f.bytes bb
  let cw : W64 := BitVec.ofNat 64 (b2n r.nf + 2 * b2n csum)
  let data := ((grains f.len.toNat r.data).zipIdx).map (fun g => Flit.mk (copyHdr s n f dst barrow slot g.2 f.op.toNat) g.1)
  let meta1 (i : Nat) : Flit :=
    let ws := (List.range (min 31 (nb - 31 * i))).map (fun j => sendWord r.units fmt bb f.bytes (31 * i + j))
    let p := (ws ++ [cw]).flatMap (fun w => leBytes 8 w.toNat)
    ⟨copyHdr s n f dst barrow slot i 7, p ++ List.replicate (256 - p.length) 0⟩
  data ++ (List.range (max 1 (ceilDiv nb 31))).map meta1

/-- Send every flit of a remote copy. -/
def copySend (n : Nat) (q : Q) (sn : Nat) (f : CopyF) (csum : Bool) (barrow slot : Nat) (r : SrcRead) (s : State) : State :=
  let dst := if f.op = 1 then f.rank else (haddrOf s f.rank).getD 0
  let space := if f.op = 1 then 2 + f.rank else 0
  let waits := if f.op = 1 then groupMembers s f.rank else []
  pumpAll ((copyFlits s n f csum dst barrow slot r).foldl
    (fun s fl => spaceSend dst space ⟨0, fl, some (n, q, sn), waits⟩ s) s)

/-! ### COPY -/

/-- The lowest copy slot of a Barrow that no held copy has. -/
def freeSlot (l : List Copy) : Nat :=
  ((List.range 8).find? (fun i => l.all (fun x => decide (x.slot ≠ i)))).getD 0

/-- Descriptors of the core that a copy names (R92). -/
def copyDescs (f : CopyF) : List Nat :=
  (if f.srck = 1 then [f.sDesc] else []) ++ (if f.dstk = 1 then [f.dDesc] else [])

/-- A Barrow fetches the source of a copy that it reads, and sends it if it is remote (R95); the fetch waits
while a stack that it reads is at HALT (R233, R243), and is refused by one that is in TEST (R244). -/
def copyFetch (n b : Nat) (x : Copy) (s : State) : State :=
  if srcTouches (atHalt s) x.sdesc x.f then s
  else if srcTouches (inTest s) x.sdesc x.f then copyFault n x.q x.sn cSTATE_REFUSED s
  else
    let r := copyRead n x.f x.sdesc s
    match r.1 with
    | .error k => copyFault n x.q x.sn k r.2
    | .ok v =>
      let x' : Copy := { x with fetched := true, data := v.data, units := v.units, srcNf := v.nf }
      let s := coreMod n (fun c => { c with barrows := tabMod [] c.barrows b (fun l =>
        l.map (fun y => if y.q = x.q ∧ y.sn = x.sn then x' else y)) }) r.2
      if x.f.dstk = 2 then copySend n x.q x.sn x.f x.csum b x.slot v s else s

/-- A copy issues to a Barrow with the copies of its descriptors (R62, R90, R95). The Barrow reads one copy at a
time: it reads this one when the copies before it have read their last bytes. -/
def copyStart (n : Nat) (q : Q) (e : Ent) (f : CopyF) (b : Nat) (s : State) : State :=
  let s := takeIssue n q e (locksOf (.copy f)) (copyDescs f) true s
  let c := coreOf s n
  let x : Copy := ⟨q, e.sn, freeSlot (tabGet [] c.barrows b), f, c.dsc f.sDesc, false, [], ⟨false, 1, 0, []⟩, false,
    srcCsum c f, c.dsc f.dDesc, false⟩
  coreMod n (fun c => { c with barrows := tabMod [] c.barrows b (fun l => l ++ [x]) }) s

/-- COPY, once its header wait allows: a Barrow with room and free locks, then the checks of R81. A copy that
they refuse enters no Barrow, and LAST_CODE of none takes note of it (the spec does not say: DESIGN CHOICE,
assumption 100). -/
def copyBody (n : Nat) (q : Q) (e : Ent) (s : State) : State :=
  match bodyOf e.word with
  | .copy f =>
    let c := coreOf s n
    (match barrowFor c f with
     | none => s
     | some b =>
       if locksFree c q e.sn (.copy f) = false ∨ granted s n q (.barrow b) = false then s
       else
         match copyCheck s n f with
         | some k => halt n q e.sn k s
         | none => copyStart n q e f b (grantTake n q (.barrow b) s))
  | _ => s

/-- COPY. -/
def issueCopy (n : Nat) (q : Q) (i : Nat) (s : State) : State := issueWith n q i 0x10 (copyBody n q) s

/-- The copy that a Barrow reads: the first it holds that has not read its last byte. -/
def readingCopy (s : State) (n b : Nat) : Option Copy := (tabGet [] (coreOf s n).barrows b).find? (fun x => !x.readDone)

/-- A fetched copy has read its last byte, and its read lock is released (R54). -/
def copyReadDone (n b : Nat) (x : Copy) (s : State) : State :=
  if x.fetched = false then s
  else
    let s := coreMod n (fun c => { c with barrows := tabMod [] c.barrows b (fun l =>
      l.map (fun y => if y.q = x.q ∧ y.sn = x.sn then { y with readDone := true } else y)) }) s
    entMod n x.q x.sn (fun e => { e with locks := e.locks.filter (fun k => k.wr) }) s

/-- COPY_LAST_BYTE_READ (R54, R62): the copy that the Barrow reads has read its source to its last byte. What it
reads, the faults that it meets and the flits of a remote copy are those of this command (assumption 73). -/
def copyLastByteRead (n b : Nat) (s : State) : State :=
  match readingCopy s n b with
  | none => s
  | some x =>
    if x.fetched then copyReadDone n b x s
    else
      let s := copyFetch n b x s
      match readingCopy s n b with
      | some y => if y.q = x.q ∧ y.sn = x.sn then copyReadDone n b y s else s
      | none => s

/-! ### Delivery -/

/-- A scale block of R178 suits a side of a stall's registers (R179). -/
def scaleBlockOk (col : Bool) (l : List Byte) : Bool :=
  decide ((l.getD 130 0).toNat = b2n col) && (l.drop 132).all (fun b => b == 0)

/-- Load a stall's row or column scale registers and their tag (R138, R140). -/
def scaleLoad (n i : Nat) (col : Bool) (l : List Byte) (s : State) : State :=
  let t : Tab Byte := tabSetMany 0 [] (((l.take 128).zipIdx).map (fun p => (p.2, p.1)))
  let tag := BitVec.ofNat 16 (leNat ((l.drop 128).take 2))
  stallMod n i (fun st => if col then { st with colScale := t, colTag := tag } else { st with rowScale := t, rowTag := tag }) s

/-- The blocks that a copy read from a checksummed source match their CHECK (R236). -/
def srcVerified (x : Copy) : Bool :=
  (x.units.units.zipIdx).all (fun u =>
    let bytes := (x.data.drop (u.2 * x.units.span)).take x.units.span
    decide (checkOf bytes (metaLo u.1) = mCheck u.1))

/-- Deliver a local copy: a fault, or the state (R97, R179, R185, R193, R223, R236, R237). -/
def copyDeliver (n : Nat) (x : Copy) (s : State) : Option W16 × State :=
  let f := x.f
  if x.csum ∧ srcVerified x = false then (some cCSUM_FAIL, s)
  else
    match f.dstk.toNat with
    | 0 => deliverManger n f.dOff f.op.toNat x.data x.units s
    | 1 =>
      let d := x.ddesc
      let r := deliverDesc d f.dFirst f.op.toNat f.hint.toNat x.data x.units x.csum s
      (match r.1 with
       | some k => (some k, r.2.2)
       | none =>
         (none, countAdd n (dCCOUNT d) x.srcNf (copyMarks n f.dDesc d r.2.1 x.srcNf r.2.2)))
    | _ =>
      if scaleBlockOk f.scCol x.data then (none, scaleLoad n f.scStall f.scCol x.data s)
      else (some cSCALE_BLOCK_BAD, s)

/-- A copy ends well: its Barrow records OK and drops it, and it completes. -/
def copyEnd (n b : Nat) (x : Copy) (s : State) : State :=
  let s := rfSet (oCore n + 0x1000 + 16 * b) 16 16 0 (barrowDrop n x.q x.sn s)
  complete n x.q x.sn s

/-- COPY_COMPLETE (R49, R62): the `i`-th copy that the Barrow holds, once it has read its last byte. A local
delivery waits while a stack of its destination is at HALT (R233, R243), and is refused by one that is in
TEST (R244). -/
def copyComplete (n b i : Nat) (s : State) : State :=
  match (tabGet [] (coreOf s n).barrows b)[i]? with
  | none => s
  | some x =>
    if x.readDone = false then s
    else if x.f.dstk = 2 then (if copyUnacked s n x.q x.sn then s else copyEnd n b x s)
    else if dstTouches (atHalt s) x.ddesc x.f then s
    else if dstTouches (inTest s) x.ddesc x.f then copyFault n x.q x.sn cSTATE_REFUSED s
    else
      let r := copyDeliver n x s
      match r.1 with
      | some k => copyFault n x.q x.sn k r.2
      | none => copyEnd n b x r.2

end Sys2Proof.Machine
end

