-- ==== Sys2Proof/Machine/CmdCore.lean ====
section
/-!
DEFINITION. The commands of the cores: Ostlers, issue, engines, flushes and statistics (R41 to R75, R92 to R115, R126 to R143, R197 to R218, R276 to R284, R295, R463).
Each meaning answers a next state.
-/
namespace Sys2Proof.Machine

/-- ENQ (R43). -/
def execEnq (c : Fin 32) (x : Ctx) (s : State) : Host.Outcome State Fault Refusal :=
  .next (ostlerEnq c.val x s)

/-- ENQ_COMPLETE (R43). -/
def execEnqComplete (c : Fin 32) (x : Ctx) (s : State) : Host.Outcome State Fault Refusal :=
  .next (Sys2Proof.Machine.enqComplete c.val x s)

/-- LI (R113). -/
def execLi (c : Fin 32) (x : Ctx) (s : State) : Host.Outcome State Fault Refusal :=
  .next (ostlerLi c.val x s)

/-- ALU (R113). -/
def execAlu (c : Fin 32) (x : Ctx) (s : State) : Host.Outcome State Fault Refusal :=
  .next (ostlerAlu c.val x s)

/-- BR (R113). -/
def execBr (c : Fin 32) (x : Ctx) (s : State) : Host.Outcome State Fault Refusal :=
  .next (ostlerBr c.val x s)

/-- LOOP (R113). -/
def execLoop (c : Fin 32) (x : Ctx) (s : State) : Host.Outcome State Fault Refusal :=
  .next (ostlerLoop c.val x s)

/-- SUMRD (R112). -/
def execSumrd (c : Fin 32) (x : Ctx) (s : State) : Host.Outcome State Fault Refusal :=
  .next (ostlerSumrd c.val x s)

/-- SLD (R114). -/
def execSld (c : Fin 32) (x : Ctx) (s : State) : Host.Outcome State Fault Refusal :=
  .next (ostlerSld c.val x s)

/-- SST (R114). -/
def execSst (c : Fin 32) (x : Ctx) (s : State) : Host.Outcome State Fault Refusal :=
  .next (ostlerSst c.val x s)

/-- DGET (R113). -/
def execDget (c : Fin 32) (x : Ctx) (s : State) : Host.Outcome State Fault Refusal :=
  .next (ostlerDget c.val x s)

/-- DSET (R92). -/
def execDset (c : Fin 32) (x : Ctx) (s : State) : Host.Outcome State Fault Refusal :=
  .next (ostlerDset c.val x s)

/-- BAR (R114). -/
def execBar (c : Fin 32) (x : Ctx) (s : State) : Host.Outcome State Fault Refusal :=
  .next (ostlerBar c.val x s)

/-- BAR_REALIGN (R277). -/
def execBarRealign (c : Fin 32) (s : State) : Host.Outcome State Fault Refusal :=
  .next (Sys2Proof.Machine.barRealign c.val s)

/-- STOP (R113). -/
def execStop (c : Fin 32) (x : Ctx) (s : State) : Host.Outcome State Fault Refusal :=
  .next (ostlerStop c.val x s)

/-- SYNC (R93). -/
def execSync (c : Fin 32) (q : Q) (i : Fin 16) (s : State) : Host.Outcome State Fault Refusal :=
  .next (issueSync c.val q i.val s)

/-- CWAIT (R93). -/
def execCwait (c : Fin 32) (q : Q) (i : Fin 16) (s : State) : Host.Outcome State Fault Refusal :=
  .next (issueCwait c.val q i.val s)

/-- CRESET (R282). -/
def execCreset (c : Fin 32) (q : Q) (i : Fin 16) (s : State) : Host.Outcome State Fault Refusal :=
  .next (issueCreset c.val q i.val s)

/-- CARM (R276). -/
def execCarm (c : Fin 32) (q : Q) (i : Fin 16) (s : State) : Host.Outcome State Fault Refusal :=
  .next (issueCarm c.val q i.val s)

/-- COPY (R95). -/
def execCopy (c : Fin 32) (q : Q) (i : Fin 16) (s : State) : Host.Outcome State Fault Refusal :=
  .next (issueCopy c.val q i.val s)

/-- COPY_COMPLETE (R49). -/
def execCopyComplete (c : Fin 32) (barrow : Fin 4) (i : Nat) (s : State) : Host.Outcome State Fault Refusal :=
  .next (Sys2Proof.Machine.copyComplete c.val barrow.val i s)

/-- TMUL (R101). -/
def execTmul (c : Fin 32) (q : Q) (i : Fin 16) (s : State) : Host.Outcome State Fault Refusal :=
  .next (issueTmul c.val q i.val s)

/-- TMUL_EDGE_DONE (R128). -/
def execTmulEdgeDone (c : Fin 32) (stall : Fin 8) (s : State) : Host.Outcome State Fault Refusal :=
  .next (Sys2Proof.Machine.tmulEdgeDone c.val stall.val s)

/-- TMUL_DRAIN (R139). -/
def execTmulDrain (c : Fin 32) (stall : Fin 8) (s : State) : Host.Outcome State Fault Refusal :=
  .next (Sys2Proof.Machine.tmulDrain c.val stall.val s)

/-- TRG (R107). -/
def execTrg (c : Fin 32) (q : Q) (i : Fin 16) (s : State) : Host.Outcome State Fault Refusal :=
  .next (issueTrg c.val q i.val s)

/-- TROUGH_CHAIN_START (R204). -/
def execTroughChainStart (c : Fin 32) (s : State) : Host.Outcome State Fault Refusal :=
  .next (Sys2Proof.Machine.troughChainStart c.val s)

/-- TROUGH_CHAIN_COMPLETE (R208). -/
def execTroughChainComplete (c : Fin 32) (k : Nat) (s : State) : Host.Outcome State Fault Refusal :=
  .next (Sys2Proof.Machine.troughChainComplete c.val k s)

/-- RFLUSH (R111). -/
def execRflush (c : Fin 32) (q : Q) (i : Fin 16) (s : State) : Host.Outcome State Fault Refusal :=
  .next (issueRflush c.val q i.val s)

/-- RFLUSH_EFFECT (R213). -/
def execRflushEffect (c : Fin 32) (q : Q) (s : State) : Host.Outcome State Fault Refusal :=
  .next (Sys2Proof.Machine.rflushEffect c.val q s)

/-- STREAM_HANG (R73). -/
def execStreamHang (c : Fin 32) (s : State) : Host.Outcome State Fault Refusal :=
  .next (Sys2Proof.Machine.streamHang c.val s)

/-- FLUSH_F (R72). -/
def execFlushF (c : Fin 32) (s : State) : Host.Outcome State Fault Refusal :=
  .next (Sys2Proof.Machine.flushF c.val s)

/-- FLUSH_B (R72). -/
def execFlushB (c : Fin 32) (s : State) : Host.Outcome State Fault Refusal :=
  .next (Sys2Proof.Machine.flushB c.val s)

/-- FLUSH_W (R72). -/
def execFlushW (c : Fin 32) (s : State) : Host.Outcome State Fault Refusal :=
  .next (Sys2Proof.Machine.flushW c.val s)

/-- FLUSH_X (R72). -/
def execFlushX (c : Fin 32) (s : State) : Host.Outcome State Fault Refusal :=
  .next (Sys2Proof.Machine.flushX c.val s)

/-- FLUSH_DONE (R72). -/
def execFlushDone (c : Fin 32) (q : Q) (s : State) : Host.Outcome State Fault Refusal :=
  .next (Sys2Proof.Machine.flushDone c.val q s)

/-- CORE_RUN (R75). -/
def execCoreRun (c : Fin 32) (v : Bool) (s : State) : Host.Outcome State Fault Refusal :=
  .next (Sys2Proof.Machine.coreRun c.val v s)

/-- OSTLER_RUN_P (R463). -/
def execOstlerRunP (c : Fin 32) (v : Bool) (s : State) : Host.Outcome State Fault Refusal :=
  .next (Sys2Proof.Machine.ostlerRunP c.val v s)

/-- OSTLER_RUN_X (R463). -/
def execOstlerRunX (c : Fin 32) (v : Bool) (s : State) : Host.Outcome State Fault Refusal :=
  .next (Sys2Proof.Machine.ostlerRunX c.val v s)

/-- OSTLER_CONTEXT_STOPPED (R463). -/
def execOstlerContextStopped (c : Fin 32) (x : Ctx) (s : State) : Host.Outcome State Fault Refusal :=
  .next (Sys2Proof.Machine.ostlerContextStopped c.val x s)

/-- LOCK_PEAK_CLR (R75). -/
def execLockPeakClr (c : Fin 32) (s : State) : Host.Outcome State Fault Refusal :=
  .next (Sys2Proof.Machine.lockPeakClr c.val s)

/-- CONV_STAT_CLEAR (R197). -/
def execConvStatClear (c : Fin 32) (s : State) : Host.Outcome State Fault Refusal :=
  .next (Sys2Proof.Machine.convStatClear c.val s)

/-- SYNC_ARM (R295). -/
def execSyncArm (c : Fin 32) (counter : Fin 256) (value : BitVec 12) (all : Bool) (s : State) : Host.Outcome State Fault Refusal :=
  .next (syncArmCmd c.val counter value all s)

/-- COPY_LAST_BYTE_READ (R62). -/
def execCopyLastByteRead (c : Fin 32) (barrow : Fin 4) (s : State) : Host.Outcome State Fault Refusal :=
  .next (Sys2Proof.Machine.copyLastByteRead c.val barrow.val s)

end Sys2Proof.Machine
end

