-- ==== Sys2Proof/Machine/GroomMath.lean ====
section
/-!
DEFINITION. The arithmetic of the Groom (R258, R259, R261): each result is formed exactly and rounded
once. APPLY divides by a sum with a square root, so its order against dyadic numbers is decided by exact
integer arithmetic.
-/
namespace Sys2Proof.Machine

/-- Sign of a value: -1, 0 or 1. -/
def dySgn (d : Dy) : Int := if d.m = 0 then 0 else if d.neg then -1 else 1

/-- Sign of `b * sqrt t - m` for `t ≥ 0`. -/
def rootSgn (b t m : Dy) : Int :=
  let l := if t.m = 0 then 0 else dySgn b
  let r := dySgn m
  let sq := dySgn (dySub (dyMul (dyMul b b) t) (dyMul m m))
  if l = 0 then -r
  else if 0 < l then (if 0 < r then sq else 1)
  else (if r < 0 then -sq else -1)

/-- The operands of APPLY: `a - n / (sqrt t + c2)` with `a = w - c3 w`, `n = c0 m`, `t = c1 v`. -/
structure ApplyX where
  a : Dy
  n : Dy
  t : Dy
  c2 : Dy
deriving DecidableEq, Repr

/-- Sign of the exact result of APPLY less `z`. -/
def applySgn (x : ApplyX) (z : Dy) : Int :=
  let b := dySub x.a z
  rootSgn b x.t (dySub x.n (dyMul b x.c2))

/-- The greatest `n` below `2^i + lo` of the form `lo + k` for which `p` holds, for `p` true up to a
bound. -/
def searchUp (p : Nat → Bool) : Nat → Nat → Nat
  | 0, lo => lo
  | i + 1, lo => if p (lo + 2 ^ i) then searchUp p i (lo + 2 ^ i) else searchUp p i lo

/-- Stochastic rounding to AX16 (R165) of a result known through the sign of its distance from dyadic
numbers: code and saturation. -/
def stochSgn (anchor : Int) (sgn : Dy → Int) (d16 : Nat) : Nat × Bool :=
  let s := sgn dyZero
  if s = 0 then (0, false)
  else
    let neg : Bool := decide (s < 0)
    let ge (z : Dy) : Bool := if neg then decide (sgn (dyNeg z) ≤ 0) else decide (0 ≤ sgn z)
    let gr := fmtGrid fAX16 anchor
    let top : Nat × Bool := (encodeFloat fAX16 anchor ⟨neg, gr.maxSig, gr.emax - (gr.p - 1)⟩, true)
    if ge ⟨false, 1, gr.emax + 1⟩ then top
    else
      let e := ((List.range 14).map (fun (i : Nat) => gr.emax - (i : Int))).find? (fun e => ge ⟨false, 1, e⟩)
      let e := e.getD gr.emin
      let g := e - (gr.p - 1)
      let n := searchUp (fun n => ge ⟨false, n, g - 16⟩) 28 0
      let a := n / 65536
      let r := if d16 < n % 65536 then a + 1 else a
      if r = 2 ^ gr.p then
        (if e = gr.emax then top else (encodeFloat fAX16 anchor ⟨neg, 2 ^ (gr.p - 1), g + 1⟩, false))
      else (encodeFloat fAX16 anchor ⟨neg, r, g⟩, false)

/-- Coefficients an operation needs (R258). -/
def coefCount (op : Nat) : Nat :=
  match op with
  | 1 => 2 | 2 => 2 | 3 => 4 | 4 => 1 | 5 => 2 | _ => 0

/-- Descriptor operands an operation uses (R258). -/
def gopOperands (op : Nat) : Nat :=
  match op with
  | 3 => 3 | 4 => 1 | 6 => 1 | _ => 2

/-- The formats that R258 allows for an operand. -/
def gopFmtOk (op i fmt : Nat) : Bool :=
  match op, i with
  | 1, 0 => fmt == fAX16
  | 1, _ => fmt == fBF16
  | 2, 0 => fmt == fLG16
  | 2, _ => fmt == fBF16
  | 3, 2 => fmt == fLG16
  | 5, 1 => fmt == fBF16 || fmt == fAX16
  | 7, 0 => fmt == fBF16
  | _, _ => fmt == fAX16

/-- A finite operand; a non-finite gradient never gets here (R262). -/
def gopVal (fmt : Nat) (anchor : Int) (c : Nat) : Dy :=
  match decode fmt anchor c with
  | .fin d => d
  | _ => dyZero

/-- One element of a GOP that is not a REANCHOR (R258): formats and anchors of the operands, the
coefficients, the draw, and the codes of D0, D1 and D2. The code written, and whether it saturated. -/
def gopElem (op : Nat) (fmt : Nat × Nat × Nat) (anchor : Int × Int × Int) (c : List Dy) (d16 : Nat)
    (x0 x1 x2 : Nat) : Nat × Bool :=
  let k (i : Nat) : Dy := c.getD i dyZero
  let w := gopVal fmt.1 anchor.1 x0
  let y := gopVal fmt.2.1 anchor.2.1 x1
  let v := gopVal fmt.2.2 anchor.2.2 x2
  let out (r : Conv) : Nat × Bool := (r.code, r.sat)
  match op with
  | 1 => out (encode fAX16 anchor.1 (.fin (dyAdd (dyMul (k 0) w) (dyMul (k 1) y))))
  | 2 => out (encode fLG16 0 (.fin (dyAdd (dyMul (k 0) w) (dyMul (k 1) (dyMul y y)))))
  | 3 =>
    stochSgn anchor.1
      (applySgn ⟨dySub w (dyMul (k 3) w), dyMul (k 0) y, dyMul (k 1) v, k 2⟩) d16
  | 4 => stochRound fAX16 anchor.1 (dySub w (dyMul (k 0) w)) d16
  | 5 => stochRound fAX16 anchor.1 (dySub (dySub w (dyMul (k 0) y)) (dyMul (k 1) w)) d16
  | _ => out (encode fBF16 0 (.fin y))

/-- One element of a REANCHOR (R261). -/
def reanchorElem (old new : Int) (c : Nat) : Nat × Bool :=
  let r := encode fAX16 new (decode fAX16 old c)
  (r.code, r.sat)

/-- Some needed coefficients are illegal (R257, R258): `table` gives the entries in force. -/
def coefBad (op coef : Nat) (steps : Nat) (table : Nat → W32) : Bool :=
  let n := coefCount op
  let entry (i : Nat) : Option Dy := decodeB32 (table (coef + i)).toNat
  decide (0 < n) &&
    (decide (steps = 0 ∨ 255 < coef + n - 1) || (List.range n).any (fun i => (entry i).isNone) ||
      decide (op = 3 ∧ (dySgn ((entry 1).getD dyZero) < 0 ∨ dySgn ((entry 2).getD dyZero) ≤ 0)))

end Sys2Proof.Machine
end

