-- ==== Sys2Proof/Machine/Groom.lean ====
section
/-!
DEFINITION. The Groom (R116, R117, R249 to R270): the U program, its section counts and coefficients, the
skip decision, the exchange of block checks and verdicts, and REANCHOR.
-/
namespace Sys2Proof.Machine

/-! ### Registers and the U program -/

/-- The U section count (R252). -/
def groomSection (s : State) (k : Nat) : Nat := reg64 s (oGroom k + 0x018)

/-- RUN of a Groom. -/
def groomRunBit (s : State) (k : Nat) : Bool := rf s (oGroom k + 0x004) 0 1 == 1

/-- The word at a Groom's PC. -/
def groomWord (s : State) (k : Nat) : W128 := tabGet 0 (groomOf s k).uram (groomPc s k)

/-- Set a Groom's PC. -/
def groomPcSet (k pc : Nat) (s : State) : State := rfSet (oGroom k + 0x00C) 0 12 (pc % 4096) s

/-- A Groom stands at an instruction that it may execute; not while it is asked to go idle (R421). -/
def groomReady (s : State) (k : Nat) : Bool :=
  let g := groomOf s k
  groomRunBit s k && !asked s 1 k && g.active && !g.halted && g.gop.isNone && !g.loading

/-- A U instruction faults (R83). -/
def groomFault (k : Nat) (code : W16) (s : State) : State :=
  groomHalt k code (groomPc s k) (faultClass false code) s

/-- The static fault of a handle (R117): another holder first, then the index. -/
def groomHandleFault (k : Nat) (h : BitVec 16) (low : Nat) : Option W16 :=
  if handleHolder h ≠ k + 1 ∨ handleIndex h < low then some cFIELD_ILLEGAL
  else if 255 < handleIndex h then some cHANDLE_RANGE
  else none

/-- The static fault of a word at Groom `k` (R80, R83, R117, R254). -/
def groomStatic (k : Nat) (w : W128) : Except W16 NI :=
  match decodeNative .groom w with
  | .error c => .error c
  | .ok i =>
    match i.body with
    | .gwait h _ =>
      (match groomHandleFault k h 0 with
       | some c => .error c
       | none => .ok i.body)
    | .gsignal h =>
      (match groomHandleFault k h 128 with
       | some c => .error c
       | none => .ok i.body)
    | b => .ok b

/-! ### Coefficients (R257) -/

/-- Address of the coefficient table of a section. -/
def coefAddr (s : State) (k : Nat) : Nat :=
  bits (regGet s (oGroom k + 0x030)).toNat 10 22 * 1024 + rf s (oGroom k + 0x034) 0 16 * 2 ^ 32 +
    1024 * min (groomSection s k) ((regGet s (oGroom k + 0x038)).toNat - 1)

/-- 256 words of a table. -/
def coefPut (k : Nat) (ws : List W32) (s : State) : State :=
  groomMod k (fun g => { g with coef := tabSetMany 0 [] ((ws.zipIdx).map (fun e => (e.2, e.1))) }) s

/-- Groom `k` waits to load its coefficients, or no longer does. -/
def coefWait (k : Nat) (v : Bool) (s : State) : State := groomMod k (fun g => { g with loading := v }) s

/-- Read the coefficient table at an address of HBM (R238, R244, R257). -/
def coefRead (k a : Nat) (s : State) : State :=
  let entry := rf s (oGroom k + 0x010) 0 12
  if touchesTest s a 1024 then groomHalt k cSTATE_REFUSED entry .stop s
  else
    let r := readErrors a 1024 (regAdd64 (oGroom k + 0x070) 4 (hbmAccess a 1024 0 false s))
    match r.1 with
    | some c => groomHalt k c entry (classOf c) r.2
    | none =>
      let b := memRead r.2 a 1024
      coefPut k ((List.range 256).map (fun i => BitVec.ofNat 32 (leNat ((b.drop (4 * i)).take 4)))) r.2

/-- Load the coefficient table of the section count in force (R228, R244, R257). The load waits while a stack
that it reads is at HALT, and U waits for it. A table outside HBM has entries that nothing fixes (assumption
3). -/
def coefLoad (k : Nat) (s : State) : State :=
  if (regGet s (oGroom k + 0x038)).toNat = 0 then coefWait k false s
  else if hbmTop < coefAddr s k + 1024 then
    coefPut k ((List.range 256).map (fun i => Config.freeWord (s.free + i))) (coefWait k false { s with free := s.free + 256 })
  else if touchesHalt s (coefAddr s k) 1024 then coefWait k true s
  else coefRead k (coefAddr s k) (coefWait k false s)

/-! ### A step of the U program -/

/-- Run the instruction at a Groom's PC, where `mine` says that the word is the command's own. A word
whose opcode no Groom instruction has fails under every command of the class. -/
def groomStep (k : Nat) (mine : W128 → Bool) (body : NI → State → State) (s : State) : State :=
  let s := if (groomOf s k).loading ∧ (groomOf s k).active then coefLoad k s else s
  let w := groomWord s k
  if groomReady s k = false ∨ (opLegal .groom (fld w 120 8) = true ∧ mine w = false) then s
  else
    match groomStatic k w with
    | .error c => groomFault k c s
    | .ok b => body b s

/-- The word has an opcode. -/
abbrev isOp (op : Nat) (w : W128) : Bool := opOf w == op

/-- The next index. -/
def groomNext (k : Nat) (s : State) : State := groomPcSet k (groomPc s k + 1) s

/-! ### GWAIT, GSKIP, GSIGNAL, GEND -/

/-- GWAIT (R116, R254, R282). -/
def groomGwait (k : Nat) (s : State) : State :=
  groomStep k (isOp 0xC0) (fun b s =>
    match b with
    | .gwait h t =>
      let i := handleIndex h
      let v := tabGet gcntReset (groomOf s k).counts i
      (match v.poison with
       | some (.abandoned c) => groomHalt k cABANDONED (groomPc s k) c s
       | some .saturated => groomHalt k cABANDONED (groomPc s k) .stop s
       | none =>
         if v.n.toNat < t.toNat then s
         else
           groomNext k (groomMod k (fun g => { g with counts := tabSet gcntReset g.counts i { v with n := v.n - t } }) s))
    | _ => s) s

/-- The skip is noted (R255, R270). -/
def skipNote (k : Nat) (s : State) : State :=
  let s := regAdd (oGroom k + 0x050) 1 (raise (oGroom k + 0x060) 1 s)
  reg64Set (oGroom k + 0x054) (groomSection s k) s

/-- GSKIP (R28, R253, R255). -/
def groomGskip (k : Nat) (s : State) : State :=
  groomStep k (isOp 0xC1) (fun b s =>
    match b with
    | .gskip di =>
      let g := groomOf s k
      let d := tabGet descReset g.desc di.toNat
      let h := dCCOUNT d
      let i := handleIndex h
      if g.skipDone then groomFault k cSTATE_REFUSED s
      else
        (match descCheck d (decide (¬ (1 ≤ handleHolder h ∧ handleHolder h ≤ 8 ∧ i < 128))) 0 0 with
         | some c => groomFault k c s
         | none =>
           let v := tabGet gcntReset g.counts i
           let skip := dNF d || v.nf
           let g' : Groom := { g with
             desc := tabSet descReset g.desc di.toNat (dSet d 233 1 0),
             counts := tabSet gcntReset g.counts i { v with nf := false },
             skip := skip, skipDone := true }
           let s := groomSet k g' s
           groomNext k (if skip then skipNote k s else s))
    | _ => s) s

/-- GSIGNAL (R253, R254). -/
def groomGsignal (k : Nat) (s : State) : State :=
  groomStep k (isOp 0xC3) (fun b s =>
    match b with
    | .gsignal h =>
      if (groomOf s k).skipDone = false then groomFault k cSTATE_REFUSED s
      else groomNext k (gcntAdd (handleIndex h) false s k)
    | _ => s) s

/-- A Groom's state is frozen for a cut once it has reached GEND of the cut's section (R266). -/
def cutFreeze (k sec : Nat) (s : State) : State :=
  match s.ckpt.cut with
  | none => s
  | some c =>
    if c.step.toNat ≠ sec ∨ k ∈ c.frozen then s
    else
      let c' : Cut := { c with frozen := setAdd c.frozen k, groomDesc := tabSet [] c.groomDesc k (groomOf s k).desc }
      groomMod k (fun g => { g with cutWait := true }) { s with ckpt := { s.ckpt with cut := some c' } }

/-- GEND (R252, R266). -/
def groomGend (k : Nat) (s : State) : State :=
  groomStep k (isOp 0xC4) (fun _ s =>
    let sec := groomSection s k
    let s := reg64Set (oGroom k + 0x018) ((sec + 1) % 2 ^ 64) s
    let s := groomPcSet k (rf s (oGroom k + 0x010) 0 12) s
    let s := groomMod k (fun g => { g with skip := false, skipDone := false, ngop := 0 }) s
    coefLoad k (cutFreeze k sec s)) s

/-- CUT_STATE_READ (R266, R399): the cut has read a Groom's state. -/
def cutStateRead (k : Nat) (s : State) : State :=
  match s.ckpt.cut with
  | none => s
  | some c =>
    if k ∉ c.frozen then s
    else
      groomMod k (fun g => { g with cutWait := false })
        { s with ckpt := { s.ckpt with cut := some { c with read := setAdd c.read k } } }

/-! ### The start of a GOP -/

/-- The descriptors of a GOP's operands. -/
def gopDescs (g : Groom) (f : GopF) : List Dsc :=
  ([f.d0, f.d1, f.d2].take (gopOperands f.op.toNat)).map (fun i => tabGet descReset g.desc i.toNat)

/-- A GOP's range of a descriptor lies in HBM (R220, R250): R250's test takes the GOP's own blocks, ahead of
R117's range check, so a range past a tensor at the top of HBM gives COLOCATION (DEDUCED, assumption 90). -/
def gopInHbm (s : State) (d : Dsc) (first n : Nat) : Bool :=
  let a := dBASE d + first * 32768
  let m := dMETA d + 8 * first
  decide (a + n * 32768 ≤ hbmTop ∧ m + 8 * n ≤ hbmTop) && descWindowOk s none d first n

/-- The faults of a GOP before its blocks, in the order of R117. -/
def gopCheck (s : State) (k : Nat) (f : GopF) : Option W16 :=
  let g := groomOf s k
  let ds := gopDescs g f
  let op := f.op.toNat
  let d0 := ds.headD 0
  let first := f.first.toNat
  let n := f.nblk.toNat
  if ds.any (fun d => decide (dVALID d = 0)) then some cDESC_INVALID
  else if ds.any descBad || (ds.zipIdx).any (fun p => !gopFmtOk op p.2 (dFMT p.1)) ||
      decide (op = 6 ∧ ¬ (first = 0 ∧ n = dBlocks d0)) then some cDESC_MISMATCH
  else if ds.any (fun d => decide (dLAYOUT d ≠ dLAYOUT d0 ∨ dBASE d % 2 ^ 35 ≠ dBASE d0 % 2 ^ 35) ||
      !gopInHbm s d first n) then some cCOLOCATION
  else if ds.any (fun d => decide (dBlocks d < first + n)) then some cDESC_RANGE
  else if coefBad op f.coef.toNat (regGet s (oGroom k + 0x038)).toNat (tabGet 0 g.coef) then some cCOEF_ILLEGAL
  else if rf s (oHbm k + 0x008) 0 2 = 1 then some cSTATE_REFUSED
  else none

/-- A GOP ends at a Groom. -/
def gopEnd (k : Nat) (s : State) : State :=
  groomNext k (groomMod k (fun g => { g with gop := none, ngop := g.ngop + 1 }) s)

/-- Begin a GOP (R117, R253, R265, R266). -/
def gopBegin (k : Nat) (f : GopF) (s : State) : State :=
  let g := groomOf s k
  if g.skipDone = false then groomFault k cSTATE_REFUSED s
  else if g.skip then gopEnd k s
  else if g.cutWait then s
  else
    match gopCheck s k f with
    | some c => groomFault k c s
    | none =>
      let ds := gopDescs g f
      groomMod k (fun g => { g with gop := some ⟨f, ds.getD 0 0, ds.getD 1 0, ds.getD 2 0, false, none⟩ }) s

/-- A GOP of one OP; a reserved OP fails under every GOP command. -/
def groomGop (op k : Nat) (s : State) : State :=
  groomStep k (fun w => opOf w == 0xC2 && (fld w 90 6 == BitVec.ofNat 6 op || fld w 90 6 == 0 || decide (7 < (fld w 90 6).toNat)))
    (fun b s =>
      match b with
      | .gop f => gopBegin k f s
      | _ => s) s

/-! ### The exchange (R262 to R264) -/

/-- The key of a block in exchange: section, GOP of the section, block. -/
def exchKey (s : State) (k b : Nat) : Nat := (groomSection s k * 4096 + (groomOf s k).ngop) * 2 ^ 19 + b

/-- What is held of a block in exchange. -/
def exchOf (s : State) (key : Nat) : Option Exch := tabGet none s.exch key
/-- Replace it. -/
def exchPut (key : Nat) (e : Exch) (s : State) : State := { s with exch := tabSet none s.exch key (some e) }

/-- Address of a block of an operand. -/
def blkAddr (d : Dsc) (b : Nat) : Nat := dBASE d + b * 32768

/-- Grains of a block that lie in a stack, by number. -/
def grainsAt (d0 : Dsc) (b k : Nat) : List Nat :=
  (List.range 128).filter (fun j => stackOf (blkAddr d0 b + 256 * j) == k)

/-- The Grooms that hold grains of a block (R262). -/
def holdersOf (d0 : Dsc) (b : Nat) : List Nat := (List.range 8).filter (fun k => grainsAt d0 b k != [])

/-- The keeper of a block (R262). -/
def keeperOf (d0 : Dsc) (b : Nat) : Nat := stackOf (dMETA d0 + 8 * b)

/-- The operands a GOP reads, with their numbers: all but D0 of a CAST. -/
def gopReads (st : GopSt) : List (Nat × Dsc) :=
  let ds := (([st.d0, st.d1, st.d2].take (gopOperands st.f.op.toNat)).zipIdx).map (fun p => (p.2, p.1))
  if st.f.op.toNat = 7 then ds.drop 1 else ds

/-- A gradient operand: BF16, of MOM1, MOM2 or SGD (R262). -/
def isGrad (st : GopSt) (p : Nat × Dsc) : Bool :=
  decide (p.1 = 1 ∧ dFMT p.2 = fBF16 ∧ st.f.op.toNat ∈ [1, 2, 5])

/-- A holder's partial of an operand over grains and their bytes (R235, R262). -/
def partialOf (lo : Nat) (gs : List (Nat × List Byte)) : W32 :=
  gs.foldl (fun c g => c ^^^ grainCheck g.2 g.1 lo) 0

/-- A BF16 element among these bytes is an infinity or a NaN. -/
def gradBad (l : List Byte) : Bool := (elems fBF16 l).any (fun c => c / 128 % 256 == 255)

/-- Accesses of a Groom to grains of its stack, counted (R228, R270). -/
def groomAccess (k : Nat) (write : Bool) (as : List Nat) (s : State) : State :=
  let s := as.foldl (fun s a => cacheAccess a 0 write s) s
  regAdd64 (oGroom k + (if write then 0x078 else 0x070)) as.length s

/-- The errors that a Groom's reads of grains meet: whether one is uncorrectable, and the reports (R238). -/
def grainErrorsAt (as : List Nat) (s : State) : Bool × State :=
  as.foldl (fun (r : Bool × State) a =>
    let x := readErrors a 256 r.2
    (r.1 || x.1.isSome, x.2)) (false, s)

/-- The operands whose metadata words the keeper reads: those it checks, and gradients (R262). -/
def wordsRead (st : GopSt) : List (Nat × Dsc) :=
  (gopReads st).filter (fun p => decide (dCSUM p.2 = 1) || isGrad st p)

/-- The keeper reads the metadata words of a block: whether one is uncorrectable, and the reports (R228,
R238). -/
def keeperReads (st : GopSt) (b : Nat) (s : State) : Bool × State :=
  (wordsRead st).foldl (fun (r : Bool × State) p =>
    let x := readErrors (dMETA p.2 + 8 * b) 8 (metaAccess p.2 b 1 0 false r.2)
    (r.1 || x.1.isSome, x.2)) (false, s)

/-- The verdict of a block whose holders have all reported, in the precedence of R262. -/
def verdictOf (s : State) (st : GopSt) (e : Exch) (metaUe : Bool) (b : Nat) : W16 :=
  let reads := gopReads st
  let parts := [e.part0, e.part1, e.part2]
  if e.ue || metaUe then cHBM_UE
  else if reads.any (fun p => decide (dCSUM p.2 = 1 ∧ parts.getD p.1 0 ≠ mCheck (metaRead s p.2 b))) then cCSUM_FAIL
  else if e.nf || reads.any (fun p => isGrad st p && mNf (metaRead s p.2 b)) then cGRAD_NONFINITE
  else cOK

/-- A Groom takes part in a block's exchange with the others that hold the same GOP. -/
def sameGop (st : GopSt) (e : Exch) : Bool :=
  decide (e.f = st.f ∧ e.d0 = st.d0 ∧ e.d1 = st.d1 ∧ e.d2 = st.d2)

/-- Every verdict of the blocks of a GOP from `first` on, `n` of them, has passed. A verdict on another GOP is
none of this one: its Groom waits for partners that never arrive (R251). -/
def passedAll (s : State) (st : GopSt) (key first n : Nat) : Bool :=
  (List.range n).all (fun i => (exchOf s (key + first + i)).any (fun (e : Exch) => sameGop st e && e.verdict == some cOK))

/-- The bytes of a grain of an operand as a GOP has read them (R262, R269). -/
def heldGrain (s : State) (key i j : Nat) : List Byte :=
  tabGet [] (((exchOf s key).map (fun (e : Exch) => e.held)).getD []) (128 * i + j)

/-- The greatest magnitude of a tensor's AX16 elements, as a code without sign (R261). -/
def topCode (s : State) (key n : Nat) : Nat :=
  (List.range n).foldl (fun m b => (List.range 128).foldl (fun m j =>
    (elems fAX16 (heldGrain s (key + b) 0 j)).foldl (fun m c => max m (c % 32768)) m) m) 0

/-- The anchor after a REANCHOR (R261). -/
def newAnchor (s : State) (key : Nat) (d : Dsc) (n : Nat) : Int :=
  let top := gopVal fAX16 (dANCHOR d) (topCode s key n)
  if top.m = 0 then dANCHOR d else max (-128) (min 127 (dyBinade top + 1))

/-- Once every block of a REANCHOR has passed, its new anchor is known to every Groom (R261). -/
def reanchorKnown (key : Nat) (st : GopSt) (s : State) : State :=
  if st.f.op.toNat = 6 ∧ passedAll s st key 0 st.f.nblk.toNat then
    let a := newAnchor s key st.d0 st.f.nblk.toNat
    (List.range 8).foldl (fun s k => groomMod k (fun g =>
      { g with gop := g.gop.map (fun (x : GopSt) => { x with anchor := some a }) }) s) s
  else s

/-- Groom `k` executes the GOP that Groom `h` executes, with the same descriptors (R251). -/
def partner (s : State) (h k : Nat) (st : GopSt) : Bool :=
  decide (exchKey s k 0 = exchKey s h 0) &&
    (groomOf s k).gop.any (fun (x : GopSt) => decide (x.f = st.f ∧ x.d0 = st.d0 ∧ x.d1 = st.d1 ∧ x.d2 = st.d2))

/-- The keeper forms a block's verdict once every holder has reported (R251, R262): it waits until the
keeper's Groom executes the GOP too, and while its stack is at HALT (R243). -/
def verdictTry (h b : Nat) (st : GopSt) (s : State) : State :=
  let key := exchKey s h b
  let k := keeperOf st.d0 b
  match exchOf s key with
  | none => s
  | some e =>
    if e.verdict.isSome = true ∨ (holdersOf st.d0 b).any (fun x => decide (x ∉ e.from_)) = true ∨
        partner s h k st = false ∨ atHalt s k = true then s
    else
      let r := keeperReads st b s
      reanchorKnown (exchKey s h 0) st (exchPut key { e with verdict := some (verdictOf r.2 st e r.1 b) } r.2)

/-- The holder's report of a block (R262): it reads its grains once, and the GOP goes on with the bytes read
here (R269). -/
def partialTake (h b : Nat) (st : GopSt) (e : Exch) (s : State) : State :=
  let js := grainsAt st.d0 b h
  let reads := gopReads st
  let got (p : Nat × Dsc) : List (Nat × List Byte) := js.map (fun j => (j, memRead s (blkAddr p.2 b + 256 * j) 256))
  let addrs := reads.flatMap (fun p => js.map (fun j => blkAddr p.2 b + 256 * j))
  let part (i : Nat) : W32 :=
    match reads.find? (fun p => decide (p.1 = i ∧ dCSUM p.2 = 1)) with
    | some p => partialOf (metaLo (metaRead s p.2 b)) (got p)
    | none => 0
  let r := grainErrorsAt addrs (groomAccess h false addrs s)
  let e' : Exch := { e with
    from_ := setAdd e.from_ h, part0 := e.part0 ^^^ part 0, part1 := e.part1 ^^^ part 1,
    part2 := e.part2 ^^^ part 2, ue := e.ue || r.1,
    nf := e.nf || reads.any (fun p => isGrad st p && (got p).any (fun g => gradBad g.2)),
    held := reads.foldl (fun t p => (got p).foldl (fun t g => tabSet [] t (128 * p.1 + g.1) g.2) t) e.held }
  verdictTry h b st (exchPut (exchKey s h b) e' r.2)

/-- GROOM_PARTIAL_MSG (R262): holder `h` reports a block of its GOP; at HALT it waits (R243). -/
def groomPartialMsg (h b : Nat) (s : State) : State :=
  match (groomOf s h).gop with
  | none => s
  | some st =>
    let e := (exchOf s (exchKey s h b)).getD ⟨st.f, st.d0, st.d1, st.d2, [], 0, 0, 0, false, false, [], none, [], false⟩
    if b < st.f.first.toNat ∨ st.f.first.toNat + st.f.nblk.toNat ≤ b ∨ h ∉ holdersOf st.d0 b ∨
        (st.f.op.toNat = 6 ∧ st.agreed = false) ∨ sameGop st e = false ∨ h ∈ e.from_ ∨ atHalt s h = true then s
    else partialTake h b st e s

/-- A grain after a GOP, from the bytes that the holder has read: bytes, and whether an element saturated
(R258, R259, R261). -/
def grainAfter (s : State) (k : Nat) (st : GopSt) (b j : Nat) : List Byte × Bool :=
  let g := groomOf s k
  let op := st.f.op.toNat
  let codes (i : Nat) : List Nat := elems fBF16 (heldGrain s (exchKey s k b) i j)
  let x0 := codes 0
  let x1 := codes 1
  let x2 := codes 2
  let cs := (List.range (coefCount op)).map (fun i =>
    (decodeB32 (tabGet 0 g.coef (st.f.coef.toNat + i)).toNat).getD dyZero)
  let sec := BitVec.ofNat 64 (groomSection s k)
  let res := (List.range 128).map (fun t =>
    let d16 := draw16 s.job.seed sec ((dTENSOR st.d0).setWidth 64) (BitVec.ofNat 64 (b * 16384 + j * 128 + t))
    if op = 6 then reanchorElem (dANCHOR st.d0) (st.anchor.getD (dANCHOR st.d0)) (x0.getD t 0)
    else gopElem op (dFMT st.d0, dFMT st.d1, dFMT st.d2) (dANCHOR st.d0, dANCHOR st.d1, dANCHOR st.d2) cs d16
      (x0.getD t 0) (x1.getD t 0) (x2.getD t 0))
  (unelems fBF16 (res.map (fun r => r.1)), res.any (fun r => r.2))

/-- The GOP writes nothing: a REANCHOR that keeps its anchor (R261). -/
def gopStill (st : GopSt) : Bool := decide (st.f.op.toNat = 6 ∧ st.anchor = some (dANCHOR st.d0))

/-- The keeper writes a block's metadata once every holder has written (R263). -/
def keeperWrite (st : GopSt) (b : Nat) (sat : Bool) (s : State) : State :=
  let d := st.d0
  let lo := metaLo (metaWord (dTAG d) sat false (dFMT d) 0)
  let check : W32 := if dCSUM d = 1 then checkOf (memRead s (blkAddr d b) 32768) lo else 0
  let s := metaWrite d b 0 (metaWord (dTAG d) sat false (dFMT d) check) s
  if sat then raise (oGroom (keeperOf d b) + 0x060) 2 s else s

/-- Groom `k` writes its grains of a block (R262, R263). -/
def holderWrite (k b : Nat) (st : GopSt) (e : Exch) (s : State) : State :=
  let key := exchKey s k b
  let js := grainsAt st.d0 b k
  let still := gopStill st
  let outs := if still then [] else js.map (fun j => (j, grainAfter s k st b j))
  let s := outs.foldl (fun s o => memWrite (blkAddr st.d0 b + 256 * o.1) o.2.1 s) s
  let s := groomAccess k true (outs.map (fun o => blkAddr st.d0 b + 256 * o.1)) s
  let e' : Exch := { e with wrote := setAdd e.wrote k, sat := e.sat || outs.any (fun o => o.2.2) }
  let s := exchPut key e' s
  if still = false ∧ partner s k (keeperOf st.d0 b) st = true ∧
      (holdersOf st.d0 b).all (fun x => decide (x ∈ e'.wrote)) = true then keeperWrite st b e'.sat s else s

/-- Drop the exchanges that no Groom can come back to: one that is stopped, but not halted, has still to learn
the verdicts from its place on (R264). -/
def exchClean (s : State) : State :=
  let live := (List.range 8).filter (fun k => !(groomOf s k).halted)
  let low := live.foldl (fun m k => min m (exchKey s k 0)) (2 ^ 200)
  { s with exch := s.exch.filter (fun e => decide (low ≤ e.1)) }

/-- The part of Groom `k` in the blocks of a GOP from `first` on, `n` of them, is done: it has written its
grains, and every holder has written the blocks that it keeps (R262 to R264). -/
def partDone (s : State) (k : Nat) (st : GopSt) (n : Nat) : Bool :=
  (List.range n).all (fun i =>
    let b := st.f.first.toNat + i
    let wrote := ((exchOf s (exchKey s k b)).map (fun (e : Exch) => e.wrote)).getD []
    (decide (k ∉ holdersOf st.d0 b) || decide (k ∈ wrote)) &&
      (decide (keeperOf st.d0 b ≠ k) || (holdersOf st.d0 b).all (fun h => decide (h ∈ wrote))))

/-- GROOM_VERDICT_MSG (R262, R264): Groom `k` learns the verdict of a block. It acts on a failing one once the
blocks before it are written, but for a REANCHOR, which has written none. -/
def groomVerdictMsg (k b : Nat) (s : State) : State :=
  match (groomOf s k).gop with
  | none => s
  | some st =>
    let first := st.f.first.toNat
    if b < first ∨ first + st.f.nblk.toNat ≤ b then s
    else
      let s := verdictTry k b st s
      match exchOf s (exchKey s k b) with
      | none => s
      | some e =>
        match e.verdict with
        | none => s
        | some v =>
          let anchor := ((groomOf s k).gop.map (fun (x : GopSt) => x.anchor)).getD none
          if sameGop st e = false ∨ passedAll s st (exchKey s k 0) first (b - first) = false then s
          else if v ≠ cOK then
            (if st.f.op.toNat = 6 ∨ partDone s k st (b - first) then exchClean (groomFault k v s) else s)
          else if k ∉ holdersOf st.d0 b ∨ k ∈ e.wrote ∨ (st.f.op.toNat = 6 ∧ anchor = none) ∨
              atHalt s k = true ∨ atHalt s (keeperOf st.d0 b) = true then s
          else holderWrite k b { st with anchor := anchor } e s

/-- REANCHOR_AGREE (R261): every Groom has reached a REANCHOR that names the same index. -/
def reanchorAgree (s : State) : State :=
  let st (k : Nat) : Option GopSt := (groomOf s k).gop
  let at0 := st 0
  let ready : Bool := (List.range 8).all (fun k => (st k).any (fun (x : GopSt) =>
    decide (x.f.op.toNat = 6 ∧ x.agreed = false ∧ some x.f.d0 = at0.map (fun (y : GopSt) => y.f.d0))))
  if ready = false then s
  else
    let key (k : Nat) : Option (Nat × Int) := (st k).map (fun (x : GopSt) => (dBASE x.d0, dANCHOR x.d0))
    if (List.range 8).all (fun k => decide (key k = key 0)) then
      (List.range 8).foldl (fun s k => groomMod k (fun g =>
        { g with gop := g.gop.map (fun (x : GopSt) => { x with agreed := true }) }) s) s
    else (List.range 8).foldl (fun s k => groomFault k cANCHOR_SPLIT s) s

/-- Groom `k` has done all of its part of a GOP: every verdict has passed, its own grains are written,
and the blocks it keeps are written by every holder (R262, R263). -/
def gopFinished (s : State) (k : Nat) (st : GopSt) : Bool :=
  passedAll s st (exchKey s k 0) st.f.first.toNat st.f.nblk.toNat && partDone s k st st.f.nblk.toNat

/-- GOP_DONE (R261, R267). -/
def gopDone (k : Nat) (s : State) : State :=
  match (groomOf s k).gop with
  | none => s
  | some st =>
    if gopFinished s k st = false then s
    else
      let s :=
        if st.f.op.toNat = 6 ∧ gopStill st = false then
          raise (oGroom k + 0x060) 3 (groomMod k (fun g => { g with
            desc := tabSet descReset g.desc st.f.d0.toNat
              (dSet (tabGet descReset g.desc st.f.d0.toNat) 200 8 (ofSigned 8 (st.anchor.getD 0))) }) s)
        else s
      exchClean (gopEnd k s)

/-! ### RUN, counts, the watchdog -/

/-- A write of GROOM_CTRL.RUN (R257, R270). -/
def groomRunSet (k : Nat) (v : Bool) (s : State) : State :=
  let cur := groomRunBit s k
  let s := rfSet (oGroom k + 0x004) 0 1 (b2n v) s
  if v && !cur then coefLoad k (groomMod k (fun g => { g with active := true, halted := false }) s) else s

/-- GROOM_RUN. -/
def groomRun (k : Nat) (v : Bool) (s : State) : State :=
  hostWrite (oGroom k + 0x004) 0 1 (b2n v) (fun s =>
    if restRefuses s (groomRunBit s k) v then refuse (.write .bar0 (oGroom k + 0x004) (b2n v)) .groom k s
    else groomRunSet k v s) s

/-- GROOM_STOPPED (R270): a Groom whose RUN is 0 reaches its boundary. -/
def groomStopped (k : Nat) (s : State) : State :=
  let g := groomOf s k
  if groomRunBit s k ∨ g.active = false ∨ g.gop.isSome then s
  else groomMod k (fun g => { g with active := false, loading := false }) (countOn (oGroom k + 0x080) s)

/-- Every count, NF bit and poison bit of a Groom goes to zero (R254, R282). -/
def countsZero (k : Nat) (s : State) : State := groomMod k (fun g => { g with counts := [] }) s

/-- GROOM_ZERO_COUNTS (R270). -/
def groomZeroCounts (k : Nat) (s : State) : State :=
  hostAct (oGroom k + 0x004) 1
    (fun s => if groomRunBit s k then refuse (.write .bar0 (oGroom k + 0x004) 2) .groom k s else countsZero k s) s

/-- A Groom is held on a GWAIT. -/
def gwaitHeld (s : State) (k : Nat) : Bool :=
  groomReady s k &&
    (match groomStatic k (groomWord s k) with
     | .ok (.gwait h t) =>
       let v := tabGet gcntReset (groomOf s k).counts (handleIndex h)
       v.poison.isNone && decide (v.n.toNat < t.toNat)
     | _ => false)

/-- Groom `k` can go on with a block of its GOP: it has grains to report, or a verdict to act on. Where the
block's exchange is of another GOP it can not (R251). -/
def blockOpen (s : State) (k : Nat) (st : GopSt) (b : Nat) : Bool :=
  let e := exchOf s (exchKey s k b)
  e.all (fun (x : Exch) => sameGop st x) && blockNext s k st b e
where
  /-- What it can do with the block's exchange. -/
  blockNext (s : State) (k : Nat) (st : GopSt) (b : Nat) (e : Option Exch) : Bool :=
  let holder : Bool := decide (k ∈ holdersOf st.d0 b)
  let first := st.f.first.toNat
  let seen : Bool := passedAll s st (exchKey s k 0) first (b - first)
  (holder && e.all (fun (x : Exch) => decide (k ∉ x.from_)) && (decide (st.f.op.toNat ≠ 6) || st.agreed)) ||
    e.any (fun (x : Exch) => match x.verdict with
      | none => false
      | some v => seen && (if v = cOK then holder && decide (k ∉ x.wrote) && (decide (st.f.op.toNat ≠ 6) || st.anchor.isSome)
          else decide (st.f.op.toNat = 6) || partDone s k st (b - first)))

/-- A Groom waits for its partners: its GOP is not finished, and it can go on with no block. -/
def exchHeld (s : State) (k : Nat) : Bool :=
  (groomOf s k).gop.any (fun (st : GopSt) => !gopFinished s k st &&
    (List.range st.f.nblk.toNat).all (fun i => !blockOpen s k st (st.f.first.toNat + i)))

/-- A Groom waits at a GOP for a cut to read its state (R266). -/
def cutHeld (s : State) (k : Nat) : Bool :=
  let g := groomOf s k
  g.cutWait && groomReady s k && g.skipDone && !g.skip && isOp 0xC2 (groomWord s k)

/-- GROOM_HANG (R268): it keeps waiting. -/
def groomHang (k : Nat) (w : GroomWait) (s : State) : State :=
  let held : Bool := match w with
    | .gwait => gwaitHeld s k
    | .exchange => exchHeld s k
  if held ∧ rf s (oGroom k + 0x03C) 0 20 ≠ 0 then
    raise (oGroom k + 0x060) 4 (record cSTREAM_HANG .groom k .report (.num (groomPc s k)) s)
  else s

/-- GROOM_STAT.STATE (R270). -/
def groomStateNum (s : State) (k : Nat) : Nat :=
  let g := groomOf s k
  if g.halted then 3
  else if g.active = false then 0
  else if gwaitHeld s k || exchHeld s k || cutHeld s k || g.loading then 2
  else 1

end Sys2Proof.Machine
end

