-- ==== Sys2Proof/Machine/MemoryOps.lean ====
section
/-!
DEFINITION. The commands of the Lofts and the HBM stacks (R226, R227, R238 to R248, R382).
-/
namespace Sys2Proof.Machine

/-- The conditions of R227: no core runs and every Groom is stopped. -/
def allStopped (s : State) : Bool := !anyRun s && (List.range 8).all (fun k => !(groomOf s k).active)

/-! ### Cache partitions -/

/-- Set what a die's partition does, with BUSY (R248). -/
def loftSet (d : Nat) (v : LoftOp) (s : State) : State :=
  rfSet (oDie d + 0x008) 8 1 (if v = .idle then 0 else 1)
    { s with mem := { s.mem with loft := tabSet .idle s.mem.loft d v } }

/-- A partition write is refused (R227, R248, R382). -/
def loftRefused (s : State) (d v : Nat) : Bool := decide (16 < v) || !allStopped s || collBlocks s d v

/-- A write of DIE_LOFT_PART: one that repeats the present value is not refused (R461), and changes
nothing where R227 does not accept it. -/
def loftChange (d v : Nat) (s : State) : State :=
  if loftRefused s d v then (if v = rf s (oDie d + 0x004) 0 5 then s else refuse (.write .bar0 (oDie d + 0x004) v) .die d s)
  else loftSet d (.change v) (rfSet (oDie d + 0x004) 0 5 v s)

/-- LOFT_PARTITION_CHANGE. -/
def loftPartitionChange (d v : Nat) (s : State) : State := hostWrite (oDie d + 0x004) 0 5 v (loftChange d v) s

/-- LOFT_PARTITION_DONE (R227): dirty lines are written back, the partition is invalidated, the new size
takes effect, and added scratch reads zero; the arrivals that waited go on. The write-back waits while the
stack is at HALT (R233). -/
def loftPartitionDone (d : Nat) (s : State) : State :=
  match loftOf s d with
  | .change v =>
    if atHalt s d then s
    else
    let old := cacheNow s d
    let s := cacheClean d false s
    let s := rfSet (oDie d + 0x008) 0 5 v s
    let s := if v < old then memZero (loftBase d + loftSize - old * 0x800_0000) ((old - v) * 0x800_0000) s else s
    arrivalsGo (loftSet d .idle s)
  | _ => s

/-- A write of DIE_LOFT_FLUSH. -/
def loftFlushDo (d : Nat) (s : State) : State := if loftOf s d = .idle then loftSet d .flush s else s

/-- LOFT_FLUSH (R248). -/
def loftFlush (d : Nat) (s : State) : State := hostAct (oDie d + 0x00C) 0 (loftFlushDo d) s

/-- LOFT_FLUSH_DONE: the dirty lines are written back and stay valid; this waits while the stack is at HALT
(R233). -/
def loftFlushDone (d : Nat) (s : State) : State :=
  if loftOf s d = .flush ∧ atHalt s d = false then loftSet d .idle (cacheClean d true s) else s

/-! ### Stacks -/

/-- A write of HBM_CTRL.MODE is refused (R244, R247). -/
def hbmModeRefused (s : State) (k mode : Nat) : Bool :=
  decide (1 < mode) || (decide (mode = 1 ∧ rf s (oHbm k + 0x008) 0 2 ≠ 1) && !allStopped s)

/-- The mode of a stack takes effect at once. -/
def hbmModeSet (k mode : Nat) (s : State) : State :=
  rfSet (oHbm k + 0x008) 0 2 mode (rfSet (oHbm k + 0x004) 0 2 mode s)

/-- HBM_MODE_WRITE. -/
def hbmModeWrite (k mode : Nat) (s : State) : State :=
  hostWrite (oHbm k + 0x004) 0 2 mode
    (fun s => if hbmModeRefused s k mode then refuse (.write .bar0 (oHbm k + 0x004) mode) .hbm k s else hbmModeSet k mode s) s

/-- The global number of a stack's sector: eight to a grain, grains of a pseudo-channel in order of u. -/
def sectorOf (k i : Nat) : Nat :=
  hbmAddr k (i / 8 / 5242880 % 64) (i / 8 % 5242880) / 32 + i % 8

/-- Bits of memory flip (R221, R238). The on-die code of a stack corrects beneath the base die and reports to
HBM_EVENT alone. -/
def upsetDo (u : Upset) (s : State) : State :=
  let m := s.mem
  let word (x : Nat) : State := match u.find with
    | .clean => s
    | .corrected => { s with mem := { m with softSram := setAdd m.softSram x } }
    | .uncorrectable => { s with mem := { m with softSram := setDel m.softSram x, badSram := setAdd m.badSram x } }
  match u.place with
  | .hbm k i =>
    if 64 * 5242880 * 8 ≤ i then s
    else
      let x := sectorOf k i
      (match u.find with
       | .clean => raise (oHbm k + 0x020) 0 s
       | .corrected => { s with mem := { m with softHbm := setAdd m.softHbm x } }
       | .uncorrectable => { s with mem := { m with softHbm := setDel m.softHbm x, badHbm := setAdd m.badHbm x } })
  | .loft d w => if loftSize / 8 ≤ w then s else word (loftBase d / 8 + w)
  | .manger n w => if mangerSize / 8 ≤ w then s else word (mangerBase n / 8 + w)

/-- A scrub read of an HBM sector (R228, R238, R239, R389). Every sector of the stack is read and corrected, also
under a line of the cache, whose tags the access consults like any other (DEDUCED, assumption 88). -/
def scrubHbm (x : Nat) (s : State) : State :=
  let t := if cached s (x * 32) then regAdd64 (oHbm (stackOf (x * 32)) + 0x040) 1 s else s
  let t := cacheAccess (x * 32) 0 false t
  if x ∈ t.mem.badHbm then riskAdd 16384 (hbmUe x t) else if x ∈ t.mem.softHbm then hbmCe x t else t

/-- A scrub read of a word of a Loft (R221, R239, R389): a corrected word is written back corrected, and an
uncorrectable one is left faulting. -/
def scrubLoft (x : Nat) (s : State) : State :=
  if x ∈ s.mem.badSram then sramUe x s
  else if x ∈ s.mem.softSram then sramCe x { s with mem := { s.mem with softSram := setDel s.mem.softSram x } }
  else s

/-- PATROL_SCRUB (R233, R239, R244): it pauses while the stack's SCRUB_EN is 0, the stack is in TEST or it is
at HALT. A Loft has no enable and no period, so its scrub never pauses (the spec gives none: DESIGN CHOICE,
assumption 100). `upsets` are the bits of memory that have flipped since the last one. -/
def patrolScrub (t : ScrubTarget) (upsets : List Upset) (s : State) : State :=
  let s := upsets.foldl (fun s u => upsetDo u s) s
  match t with
  | .hbm k i =>
    if rf s (oHbm k + 0x004) 2 1 = 0 ∨ inTest s k = true ∨ atHalt s k = true ∨ 64 * 5242880 * 8 ≤ i then s
    else scrubHbm (sectorOf k i) s
  | .loft d w => if loftSize / 8 ≤ w then s else scrubLoft (loftBase d / 8 + w) s

/-- The threshold of a thermal level of a stack (R242, R247). -/
def thermLimit (s : State) (k : Nat) : Nat → Nat
  | 0 => 0
  | 1 => rf s (oHbm k + 0x014) 0 8
  | 2 => rf s (oHbm k + 0x014) 8 8
  | _ => rf s (oHbm k + 0x014) 16 8

/-- The thermal level after a reading: a level holds until the temperature falls 5 °C below its
threshold (R242). -/
def thermLevel (s : State) (k old t : Nat) : Nat :=
  [1, 2, 3].foldl (fun l v =>
    if thermLimit s k v ≤ t ∨ (v ≤ old ∧ thermLimit s k v < t + 5) then v else l) 0

/-- Report the levels that a reading has reached (R242). -/
def thermReport (k old new : Nat) (s : State) : State :=
  let s := [1, 2, 3].foldl (fun s v => if old < v ∧ v ≤ new then raise (oHbm k + 0x020) (v + 1) s else s) s
  if old < 2 ∧ 2 ≤ new then raise (oDie k + 0x010) 2 s else s

/-- HBM_TEMP_SAMPLE (R242, R243): the cycles spent slowed go to their counts; arrivals that waited for a stack at HALT go on when it leaves that level. -/
def hbmTempSample (k t : Nat) (s : State) : State :=
  let o := oHbm k + 0x010
  let old := rf s (oHbm k + 0x008) 3 2
  let s := countOn (oDie k + 0x050) (countOn (oHbm k + 0x050) s)
  let s := rfSet o 8 8 (max (rf s o 8 8) t) (rfSet o 0 8 t s)
  let new := thermLevel s k old t
  let s := thermReport k old new (rfSet (oHbm k + 0x008) 3 2 new s)
  if old = 3 ∧ new < 3 then arrivalsGo s else s

/-- HBM_HALT_TIMEOUT (R242, R410): a HALT of 100 ms becomes a thermal trip. -/
def hbmHaltTimeout (k : Nat) (s : State) : State := if rf s (oHbm k + 0x008) 3 2 = 3 then resetEdge 4 s else s

/-- PEAK takes NOW (R247). -/
def hbmPeakSet (k : Nat) (s : State) : State := rfSet (oHbm k + 0x010) 8 8 (rf s (oHbm k + 0x010) 0 8) s

/-- HBM_TEMP_PEAK_CLR. -/
def hbmTempPeakClr (k : Nat) (s : State) : State := hostAct (oHbm k + 0x010) 31 (hbmPeakSet k) s

/-! ### The traffic generators (R244, R245, R247) -/

/-- A pseudo-channel's generator. -/
def tgOf (s : State) (k pc : Nat) : TrafGen := tabGet tgReset s.mem.tg (k * 64 + pc)
/-- Replace a generator. -/
def tgSet (k pc : Nat) (g : TrafGen) (s : State) : State :=
  { s with mem := { s.mem with tg := tabSet tgReset s.mem.tg (k * 64 + pc) g } }
/-- The pseudo-channel that HBM_TG_SEL shows. -/
def tgSel (s : State) (k : Nat) : Nat := rf s (oHbm k + 0x100) 0 6

/-- A START is refused (R244). -/
def tgRefused (s : State) (k : Nat) (g : TrafGen) : Bool :=
  decide (rf s (oHbm k + 0x008) 0 2 ≠ 1 ∨ 5242880 < g.base.toNat + g.len.toNat ∨ g.seed = 0 ∨ 4 < g.pattern ∨ g.op = 3)

/-- START: a run begins, its reports clear. -/
def tgStart (k : Nat) (s : State) : State :=
  let g := tgOf s k (tgSel s k)
  if tgRefused s k g then refuse (.write .bar0 (oHbm k + 0x104) 1) .hbm k s
  else
    tgSet k (tgSel s k) { g with busy := true, stopping := false, done := false, fail := false, passes := 0, errs := 0, failGrain := 0, failXor := 0 } s

/-- STOP: the run ends after the grain in progress. -/
def tgStop (k : Nat) (s : State) : State :=
  let g := tgOf s k (tgSel s k)
  if g.busy then tgSet k (tgSel s k) { g with stopping := true } s else s

/-- HBM_TG_START. -/
def hbmTgStart (k : Nat) (s : State) : State := hostAct (oHbm k + 0x104) 0 (tgStart k) s
/-- HBM_TG_STOP. -/
def hbmTgStop (k : Nat) (s : State) : State := hostAct (oHbm k + 0x104) 1 (tgStop k) s

/-- One bit of PRBS31: the state after, and the bit (R245). -/
def prbsBit (st : Nat) : Nat × Nat :=
  let b := bits st 30 1 ^^^ bits st 27 1
  ((st * 2 + b) % 2 ^ 31, b)

/-- `n` successive bits of PRBS31, the first lowest: the state after, and the number. -/
def prbsBits : Nat → Nat → Nat × Nat
  | 0, st => (st, 0)
  | n + 1, st =>
    let r := prbsBit st
    let t := prbsBits n r.1
    (t.1, r.2 + 2 * t.2)

/-- One grain of PRBS31: the state after, and its 64 words (R245). -/
def prbsGrain (st : Nat) : Nat × List Nat :=
  (List.range 64).foldl (fun (p : Nat × List Nat) _ =>
    let r := prbsBits 32 p.1
    (r.1, p.2 ++ [r.2])) (st, [])

/-- The words of a grain (R245): the state of the sequence after, and 64 words. -/
def tgGrain (pattern u st : Nat) : Nat × List Nat :=
  match pattern with
  | 0 => prbsGrain st
  | 1 => (st, (List.range 64).map (fun w => u * 256 + 4 * w))
  | 2 => (st, (List.range 64).map (fun w => 2 ^ (w % 32)))
  | 3 => (st, List.replicate 64 0)
  | _ => (st, List.replicate 64 0xFFFFFFFF)

/-- Write the grains of a pass. -/
def tgWrite (k pc : Nat) (g : TrafGen) (n : Nat) (s : State) : State :=
  ((List.range n).foldl (fun (p : Nat × State) i =>
    let u := g.base.toNat + i
    let r := tgGrain g.pattern u p.1
    (r.1, memWrite (hbmAddr k pc u) (r.2.flatMap (fun w => leBytes 4 w)) (regAdd64 (oHbm k + 0x048) 1 p.2)))
    (g.seed.toNat, s)).2

/-- Check one grain against its words. -/
def tgCheckGrain (k pc u : Nat) (ws : List Nat) (s : State) : State :=
  let a := hbmAddr k pc u
  let s := regAdd64 (oHbm k + 0x040) 1 s
  let s := (readErrors a 256 s).2
  let got := (List.range 64).map (fun w => leNat (memRead s (a + 4 * w) 4))
  let bad := (ws.zip got).filter (fun p => decide (p.1 ≠ p.2))
  match bad with
  | [] => s
  | p :: _ =>
    let g := tgOf s k pc
    let g' : TrafGen := { g with errs := g.errs + BitVec.ofNat 32 bad.length }
    let first : TrafGen := { g' with fail := true, failGrain := BitVec.ofNat 32 u, failXor := BitVec.ofNat 32 (p.1 ^^^ p.2) }
    tgSet k pc (if g.fail then g' else first) s

/-- Check the grains of a pass. -/
def tgCheck (k pc : Nat) (g : TrafGen) (n : Nat) (s : State) : State :=
  ((List.range n).foldl (fun (p : Nat × State) i =>
    let u := g.base.toNat + i
    let r := tgGrain g.pattern u p.1
    (r.1, tgCheckGrain k pc u r.2 p.2)) (g.seed.toNat, s)).2

/-- Grains of a pass's work. -/
def tgWork (g : TrafGen) : Nat := if g.op = 2 then 2 * g.len.toNat else g.len.toNat

/-- The first `m` grains of a pass's work: writes, then reads. -/
def tgPass (k pc : Nat) (g : TrafGen) (m : Nat) (s : State) : State :=
  match g.op with
  | 0 => tgWrite k pc g m s
  | 1 => tgCheck k pc g m s
  | _ => tgCheck k pc g (m - g.len.toNat) (tgWrite k pc g (min m g.len.toNat) s)

/-- HBM_TG_DONE (R233, R245, R247), which waits while the stack is at HALT: a pass ends, whole or, once STOP has
come, after a grain that nothing fixes (assumption 3). A looping generator goes on until STOP. -/
def hbmTgDone (k pc : Nat) (s : State) : State :=
  let g := tgOf s k pc
  if g.busy = false ∨ atHalt s k = true then s
  else
    let m := if g.stopping then Config.freeNat s.free % (tgWork g + 1) else tgWork g
    let s := tgPass k pc g m (if g.stopping then bumpFree s else s)
    let h := tgOf s k pc
    let h : TrafGen := if m = tgWork g then { h with passes := h.passes + 1 } else h
    if g.loop ∧ g.stopping = false then tgSet k pc h s
    else raise (oHbm k + 0x020) 5 (tgSet k pc { h with busy := false, stopping := false, done := true } s)

end Sys2Proof.Machine
end

