-- ==== Sys2Proof/Machine/RegRead.lean ====
section
/-!
DEFINITION. Register reads (R11, R12, R428, R451, R452, R458, R459): what a register shows, which words
are free because no step keeps them (R33), the latching of HI words, and what a read changes.
-/
namespace Sys2Proof.Machine

/-- A word made of four bytes of a table. -/
def wordOf4 (t : Tab Byte) (w : Nat) : Nat :=
  leNat ((List.range 4).map (fun i => tabGet 0 t (4 * w + i)))

/-- 32 flags as a word. -/
def flagWord (f : Nat → Bool) : Nat := (List.range 32).foldl (fun n i => n + b2n (f i) * 2 ^ i) 0

/-! ### Live words, by block -/

/-- Core registers that show the core's state (R75). -/
def liveCore (s : State) (n o : Nat) : Option Nat :=
  let c := coreOf s n
  let st := (regGet s (oCore n + o)).toNat
  match o with
  | 0x0010 => some (qStateNum c.qF + c.qF.unissued.length * 4 + (window c.qF .F).length * 2 ^ 16)
  | 0x0014 => some (qStateNum c.qB + c.qB.unissued.length * 4 + (window c.qB .B).length * 2 ^ 16)
  | 0x0018 => some (qStateNum c.qW + c.qW.unissued.length * 4 + (window c.qW .W).length * 2 ^ 16)
  | 0x001C => some (qStateNum c.qX + c.qX.unissued.length * 4 + (window c.qX .X).length * 2 ^ 16)
  | 0x0040 => some (putBits st 0 11 (locksHeld c).length)
  | 0x0060 => some (putBits (putBits st 2 1 (b2n c.ctxP.active)) 3 1 (b2n c.ctxX.active))
  | 0x0064 => some c.ctxP.pc.toNat
  | 0x0068 => some c.ctxX.pc.toNat
  | _ =>
    if o ∈ [0x1000, 0x1010, 0x1020, 0x1030] then
      let held := (tabGet [] c.barrows ((o - 0x1000) / 16)).length
      some (putBits (putBits st 0 1 (b2n (decide (0 < held)))) 4 4 held)
    else none

/-- Stall registers that show the stall's state (R143). DRAIN_BUSY is 1 from the last k-step of a tile until
its drain has ended, and DEPTH shows the count of k-steps modulo 2^19, its width, for an ordered-class
chain that is deeper than 262,144 (DESIGN CHOICE, assumption 86). -/
def liveStall (s : State) (n i o : Nat) : Option Nat :=
  let t := (coreOf s n).stall i
  match o with
  | 0x000 =>
    some (i + b2n (decide (8 * n + i ∈ s.boot.farrier.stalls)) * 8 + b2n (decide (8 * n + i ∈ s.boot.farrier.rows)) * 16)
  | 0x004 =>
    let q := ((t.act.map (fun (x : Tile) => qNum x.q)).getD 0)
    some (b2n t.busy + b2n (decide (t.drains ≠ [])) * 2 + b2n t.chainOpen * 4 + (if t.chainOpen then q * 8 else 0) +
      t.mode.toNat * 32 + b2n s.job.heritage * 256)
  | 0x008 => some (if t.chainOpen then (t.act.map (fun (x : Tile) => x.ksteps)).getD 0 % 2 ^ 19 else 0)
  | 0x020 => some t.rowTag.toNat
  | 0x024 => some t.colTag.toNat
  | _ =>
    if 0x100 ≤ o ∧ o < 0x180 then some (wordOf4 t.rowScale ((o - 0x100) / 4))
    else if 0x180 ≤ o ∧ o < 0x200 then some (wordOf4 t.colScale ((o - 0x180) / 4))
    else none

/-- TROUGH_RED_DATA (R218). -/
def redData (r : RedSet) (acc lane : Nat) : Nat :=
  if acc = 3 then
    (match tabGet none r.argBest lane with
     | some (_, c) => c % 2 ^ 32
     | none => 2 ^ 32 - 1)
  else if acc = 0 ∨ acc = 6 then 0
  else (encode fBF16 0 (redLane r acc lane)).code

/-- Trough registers that show the Trough's state (R218). Where several chains are open, TROUGH_STAT shows
the oldest (DESIGN CHOICE, assumption 86). -/
def liveTrough (s : State) (n o : Nat) : Option Nat :=
  let c := coreOf s n
  let peek := oCore n + 0x8040
  match o with
  | 0x8000 =>
    (match c.chains.head? with
     | none => some 0
     | some ch => some (1 + qNum ch.q * 2 + ch.members.length * 16 + b2n ch.started.isSome * 512))
  | 0x8044 => some (redData (c.redSet (qAt (rf s peek 0 2))) (rf s peek 2 3) (rf s peek 8 7))
  | 0x8048 => some ((c.redSet (qAt (rf s peek 0 2))).elems.toNat % 2 ^ 32)
  | 0x8050 => some (flagWord (fun i => (tabGet none c.slots i).isSome))
  | _ => none

/-- Sync registers that show counters and counts (R295). -/
def liveSync (s : State) (n o : Nat) : Option Nat :=
  let c := coreOf s n
  if o < 0x1_0400 then
    let i := (o - 0x1_0000) / 4
    let v := c.ctr i
    some (v.c.toNat + v.r.toNat * 2 ^ 12 + b2n v.poison.isSome * 2 ^ 24 + b2n (counterHeld s n i) * 2 ^ 25)
  else if o = 0x1_0468 then some (regGet s 0x0010).toNat
  else if o = 0x1_046C then some (regGet s 0x0014).toNat
  else if 0x1_0480 ≤ o ∧ o < 0x1_04C0 then some (flagWord (fun b => (c.cc ((o - 0x1_0480) / 4 * 32 + b)).poison.isSome))
  else if 0x1_0800 ≤ o ∧ o < 0x1_1000 then some (c.cc ((o - 0x1_0800) / 4)).n.toNat
  else none

/-- Stack registers that show a traffic generator (R247). -/
def liveHbm (s : State) (k o : Nat) : Option Nat :=
  let g := tgOf s k (tgSel s k)
  match o with
  | 0x104 => some (g.op * 4 + g.pattern * 16 + b2n g.loop * 128)
  | 0x108 => some g.base.toNat
  | 0x10C => some g.len.toNat
  | 0x110 => some g.seed.toNat
  | 0x114 => some (b2n g.busy + b2n g.done * 2 + b2n g.fail * 4 + g.passes.toNat * 2 ^ 16)
  | 0x118 => some g.errs.toNat
  | 0x11C => some g.failGrain.toNat
  | 0x120 => some g.failXor.toNat
  | _ => none

/-- Groom registers that show the Groom's state (R270). -/
def liveGroom (s : State) (k o : Nat) : Option Nat :=
  let g := groomOf s k
  if o = 0x1_0008 then some (groomStateNum s k + b2n g.skip * 4 + b2n g.skipDone * 8)
  else if 0x1_0040 ≤ o ∧ o < 0x1_0050 then some (flagWord (fun b => (tabGet gcntReset g.counts ((o - 0x1_0040) / 4 * 32 + b)).nf))
  else if 0x1_1000 ≤ o ∧ o < 0x1_1400 then some (tabGet 0 g.coef ((o - 0x1_1000) / 4)).toNat
  else if 0x1_2000 ≤ o ∧ o < 0x1_2400 then some (tabGet gcntReset g.counts ((o - 0x1_2000) / 4)).n.toNat
  else none

/-- Port registers that show the port's tables and queues (R328). -/
def livePort (s : State) (p o : Nat) : Option Nat :=
  match o with
  | 0x044 => some (rtEntry s p (rf s (oPort p + 0x040) 0 14))
  | 0x050 => some (portDepth s p 0 % 1024 + portDepth s p 1 % 1024 * 2 ^ 16)
  | 0x054 => some (portDepth s p 2 % 1024 + portDepth s p 3 % 1024 * 2 ^ 16)
  | _ => none

/-- Common fabric registers that show tables (R329). -/
def liveCommon (s : State) (o : Nat) : Option Nat :=
  let ix (r : Nat) : Nat := (regGet s (oCommon + r)).toNat
  match o with
  | 0x000 => some (putBits (ix 0) 0 6 s.boot.straps.slotId.toNat)
  | 0x014 => some (tabGet 0 s.fab.map (bits (ix 0x010) 0 13)).toNat
  | 0x01C => some (rtEntry s 24 (bits (ix 0x018) 0 14))
  | 0x024 => some (tabGet 0 s.fab.midset (bits (ix 0x020) 0 4 * 1024 + bits (ix 0x020) 4 10)).toNat
  | 0x02C => some (tabGet 0 s.fab.group (bits (ix 0x028) 0 10 * 64 + bits (ix 0x028) 10 6)).toNat
  | 0x054 => some s.fab.landings.length
  | _ => none

/-- The entry that PORT_COLL_INDEX shows. -/
def collShown (s : State) : Nat := rf s oColl 0 8

/-- Collective registers that show entries (R383). -/
def liveColl (s : State) (o : Nat) : Option Nat :=
  let e := collShown s
  if 0x004 ≤ o ∧ o < 0x020 then some (collReg s e o)
  else if o = 0x020 then some (tabGet 0 s.fab.coll (e * 16 + 8)).toNat
  else if o = 0x024 then some (s.fab.staged.countP (fun x => x.entry == e))
  else if o = 0x104 then some (tabGet 0 s.fab.order (rf s (oColl + 0x100) 0 13)).toNat
  else none

/-- Where the resume ranges stand in the register file: `j` is 0 BASE_LO, 1 BASE_HI, 2 LEN (R409). -/
abbrev oRange (i j : Nat) : Nat := 0x0500_0000 + i * 16 + j * 4

/-- The bits of the dies of some stalls. -/
def dieBits (l : List Nat) : Nat := ((List.range 8).map (fun d => if l.any (fun i => i / 32 == d) then 2 ^ d else 0)).sum

/-- GLB_FARRIER_STALLS (R409). -/
def farrierStalls (f : Farrier) : Nat := dieBits f.stalls + dieBits f.stallsPend * 2 ^ 8 + min 256 f.rows.length * 2 ^ 16

/-- GLB_FARRIER_MEM (R409): stacks with fewer than 4 hard repairs left. -/
def farrierMem (f : Farrier) : Nat :=
  ((List.range 8).map (fun k =>
    if Config.pprRows k < f.hard.countP (fun x => x.1 == k) + 4 then 2 ^ k else 0)).sum

/-- Global registers that show state held elsewhere (R409, R436, R458). -/
def liveGlb (s : State) (o : Nat) : Option Nat :=
  let st := (regGet s o).toNat
  let ri := rf s 0x4020 0 6
  let shown := tabGet none s.log.ring (rf s 0x4074 0 10)
  match o with
  | 0x0000 => some (putBits st 24 1 (b2n Config.variant))
  | 0x0004 => some (Config.serial.toNat % 2 ^ 32)
  | 0x0008 => some (Config.serial.toNat / 2 ^ 32)
  | 0x1008 => some (pwrWord s)
  | 0x2000 => some (alertWord s)
  | 0x3008 => some (strapWord s.boot.straps)
  | 0x4014 => some (putBits st 13 8 (effInterval s))
  | 0x4048 => some (farrierStalls s.boot.farrier)
  | 0x4050 => some (farrierMem s.boot.farrier)
  | 0x4018 => some (putBits st 3 3 s.boot.straps.feedId.toNat)
  | 0x4024 => some (regGet s (oRange ri 0)).toNat
  | 0x4028 => some (regGet s (oRange ri 1)).toNat
  | 0x402C => some (regGet s (oRange ri 2)).toNat
  | 0x4070 => some s.log.next
  | 0x4078 | 0x407C | 0x4080 | 0x4084 =>
    (match shown with
     | none => some 0
     | some e => some (logWord e ((o - 0x4078) / 4)))
  | 0x4090 => some (s.log.evseq.toNat % 2 ^ 32)
  | 0x4094 => some (s.log.evseq.toNat / 2 ^ 32)
  | _ => none

/-- Security registers that show fuses and keys (R437). -/
def liveSec (s : State) (o : Nat) : Option Nat :=
  match o with
  | 0x010 => some (fusedSvn s 1)
  | 0x014 => some (fusedSvn s 2)
  | 0x018 => some (fusedSvn s 3)
  | 0x020 =>
    some (bits (regGet s (oSec + 0x020)).toNat 0 4 + b2n (Config.slotRevoked 1) * 16 + b2n (Config.slotRevoked 2) * 32 +
      b2n (Config.slotRevoked 3) * 64)
  | _ =>
    if 0x200 ≤ o ∧ o ≤ 0x238 then some (leNat (((identityPublic.take 57).drop (o - 0x200)).take 4)) else none

/-- A register of BAR0 whose value is not simply stored. -/
def liveReg (s : State) (off : Nat) : Option Nat :=
  match whereIs off with
  | .glb o => liveGlb s o
  | .sec o => liveSec s o
  | .port p o => livePort s p o
  | .common o => liveCommon s o
  | .coll o => liveColl s o
  | .cage _ _ => none
  | .hbm k o =>
    if o < 0x1000 then liveHbm s k o
    else if o < 0x1_3000 then liveGroom s k o
    else if 0x2_0000 ≤ o ∧ o < 0x3_0000 then
      some (dWord (tabGet descReset (groomOf s k).desc ((o - 0x2_0000) / 64)) (o / 4 % 16)).toNat
    else if 0x4_0000 ≤ o ∧ o < 0x5_0000 then
      some ((tabGet 0 (groomOf s k).uram ((o - 0x4_0000) / 16)).extractLsb' (32 * (o / 4 % 4)) 32).toNat
    else none
  | .core n o =>
    if o < 0x2000 then liveCore s n o
    else if 0x4000 ≤ o ∧ o < 0x8000 then liveStall s n ((o - 0x4000) / 0x800) ((o - 0x4000) % 0x800)
    else if 0x8000 ≤ o ∧ o < 0x9000 then liveTrough s n o
    else if 0x1_0000 ≤ o ∧ o < 0x1_1000 then liveSync s n o
    else if 0x2_0000 ≤ o ∧ o < 0x6_0000 then some (dWord ((coreOf s n).dsc ((o - 0x2_0000) / 64)) (o / 4 % 16)).toNat
    else if 0x8_0000 ≤ o ∧ o < 0x9_0000 then
      some ((tabGet 0 (coreOf s n).iram ((o - 0x8_0000) / 16)).extractLsb' (32 * (o / 4 % 4)) 32).toNat
    else none
  | .die _ _ => none
  | .none => none

/-- The value of a BAR0 register's fields. Offsets without fields read zero (R12). -/
def regVal (s : State) (off : Nat) : W32 :=
  if fieldsOf off = [] then 0
  else
    match liveReg s off with
    | some v => BitVec.ofNat 32 v
    | none => regGet s off

/-! ### What a read does -/

/-- The bits of a register that show a reading of the rails, which no command brings (R33, R458; assumption 3). -/
def freeMask (s : State) (off : Nat) : W32 :=
  match whereIs off with
  | .glb o => if 61 ∈ s.boot.released ∧ o = 0x100C then 0xFFFFFFFF#32 else 0
  | _ => 0

/-- LO registers, whose read latches the HI register that follows. -/
def isLo (off : Nat) : Bool :=
  match whereIs off with
  | .glb o => decide (o ∈ [0x10, 0x18, 0x4030, 0x4038, 0x4040, 0x4090])
  | .port _ o => decide (o = 0x100 ∨ o = 0x108)
  | .coll o => decide (o = 0x210)
  | .hbm _ o => decide (o ∈ [0x40, 0x48, 0x1_0018, 0x1_0054, 0x1_0070, 0x1_0078])
  | .core _ o =>
    decide (o ∈ [0x80, 0x8060, 0x8F08, 0x8F10, 0x1_0468]) || decide (0x4000 ≤ o ∧ o < 0x8000 ∧ o % 0x800 = 0x200)
  | .die _ o => decide (o ∈ [0x30, 0x38, 0x40])
  | _ => false

/-- The value with its free bits taken from a free word. -/
def mixFree (s : State) (i off : Nat) : W32 :=
  (regVal s off &&& ~~~freeMask s off) ||| (Config.freeWord (s.free + i) &&& freeMask s off)

/-- A value goes back to the reader. -/
def answer (v : W32) (s : State) : State := emit (.readData v) { s with hostRead := v }

/-- A read of BAR0 after the seal (R428): a count goes on first; a HI word shows what its LO latched;
GLB_PWR_NOW.PEAK starts anew (R458). -/
def readBar0 (off : Nat) (s : State) : State :=
  let s := countOn off s
  let hi : Bool := decide (4 ≤ off) && isLo (off - 4)
  let v := if hi then tabGet (regReset off) s.latches off else mixFree s 0 off
  let s : State :=
    if isLo off then { s with latches := tabSet (regReset (off + 4)) s.latches (off + 4) (mixFree s 1 (off + 4)) } else s
  let s : State := if freeMask s off = 0 then s else { s with free := s.free + 2 }
  let s := if off = 0x1004 then rfSet 0x1004 16 16 0 s else s
  answer v s

/-- The mailbox (R459): the one part of BAR2 that is served before the seal (R428). -/
def inMailbox (off : Nat) : Bool := decide (off < 0x1000)

/-- A word of configuration space as it reads (R451). -/
def cfgVal (s : State) (off : Nat) : W32 :=
  if cfgFields off = [] then 0 else if off = 0 then cfgGet s 0 ||| Config.pcieVendor.setWidth 32 else cfgGet s off

/-- REGISTER_READ (R11, R428, R451). -/
def registerRead (bar : Bar) (off : Nat) (s : State) : State :=
  if off % 4 ≠ 0 then unsupported s
  else
    match bar with
    | .other => unsupported s
    | .cfg => answer (cfgVal s off) s
    | .bar0 => if isSealed s then readBar0 off s else answer 0 (refuse (.read bar off) .security 0 s)
    | .bar2 =>
      if isSealed s || inMailbox off then answer (if bar2Fields off = [] then 0 else reg2Get s off) s
      else answer 0 (refuse (.read bar off) .security 0 s)

end Sys2Proof.Machine
end

