-- ==== Sys2Proof/Machine/RegWrite.lean ====
section
/-!
DEFINITION. Register writes (R11, R16, R428, R461): which writes the present state refuses, and what a
write does. A write is judged whole on the state that stands before it; only the fields that it would
change are guarded.
-/
namespace Sys2Proof.Machine

/-! ### Guards, by block: `d` holds the changed bits of RW and LK fields, `v` the value written -/

/-- Core registers (R72, R75, R432, R463). -/
def guardCore (s : State) (n o d v : Nat) : Bool :=
  let c := coreOf s n
  let run := rf s (oCore n + 0x004) 0 1 == 1
  let up (bit : Nat) : Bool := bits d bit 1 == 1 && bits v bit 1 == 1 && decide (tackNow s = 3)
  match o with
  | 0x0004 =>
    up 0 || (run && bits d 1 1 == 1) ||
      [Q.F, Q.B, Q.W, Q.X].any (fun q => bits v (8 + qNum q) 1 == 1 && !flushOk s n q)
  | 0x0030 => (rf s (oCore n + 0x030) 0 1 == 1 && (bits d 2 2 != 0 || bits d 8 8 != 0)) || (bits d 2 2 != 0 && bits v 2 2 == 3)
  | 0x0060 => up 0 || up 1
  | 0x0064 => d != 0 && (ctxRun s n .primary || c.ctxP.active)
  | 0x0068 => d != 0 && (ctxRun s n .filler || c.ctxX.active)
  | _ =>
    if o = 0x1_0400 then bits v 31 1 == 1 && coreRunAny s n
    else if 0x1_0410 ≤ o ∧ o < 0x1_0430 then d != 0 && coreRunAny s n
    else if 0x2_0000 ≤ o ∧ o < 0x6_0000 then d != 0 && coreRunAny s n
    else if 0x8_0000 ≤ o ∧ o < 0x9_0000 then
      d != 0 && (ctxRun s n .primary || ctxRun s n .filler || c.ctxP.active || c.ctxX.active)
    else false

/-- The generator that a write of HBM_TG_CTRL leaves before it starts. -/
def tgWith (g : TrafGen) (v : Nat) : TrafGen :=
  { g with op := bits v 2 2, pattern := bits v 4 3, loop := bits v 7 1 == 1 }

/-- Stack and Groom registers (R244, R247, R270). -/
def guardHbm (s : State) (k o d v : Nat) : Bool :=
  let run := groomRunBit s k
  match o with
  | 0x004 => bits d 0 2 != 0 && hbmModeRefused s k (bits v 0 2)
  | 0x014 => d != 0 && decide (¬ (bits v 0 8 < bits v 8 8 ∧ bits v 8 8 < bits v 16 8 ∧ bits v 16 8 ≤ 105))
  | 0x018 => d != 0 && decide (bits v 0 5 = 0 ∨ 24 < bits v 0 5)
  | 0x104 => bits v 0 1 == 1 && tgRefused s k (tgWith (tgOf s k (tgSel s k)) v)
  | 0x1_0004 => (bits d 0 1 == 1 && bits v 0 1 == 1 && decide (tackNow s = 3)) || (bits v 1 1 == 1 && run)
  | _ =>
    if o ∈ [0x1_000C, 0x1_0010, 0x1_0018, 0x1_001C, 0x1_0030, 0x1_0034, 0x1_0038] then d != 0 && run
    else if 0x2_0000 ≤ o ∧ o < 0x3_0000 then d != 0 && run
    else if 0x4_0000 ≤ o ∧ o < 0x5_0000 then d != 0 && run
    else false

/-- Die registers (R227, R248). -/
def guardDie (s : State) (n o d v : Nat) : Bool := o == 0x004 && d != 0 && loftRefused s n (bits v 0 5)

/-- Port registers (R308, R312, R328). -/
def guardPort (s : State) (p o d v : Nat) : Bool :=
  match o with
  | 0x004 => bits d 8 4 != 0 && decide (bits v 8 4 = 0 ∨ 8 < bits v 8 4)
  | 0x014 => bits d 0 8 != 0 && portState s p != 0
  | 0x044 => d != 0 && anyRun s
  | _ => false

/-- Common fabric registers (R312, R329, R394). -/
def guardCommon (s : State) (o d v : Nat) : Bool :=
  match o with
  | 0x004 => d != 0 && (anyRun s || s.boot.exhausted)
  | 0x008 | 0x014 | 0x01C | 0x024 | 0x02C => d != 0 && anyRun s
  | 0x030 => (bits d 0 16 != 0 && decide (bits v 0 16 < 40)) || (bits d 16 16 != 0 && bits v 16 16 == 0)
  | _ => false

/-- Collective registers (R366, R383). -/
def guardColl (s : State) (o d : Nat) : Bool :=
  decide ((0x004 ≤ o ∧ o < 0x020) ∨ o = 0x104) && d != 0 && anyRun s

/-- The port that a cage serves is not DOWN (R353). -/
def cagePortUp (s : State) (g : Nat) : Bool :=
  match portOfCage s g with
  | some p => portState s p != 0
  | none => false

/-- A word for CAGE_POS holds a tap weight of at most 4,096 (R349, R358; assumption 91). -/
def cagePosOk (off v : Nat) : Bool :=
  match whereIs off with
  | .cage _ o => !decide (0x040 ≤ o ∧ o < 0x060) || decide (bits v 2 13 ≤ 4096)
  | _ => true

/-- Cage registers (R353, R356, R358). -/
def guardCage (s : State) (g o d v : Nat) : Bool :=
  match o with
  | 0x004 =>
    bits d 1 1 == 1 && bits v 1 1 == 1 && !ringsSettled s g
  | 0x010 => bits d 0 16 != 0 && decide (bits v 8 8 ≤ bits v 0 8)
  | 0x00C => d != 0 && cageEn s g && cagePortUp s g
  | _ => decide (0x040 ≤ o ∧ o < 0x060) && d != 0 && (decide (4096 < bits v 2 13) || (cageEn s g && cagePortUp s g))

/-- Global registers (R394, R409, R421, R432, R436, R458). -/
def guardGlb (s : State) (o d v : Nat) : Bool :=
  let gib (b z slots : Nat) : Bool := decide (200 < z ∨ (0 < z ∧ 640 < b + (slots + 1) * z))
  let slots := rf s 0x4008 1 1
  match o with
  | 0x1000 => d != 0 && decide (bits v 0 16 < 1000 ∨ 3200 < bits v 0 16)
  | 0x1010 => d != 0 && decide (bits v 0 8 < 80 ∨ 110 < bits v 0 8)
  | 0x3010 =>
    (bits d 0 3 != 0 && decide (6 ≤ bits v 0 3)) ||
      (bits v 31 1 == 1 && (decide (kindCount (bits v 0 3) ≤ bits v 3 5) || s.boot.block.isSome || (decide (bits v 0 3 ≤ 3) && anyRun s)))
  | 0x3018 => d != 0 && bits v 0 16 == 0
  | 0x3040 => bits d 0 2 != 0 && tackRefused (bits v 0 2) s
  | 0x4004 => bits d 16 8 != 0 && bits v 16 8 == 0
  | 0x4008 => d != 0 && (anyRun s || bits v 4 12 == 0 || gib (rf s 0x400C 0 10) (rf s 0x4010 0 10) (bits v 1 1))
  | 0x400C => d != 0 && (anyRun s || gib (bits v 0 10) (rf s 0x4010 0 10) slots)
  | 0x4010 => d != 0 && (anyRun s || gib (rf s 0x400C 0 10) (bits v 0 10) slots)
  | 0x4014 => d != 0 && (anyRun s || bits v 0 8 == 0)
  | 0x4020 | 0x4024 | 0x4028 | 0x402C => d != 0 && anyRun s
  | _ => false

/-- The present state refuses a write (R16). -/
def writeRefused (s : State) (off d v : Nat) : Bool :=
  match whereIs off with
  | .glb o => guardGlb s o d v
  | .port p o => guardPort s p o d v
  | .common o => guardCommon s o d v
  | .coll o => guardColl s o d
  | .cage g o => guardCage s g o d v
  | .hbm k o => guardHbm s k o d v
  | .core n o => guardCore s n o d v
  | .die n o => guardDie s n o d v
  | _ => false

/-- The block that records a refusal, with its number (R16, R388). -/
def writeBlk (off : Nat) : Blk × Nat :=
  match whereIs off with
  | .glb _ => (.global, 0)
  | .sec _ => (.security, 0)
  | .port p _ => (.port, p)
  | .common _ => (.global, 0)
  | .coll _ => (.coll, 0)
  | .cage g _ => (.cage, g)
  | .hbm k o => (if o < 0x1000 then .hbm else .groom, k)
  | .core n _ => (.core, n)
  | .die n _ => (.die, n)
  | .none => (.global, 0)

/-! ### Effects, by block -/

/-- Store the RW and LK fields of a write and clear the bits that W1C fields ask for (R11). A HI word that is
written reads as written (R11, R270). -/
def storeWord (off : Nat) (v : W32) (s : State) : State :=
  let l := fieldsOf off
  let m := accMask l .rw ||| accMask l .lk
  let s : State := if 4 ≤ off ∧ isLo (off - 4) ∧ m ≠ 0 then
    { s with latches := tabSet (regReset off) s.latches off (v &&& m) } else s
  regSet off (((regGet s off &&& ~~~m) ||| (v &&& m)) &&& ~~~(v &&& accMask l .w1c)) s

/-- Replace 32 bits of an instruction word. -/
def wordPut (x : W128) (i v : Nat) : W128 := BitVec.ofNat 128 (putBits x.toNat (32 * i) 32 v)

/-- A RUN bit of a context takes the value written, if that changes it. -/
def ctxRunWrite (n : Nat) (x : Ctx) (v : Bool) (s : State) : State := if ctxRun s n x = v then s else ostlerRun n x v s

/-- Core registers. -/
def effCore (n o : Nat) (v : W32) (s : State) : State :=
  let off := oCore n + o
  let x := v.toNat
  let on (b : Nat) : Bool := bits x b 1 == 1
  match o with
  | 0x0004 =>
    let s := [Q.F, Q.B, Q.W, Q.X].foldl (fun s q => if on (8 + qNum q) then flushDo n q s else s) s
    storeWord off v s
  | 0x0040 => if on 31 then lockPeakSet n s else s
  | 0x0060 => ctxRunWrite n .filler (on 1) (ctxRunWrite n .primary (on 0) s)
  | 0x0064 => ctxMod n .primary (fun c => { c with pc := BitVec.ofNat 12 x }) s
  | 0x0068 => ctxMod n .filler (fun c => { c with pc := BitVec.ofNat 12 x }) s
  | 0x8F00 => storeWord off v (if on 1 then convZero n s else s)
  | _ =>
    if o = 0x1_0400 then
      (if on 31 then syncArm n (Fin.ofNat 256 (bits x 0 8)) (BitVec.ofNat 12 (bits x 8 12)) (on 20) s else storeWord off v s)
    else if 0x2_0000 ≤ o ∧ o < 0x6_0000 then
      coreMod n (fun c => c.setDsc ((o - 0x2_0000) / 64) (dWordSet (c.dsc ((o - 0x2_0000) / 64)) (o / 4 % 16) v)) s
    else if 0x8_0000 ≤ o ∧ o < 0x9_0000 then
      coreMod n (fun c => { c with iram := tabMod 0 c.iram ((o - 0x8_0000) / 16) (fun w => wordPut w (o / 4 % 4) x) }) s
    else storeWord off v s

/-- Stack and Groom registers. A Groom whose PC the host moves counts the GOPs of its section from 0 again, which
is how it meets its partners (the spec does not say which GOP of theirs it then meets: DESIGN CHOICE,
assumption 100). -/
def effHbm (k o : Nat) (v : W32) (s : State) : State :=
  let off := oHbm k + o
  let x := v.toNat
  let on (b : Nat) : Bool := bits x b 1 == 1
  let tg (f : TrafGen → TrafGen) (s : State) : State := tgSet k (tgSel s k) (f (tgOf s k (tgSel s k))) s
  match o with
  | 0x004 =>
    let s := if bits x 0 2 = rf s off 0 2 then s else hbmModeSet k (bits x 0 2) s
    storeWord off v s
  | 0x010 => if on 31 then hbmPeakSet k s else s
  | 0x104 =>
    let s := tg (fun g => tgWith g x) s
    let s := if on 0 then tgStart k s else s
    if on 1 then tgStop k s else s
  | 0x108 => tg (fun g => { g with base := BitVec.ofNat 32 (bits x 0 31) }) s
  | 0x10C => tg (fun g => { g with len := BitVec.ofNat 32 (bits x 0 31) }) s
  | 0x110 => tg (fun g => { g with seed := BitVec.ofNat 32 (bits x 0 31) }) s
  | 0x1_0004 =>
    let s := if on 1 then countsZero k s else s
    if groomRunBit s k = on 0 then s else groomRunSet k (on 0) s
  | 0x1_000C =>
    if bits x 0 12 = groomPc s k then s else groomMod k (fun g => { g with ngop := 0 }) (groomPcSet k (bits x 0 12) s)
  | _ =>
    if 0x2_0000 ≤ o ∧ o < 0x3_0000 then
      groomMod k (fun g => { g with
        desc := tabMod descReset g.desc ((o - 0x2_0000) / 64) (fun d => dWordSet d (o / 4 % 16) v) }) s
    else if 0x4_0000 ≤ o ∧ o < 0x5_0000 then
      groomMod k (fun g => { g with uram := tabMod 0 g.uram ((o - 0x4_0000) / 16) (fun w => wordPut w (o / 4 % 4) x) }) s
    else storeWord off v s

/-- Die registers. -/
def effDie (n o : Nat) (v : W32) (s : State) : State :=
  match o with
  | 0x004 => loftChange n (bits v.toNat 0 5) s
  | 0x00C => if bits v.toNat 0 1 = 1 then loftFlushDo n s else s
  | _ => storeWord (oDie n + o) v s

/-- Port registers. -/
def effPort (p o : Nat) (v : W32) (s : State) : State :=
  match o with
  | 0x044 => rtSet p (rf s (oPort p + 0x040) 0 14) v s
  | _ => storeWord (oPort p + o) v s

/-- A hall address with VALID, as a table entry holds it. -/
abbrev haddrWord (v : W32) : W32 := v &&& 0x80001FFF#32

/-- Common fabric registers. -/
def effCommon (o : Nat) (v : W32) (s : State) : State :=
  let ix (r lo w : Nat) : Nat := rf s (oCommon + r) lo w
  let put (f : Fabric → Fabric) : State := { s with fab := f s.fab }
  match o with
  | 0x014 => put (fun f => { f with map := tabSet 0 f.map (ix 0x010 0 13) (haddrWord v) })
  | 0x01C => rtSet 24 (ix 0x018 0 14) v s
  | 0x024 => put (fun f => { f with midset := tabSet 0 f.midset (ix 0x020 0 4 * 1024 + ix 0x020 4 10) (haddrWord v) })
  | 0x02C => put (fun f => { f with group := tabSet 0 f.group (ix 0x028 0 10 * 64 + ix 0x028 10 6) (haddrWord v) })
  | _ => storeWord (oCommon + o) v s

/-- A write of a device that is stopped takes an entry out of force (R366, R367). -/
def collOut (e : Nat) (s : State) : State :=
  if collValid s e ∧ anyRun s = false then collSet e 4 (collReg s e 4 % 2 ^ 31) s else s

/-- Collective registers (R367, R383). -/
def effColl (o : Nat) (v : W32) (s : State) : State :=
  let x := v.toNat
  let e := collShown s
  match o with
  | 0x004 =>
    if bits x 31 1 = 1 then (if anyRun s then s else collEntryValidate e (bits x 0 5) (bits x 5 12) s)
    else collSet e 4 (bits x 0 17) s
  | 0x104 =>
    let slot := rf s (oColl + 0x100) 0 13
    let s := (List.range 256).foldl (fun s e =>
      let lo := bits (collReg s e 0x10) 0 13
      if lo ≤ slot ∧ slot < lo + collP s e then collOut e s else s) s
    { s with fab := { s.fab with order := tabSet 0 s.fab.order slot (BitVec.ofNat 32 (bits x 0 13)) } }
  | _ =>
    if 0x008 ≤ o ∧ o < 0x020 then
      collSet e o (v &&& accMask (collFields o) .rw).toNat (collOut e s)
    else storeWord (oColl + o) v s

/-- Cage registers. -/
def effCage (g o : Nat) (v : W32) (s : State) : State :=
  let on (b : Nat) : Bool := bits v.toNat b 1 == 1
  match o with
  | 0x004 =>
    let s := if rf s (oCage g + 0x004) 1 1 = b2n (on 1) then s else cageHoldOpen g (on 1) s
    let s := if cageEn s g = on 0 then s else cageEnable g (on 0) s
    storeWord (oCage g + 0x004) v s
  | _ => storeWord (oCage g + o) v s

/-- Global registers. -/
def effGlb (o : Nat) (v : W32) (s : State) : State :=
  let x := v.toNat
  let on (b : Nat) : Bool := bits x b 1 == 1
  let ri := rf s 0x4020 0 6
  if 0x1020 ≤ o ∧ o < 0x1040 then (if on 31 then dieTempPeakClr ((o - 0x1020) / 4) s else s)
  else
    match o with
    | 0x3004 => if on 8 then hostResetCmd (BitVec.ofNat 8 x) s else s
    | 0x3010 =>
      if on 31 then blockReset (BitVec.ofNat 3 x) (BitVec.ofNat 5 (bits x 3 5)) s else storeWord o v s
    | 0x3040 => tackTargetWrite (BitVec.ofNat 2 x) s
    | 0x4024 => regSet (oRange ri 0) (v &&& 0xFFFFFF00#32) s
    | 0x4028 => regSet (oRange ri 1) (v &&& 0x0000FFFF#32) s
    | 0x402C => regSet (oRange ri 2) v s
    | _ => storeWord o v s

/-- What an accepted write does. -/
def writeEffect (off : Nat) (v : W32) (s : State) : State :=
  match whereIs off with
  | .glb o => effGlb o v s
  | .sec o => if o = 0x004 then (if bits v.toNat 0 1 = 1 then secSeal s else s) else storeWord off v s
  | .port p o => effPort p o v s
  | .common o => effCommon o v s
  | .coll o => effColl o v s
  | .cage g o => effCage g o v s
  | .hbm k o => effHbm k o v s
  | .core n o => effCore n o v s
  | .die n o => effDie n o v s
  | .none => s

/-! ### The write -/

/-- Bits that a write would change in fields of some accesses. -/
def changedBits (s : State) (off : Nat) (v : W32) (a : Access) : W32 :=
  (regVal s off ^^^ v) &&& accMask (fieldsOf off) a

/-- The objects other than register fields that a write of the host would change: the routing entry behind a data
register, and the lanes of a port's enables (R286, R314, R328, R329). -/
def writeObjs (s : State) (off : Nat) (v : W32) : List (Nat × Nat × Nat) :=
  let d := (regVal s off ^^^ v).toNat
  match whereIs off with
  | .port p o =>
    if o = 0x044 then (if d = 0 then [] else [(2, p, rf s (oPort p + 0x040) 0 14)])
    else if o = 0x014 then ((List.range 8).filter (fun j => bits d j 1 == 1)).map (fun j => (3, p, j))
    else []
  | .common o => if o = 0x01C ∧ d ≠ 0 then [(2, 0xFFFF, rf s (oCommon + 0x018) 0 14)] else []
  | _ => []

/-- A write touches an object that a hitch holds (R287): it would change it, clear it, or act through it. -/
def touchesHeld (s : State) (off : Nat) (v : W32) : Bool :=
  let old := (regVal s off).toNat
  (writeObjs s off v).any (fun o => objTaken s none o) || (fieldsOf off).any (fun f =>
    let x := bits v.toNat f.lo f.w
    let hit : Bool := match f.acc with
      | .ro => false
      | .rw => x != bits old f.lo f.w
      | .lk => x != bits old f.lo f.w
      | .w1c => (x &&& bits old f.lo f.w) != 0
      | .wo => x != 0
    hit && objTaken s none (1, off, f.lo))

/-- A write of BAR0 (R428, R461). -/
def writeBar0 (off : Nat) (v : W32) (w : Writer) (s : State) : State :=
  let c := RefCmd.write .bar0 off v.toNat
  if w = .host ∧ hostMay s off = false then refuse c .security 0 s
  else if fieldsOf off = [] then s
  else if isSealed s ∧ changedBits s off v .lk ≠ 0 then refuse c .security 0 s
  else if w = .host ∧ off = oSec + 0x004 ∧ bits v.toNat 0 1 = 1 then refuse c .security 0 s
  else if touchesHeld s off v then refuse c .global 0 s
  else if writeRefused s off (changedBits s off v .rw ||| changedBits s off v .lk).toNat v.toNat then
    refuse c (writeBlk off).1 (writeBlk off).2 s
  else writeEffect off v s

/-- A write of a BAR2 register that stores. -/
def store2 (off : Nat) (v : W32) (s : State) : State :=
  let m := accMask (bar2Fields off) .rw
  reg2Set off ((reg2Get s off &&& ~~~m) ||| (v &&& m)) s

/-- A ring register (R453, R459): BASE and N are guarded while EN is 1; N outside 4 to 12 is RING_BAD. -/
def writeRing (r o : Nat) (v : W32) (s : State) : State :=
  let x := v.toNat
  match o with
  | 0x08 =>
    if ringOn s r ∧ bits x 0 4 ≠ rf2 s (r + 8) 0 4 then refuse (.write .bar2 (r + o) x) .global 0 s
    else if bits x 0 4 < 4 ∨ 12 < bits x 0 4 then
      rf2Set (r + 8) 31 1 0 (record cRING_BAD .global 0 .report .none (store2 (r + o) v s))
    else store2 (r + o) v s
  | 0x0C => if r = oCpl then (let t := store2 (r + o) v s; cplDrain t.host.waiting.length t) else if r = oCmd then s else store2 (r + o) v s
  | 0x10 => if r = oCmd then cmdDoorbell (BitVec.ofNat 13 x) s else s
  | 0x00 | 0x04 =>
    if ringOn s r ∧ (reg2Get s (r + o) ^^^ v) &&& accMask (bar2Fields (r + o)) .rw ≠ 0 then
      refuse (.write .bar2 (r + o) x) .global 0 s
    else store2 (r + o) v s
  | _ => s

/-- A write of BAR2 (R428, R459). -/
def writeBar2 (off : Nat) (v : W32) (s : State) : State :=
  if isSealed s = false ∧ inMailbox off = false then refuse (.write .bar2 off v.toNat) .security 0 s
  else if off = 0x000C then (if bits v.toNat 0 1 = 1 then mailboxGo s else s)
  else if 0x1000 ≤ off ∧ off < 0x1100 then writeRing oCmd (off - 0x1000) v s
  else if 0x1100 ≤ off ∧ off < 0x1200 then writeRing oCpl (off - 0x1100) v s
  else if 0x1200 ≤ off ∧ off < 0x1300 then writeRing oEvt (off - 0x1200) v s
  else if bar2Fields off = [] then s
  else if 0x4000 ≤ off ∧ off < 0x5000 then msixGo (store2 off v s)
  else store2 off v s

/-- A write of configuration space (R451): the power state takes D0 and D3hot alone, the rings go on after D3hot, and
what an unmasked vector had pending is sent (assumption 107). -/
def writeCfg (off : Nat) (v : W32) (s : State) : State :=
  let l := cfgFields off
  let m := accMask l .rw
  if off = 0x044 ∧ v.toNat % 4 ≠ 0 ∧ v.toNat % 4 ≠ 3 then s
  else msixGo (ringsResume (cfgSet off (((cfgGet s off &&& ~~~m) ||| (v &&& m)) &&& ~~~(v &&& accMask l .w1c)) s))

/-- REGISTER_WRITE. Only aligned 32-bit accesses are served (R451). -/
def registerWrite (bar : Bar) (off : Nat) (v : W32) (w : Writer) (s : State) : State :=
  if off % 4 ≠ 0 ∨ bar = .other then (if w = .host then unsupported s else s)
  else
    match bar with
    | .other => s
    | .cfg => if w = .host then writeCfg off v s else s
    | .bar0 => writeBar0 off v w s
    | .bar2 => writeBar2 off v s

end Sys2Proof.Machine
end

