-- ==== Sys2Proof/Machine/Hitch.lean ====
section
/-!
DEFINITION. Hitches (R285 to R292, R308, R324, R353): the host commands, the coordinator's part and the
participant's part.
-/
namespace Sys2Proof.Machine

/-! ### Which actions may be staged (R286, R287) -/

/-- The one RW field that a register write names by its mask. -/
def maskField (off mask : Nat) : Option Fld :=
  (fieldsOf off).find? (fun f => decide (f.acc = .rw ∧ mask ≠ 0 ∧ mask = bits mask f.lo f.w * 2 ^ f.lo))

/-- Registers that no hitch writes: the SEC_ block, descriptors, instruction memories (R286) and collective
entries (R366). -/
def neverStaged (off : Nat) : Bool :=
  match whereIs off with
  | .sec _ => true
  | .coll o => decide ((0x004 ≤ o ∧ o < 0x020) ∨ o = 0x104)
  | .hbm _ o => decide ((0x2_0000 ≤ o ∧ o < 0x3_0000) ∨ (0x4_0000 ≤ o ∧ o < 0x5_0000))
  | .core _ o => decide ((0x2_0000 ≤ o ∧ o < 0x6_0000) ∨ (0x8_0000 ≤ o ∧ o < 0x9_0000))
  | .none => true
  | _ => false

/-- CAGE_POS and CAGE_BCAST, which change by hitch while the cage is in use (R353, R357). -/
def cageRole (off : Nat) : Bool :=
  match whereIs off with
  | .cage _ o => decide (o = 0x00C ∨ (0x040 ≤ o ∧ o < 0x060))
  | _ => false

/-- The word that a masked write leaves. -/
def maskedWord (s : State) (off : Nat) (value mask : W32) : W32 := (regVal s off &&& ~~~mask) ||| (value &&& mask)

/-- A lane action of the list. -/
def hasLane (add : Bool) (p lane : Nat) (acts : List Action) : Bool :=
  acts.any (fun a => match a with
    | .laneAdd q l => add && decide (q.val = p ∧ l.val = lane)
    | .laneRemove q l => !add && decide (q.val = p ∧ l.val = lane)
    | _ => false)

/-- The role that a hitch's writes leave at a position. -/
def roleAfter (s : State) (mine : List Action) (g j : Nat) : Nat :=
  mine.foldl (fun r a => match a with
    | .regWrite off v m => if off.toNat = oCage g + 0x040 + 4 * j ∧ bits m.toNat 0 2 = 3 then bits v.toNat 0 2 else r
    | _ => r) (roleOf s g j)

/-- A ring retune of the list: onto a position, or parked. -/
def hasRetune (g r : Nat) (lock : Bool) (acts : List Action) : Bool :=
  acts.any (fun a => match a with
    | .retune c x pos _ => decide (c.val = g ∧ x.val = r ∧ (pos ≠ 0xFF) = (lock = true))
    | _ => false)

/-- The rings that a role change moves have their retunes (R353). -/
def roleRetunes (mine : List Action) (g j old new : Nat) : Bool :=
  let a := ringsOfRole old j
  let b := ringsOfRole new j
  (a.filter (fun r => decide (r ∉ b))).all (fun r => hasRetune g r false mine) &&
    (b.filter (fun r => decide (r ∉ a))).all (fun r => hasRetune g r true mine)

/-- A role change into or out of LINK has its lane actions at both ends, and, where the whole hitch is known,
its ring retunes (R353): `mine` are this device's actions, `all` those of every rank. -/
def roleOk (s : State) (mine : List Action) (all : List (Nat × Action)) (whole : Bool) (off : Nat) (w : W32) : Bool :=
  match whereIs off with
  | .cage g o =>
    if 0x040 ≤ o ∧ o < 0x060 then
      let j := (o - 0x040) / 4
      let old := roleOf s g j
      let new := bits w.toNat 0 2
      (!whole || roleRetunes mine g j old new) &&
      (if (old = 1) = (new = 1) then true
       else
        (match portOfCage s g with
         | none => true
         | some p =>
           let seen := (regGet s (oPort p + 0x00C)).toNat
           hasLane (decide (new = 1)) p j mine &&
             (match rankOf s (bits seen 0 13) with
              | some r => hasLane (decide (new = 1)) (bits seen 13 5) j (all.filterMap (fun x => if x.1 = r then some x.2 else none))
              | none => true)))
    else true
  | _ => true

/-- The stream starts of R286: the register and the bit. -/
def startBit (off bit : Nat) : Bool :=
  match whereIs off with
  | .core _ o => decide ((o = 0x004 ∧ bit = 0) ∨ (o = 0x060 ∧ bit ≤ 1) ∨ (o = 0x030 ∧ bit = 0))
  | .hbm _ o => decide (o = 0x1_0004 ∧ bit = 0)
  | _ => false

/-- An action is of a kind that may join a hitch (R286, R352), whatever the state of its device. -/
def actionKind (a : Action) : Bool :=
  match a with
  | .regWrite off _ mask => (maskField off.toNat mask.toNat).isSome && !neverStaged off.toNat
  | .routeEdit p e _ => decide ((p.toNat < 24 ∨ p = 0xFFFF) ∧ e < 9216)
  | .laneAdd _ _ => true
  | .laneRemove _ _ => true
  | .retune _ r pos w => decide (r.val < 24 ∧ (pos.toNat < 8 ∨ pos = 0xFF) ∧ w.toNat ≤ 4096)
  | .streamStart off b => startBit off.toNat b.val
  | .cut _ _ => false
  | .stepCommit => false

/-- A lane may be added: the plan is legal (R298), no quarantine stands (R344), and, where the whole hitch is
known, its position ends in LINK (R331). -/
def laneMay (s : State) (mine : List Action) (whole : Bool) (p l : Nat) : Bool :=
  !laneActive s p l && s.boot.planOk && !laneQuar s p l &&
    (match cageOf s p with
     | some g => !whole || roleAfter s mine g l == 1
     | none => true)

/-- An action would be accepted in the present state (R287). `whole` says that `mine` and `all` are the whole
hitch. -/
def actionOk (s : State) (mine : List Action) (all : List (Nat × Action)) (whole : Bool) (a : Action) : Bool :=
  actionKind a && (match a with
  | .regWrite off value mask =>
    let o := off.toNat
    let w := maskedWord s o value mask
    (if cageRole o then cagePosOk o w.toNat else !writeRefused s o ((regVal s o ^^^ w) &&& mask).toNat w.toNat) &&
      roleOk s mine all whole o w
  | .routeEdit _ _ _ => true
  | .laneAdd p l => laneMay s mine whole p.val l.val
  | .laneRemove p l => laneActive s p.val l.val
  | .retune g r _ _ =>
    cageEn s g.val &&
      (match (cageSt s g.val).swap with
       | .none => true
       | .warming j => r.val != j
       | .noticed j => r.val != j
       | .acked j => r.val != j)
  | .streamStart off b => !writeRefused s off.toNat (2 ^ b.val &&& (~~~regVal s off.toNat).toNat) (regVal s off.toNat ||| BitVec.ofNat 32 (2 ^ b.val)).toNat
  | .cut _ _ => false
  | .stepCommit => false)

/-- The actions that a template may stage (R292). -/
def templateMay (a : Action) : Bool :=
  match a with
  | .streamStart _ _ => false
  | .cut _ _ => false
  | .stepCommit => false
  | _ => true

/-- An action that starts a stream, which is applied after every other (R286). -/
def isStart (a : Action) : Bool :=
  match a with
  | .streamStart _ _ => true
  | _ => false

/-- What a register write or a routing edit leaves for the actions after it. -/
def scratchApply (s : State) (a : Action) : State :=
  match a with
  | .regWrite off value mask => writeEffect off.toNat (maskedWord s off.toNat value mask) s
  | .routeEdit p e v => rtSet (if p = 0xFFFF then 24 else p.toNat) e v s
  | _ => s

/-- Every action is accepted by the state that it will meet: the one that the actions before it leave, stream starts
last (R286, R288). -/
def actsOk (s : State) (acts : List Action) (all : List (Nat × Action)) : Bool :=
  ((acts.filter (fun a => !isStart a) ++ acts.filter isStart).foldl (fun (r : Bool × State) a =>
    (r.1 && actionOk r.2 acts all true a, scratchApply r.2 a)) (true, s)).1

/-- A list of actions keeps to R287: one action for an object, and at most 4,096. -/
def stagingOk (acts : List Action) : Bool := decide (acts.length ≤ 4096 ∧ (acts.map objOf).Nodup)

/-! ### The coordinator (R288 to R292) -/

/-- The states of a hitch as HITCH_QUERY codes them (R455). -/
def HState.code : HState → Nat
  | .opened => 0 | .preparing => 1 | .committed => 2 | .aborted => 3 | .done => 4

/-- The waiting command of an opcode and tag that names a hitch comes to the front. -/
def foreHitch (op : Nat) (tag num : W16) (s : State) : State :=
  fore (fun e => decide (entryOp e = op ∧ entryTag e = tag ∧ entryNum e = some num)) s

/-- HITCH_ABORTs that wait for the decision of the device that coordinates complete: OK where it aborts, refused
where it has committed (R292). -/
def abortsEnd (h : HitchC) (ok : Bool) (s : State) : State :=
  h.aborts.foldl (fun s t =>
    let s := foreHitch 0x0004 t h.num s
    if ok then complete' t cOK 0 h.num 0 s else refuseCmd 4 t s) s

/-- A hitch reaches DONE: a HITCH_COMMIT that waits for it completes (R292). -/
def hitchDone (h : HitchC) (s : State) : State :=
  let s := abortsEnd h (decide (h.st ≠ .committed)) (coordPut { h with st := .done, tag := none, aborts := [] } s)
  match h.tag with
  | none => s
  | some t =>
    let s := foreHitch 0x0003 t h.num s
    if h.st = .committed then complete' t cOK 0 h.num 0 s
    else complete' t (if h.timedOut then cHITCH_TIMEOUT else cHITCH_ABORTED) h.cause h.num 0 s

/-- The decision not to apply, sent to every participant (R288, R290). Only the coordinator takes it (R285); where
another device coordinates, the record here follows what that device has decided (assumption 23). -/
def hitchAbortDecide (h : HitchC) (cause : Nat) (timedOut : Bool) (s : State) : State :=
  let s := abortsEnd h true (coordPut { h with st := .aborted, cause := cause, timedOut := timedOut, aborts := [] } s)
  if coordinates s h.ranks then
    coordSend h (.decision h.num false)
      (record (if timedOut then cHITCH_TIMEOUT else cHITCH_ABORTED) .global 0 .report (.num2 h.num.toNat cause) s)
  else s

/-- The record of a hitch that another device coordinates follows a decision that has reached this device as a
participant (R285, R292; assumption 23): the cause of an abort comes with no message, so it is free. -/
def coordFollow (num : W16) (st : HState) (s : State) : State :=
  match coordOf s num with
  | none => s
  | some h =>
    if coordinates s h.ranks then s
    else
      match st, h.st with
      | .committed, .preparing => abortsEnd h false (coordPut { h with st := .committed, aborts := [] } s)
      | .aborted, .preparing =>
        let c := Config.freeNat s.free % 7 + 1
        hitchAbortDecide h c (decide (c = 4)) (bumpFree s)
      | .done, .committed => hitchDone h s
      | .done, .preparing => hitchDone { h with st := .committed } s
      | _, _ => s

/-- Another device takes the actions staged for it (R287): what it answers is not of this device's state. -/
def othersTake (s : State) : Bool := Config.freeNat s.free % 2 == 0

/-- HITCH_OPEN (R292). -/
def hitchOpen (tag : W16) (ranks : List Nat) (limit : Nat) (s : State) : State :=
  if ranks = [] ∨ ¬ ranks.Nodup ∨ ranks.any (fun r => decide (devices s ≤ r)) ∨ 1000 < limit ∨
      (ownRank s ∈ ranks ∧ 4 ≤ hitchCount s) then
    refuseCmd 1 tag s
  else
    let r := hitchNew ranks (if limit = 0 then 100 else limit) [] .host s
    complete' tag cOK 0 r.1.num 0 r.2

/-- HITCH_STAGE (R287, R292). An action for another device is checked by kind here and against that device's
state there. -/
def hitchStage (tag num : W16) (rank : Nat) (a : Action) (s : State) : State :=
  match coordOf s num with
  | none => refuseCmd 2 tag s
  | some h =>
    let mine := actsOf h rank
    let own : Bool := decide (rank = ownRank s)
    let s' := if own then s else bumpFree s
    if h.st ≠ .opened ∨ h.src ≠ .host ∨ rank ∉ h.ranks ∨ 4096 ≤ mine.length ∨ mine.any (fun x => decide (objOf x = objOf a)) ∨
        actionKind a = false ∨ (own = true ∧ (objTaken s (some num) (objOf a) = true ∨ actionOk s mine h.acts false a = false)) ∨
        (own = false ∧ othersTake s = false) then
      refuseCmd 2 tag s'
    else complete' tag cOK 0 num 0 (coordPut { h with acts := h.acts ++ [(rank, a)] } s')

/-- HITCH_COMMIT (R288, R292): it completes at DONE. -/
def hitchCommit (tag num : W16) (s : State) : State :=
  match coordOf s num with
  | none => refuseCmd 3 tag s
  | some h =>
    if h.st ≠ .opened ∨ h.acts = [] then refuseCmd 3 tag s
    else prepareSend { h with tag := some tag } s

/-- HITCH_ABORT (R292). One for a hitch that another device coordinates is handed to that device, and completes
when its decision is known (R285). -/
def hitchAbort (tag num : W16) (s : State) : State :=
  match coordOf s num with
  | none => refuseCmd 4 tag s
  | some h =>
    match h.st with
    | .opened => complete' tag cOK 0 num 0 (coordPut { h with st := .done, cause := 5 } s)
    | .preparing =>
      if coordinates s h.ranks then hitchAbortDecide h 5 false (complete' tag cOK 0 num 0 s)
      else sendRank (h.ranks.min?.getD 0) (.abort num) (coordPut { h with aborts := h.aborts ++ [tag] } s)
    | .aborted => complete' tag cOK 0 num 0 s
    | .committed => refuseCmd 4 tag s
    | .done => refuseCmd 4 tag s

/-- HITCH_QUERY (R292, R455). -/
def hitchQuery (tag num : W16) (s : State) : State :=
  match coordOf s num with
  | none => refuseCmd 5 tag s
  | some h => complete' tag cOK h.cause num h.st.code s

/-- HITCH_VOTE (R288): a participant's vote, cause 5 from a device whose host aborts; where another device
coordinates, what that device has recorded, cause 4 where the limit ran out. -/
def hitchVote (num : W16) (rank cause : Nat) (s : State) : State :=
  match coordOf s num with
  | none => s
  | some h =>
    if h.st ≠ .preparing ∨ rank ∉ h.ranks then s
    else if cause ≠ 0 then hitchAbortDecide h cause (!coordinates s h.ranks && cause == 4) s
    else
      let votes := setAdd h.votes rank
      if h.ranks.all (fun r => decide (r ∈ votes)) then
        coordSend h (.decision num true) (abortsEnd h false (coordPut { h with votes := votes, st := .committed, aborts := [] } s))
      else coordPut { h with votes := votes } s

/-- HITCH_PREPARE_TIMEOUT (R288). -/
def hitchPrepareTimeout (num : W16) (s : State) : State :=
  match coordOf s num with
  | none => s
  | some h => if h.st = .preparing ∧ coordinates s h.ranks = true then hitchAbortDecide h 4 true s else s

/-- HITCH_ACK (R289, R290): an apply is acknowledged, or a return to the previous state confirmed. -/
def hitchAck (num : W16) (rank : Nat) (s : State) : State :=
  match coordOf s num with
  | none => s
  | some h =>
    if (h.st ≠ .committed ∧ h.st ≠ .aborted) ∨ rank ∉ h.ranks then s
    else
      let h := { h with acks := setAdd h.acks rank }
      if h.ranks.all (fun r => decide (r ∈ h.acks)) then
        let s := if h.st = .committed then coordSend h (.release num) s else s
        laneAddRetry (hitchDone h s)
      else coordPut h s

/-! ### The participant (R288 to R291) -/

/-- The ports that the lane actions of a hitch name. -/
def lanePorts (acts : List Action) : List Nat :=
  (acts.filterMap (fun a => match a with
    | .laneAdd p _ => some p.val
    | .laneRemove p _ => some p.val
    | _ => none)).dedup

/-- Hold or reopen the ports of a hitch's lane actions; a port that another hitch holds too stays held (R289). -/
def holdPorts (num : W16) (v : Bool) (acts : List Action) (s : State) : State :=
  (lanePorts acts).foldl (fun s p => portMod p (fun q => { q with
    held := q.held.filter (fun x => decide (x ≠ num)) ++ (if v then [num] else []) }) s) s

/-- A retune takes a LINK lane out while the port has blocks unacknowledged: it waits (R352). -/
def ringWaits (s : State) (a : Action) : Bool :=
  match a with
  | .retune g r pos _ =>
    decide (pos = 0xFF ∧ r.val < 16 ∧ roleOf s g.val (r.val % 8) = 1) &&
      (match portOfCage s g.val with
       | some p => !(portOf s p).sent.isEmpty
       | none => false)
  | _ => false

/-- The ring of a retune, by cage and ring. -/
def retuneKey (a : Action) : Option Nat :=
  match a with
  | .retune g r _ _ => some (g.val * 32 + r.val)
  | _ => none

/-- Begin the preparation of a ring: its word to return to, and the move: to its parking code, or toward the
position, where its lock will tell the code (R341, R352). -/
def moveRing (num : W16) (s : State) (a : Action) : State :=
  match a with
  | .retune g r pos _ =>
    let old := regGet s (oRing g.val r.val)
    let s := match partOf s num with
      | some h => partPut { h with saved := h.saved ++ [(g.val * 32 + r.val, old)] } s
      | none => s
    let code := if pos = 0xFF then parkCode s g.val r.val else calibOf s g.val r.val pos.toNat
    ringStateSet g.val r.val 2 (ringCode g.val r.val code s)
  | _ => s

/-- A hitch that another device's host has committed is handed to this device, whose rank is the lowest: it
coordinates it from now on (R285; assumption 23). -/
def hitchTakeOver (num : W16) (limit : Nat) (all : List (Nat × Action)) (s : State) : State :=
  let ranks := (ownRank s :: all.map (fun x => x.1)).dedup
  let h : HitchC := ⟨num, ranks, limit, all, .preparing, 0, false, [], [], .host, none, []⟩
  coordSend h (.prepare num limit all) { s with hitch := { s.hitch with coord := s.hitch.coord ++ [h] } }

/-- PREPARE comes from this very device, which has no record of the hitch: it is handed over. -/
def handedOver (s : State) (num : W16) (coord : Nat) (all : List (Nat × Action)) : Bool :=
  decide (coord = ownRank s) && (coordOf s num).isNone && coordinates s (ownRank s :: all.map (fun x => x.1))

/-- HITCH_PREPARE (R288): an action that is refused now makes the participant vote ABORT with cause 1. `all`
are the actions of every rank. -/
def hitchPrepare (num : W16) (coord limit : Nat) (all : List (Nat × Action)) (s : State) : State :=
  if (partOf s num).isSome then s
  else if handedOver s num coord all then hitchTakeOver num limit all s
  else
    let acts := all.filterMap (fun x => if x.1 = ownRank s then some x.2 else none)
    let others := (s.hitch.part.map (fun h => h.num)) ++
      (s.hitch.coord.filter (fun h => decide (h.st ≠ .done ∧ h.num ≠ num ∧ ownRank s ∈ h.ranks))).map (fun h => h.num)
    let bad : Bool := decide (4 ≤ others.dedup.length) || decide (4096 < acts.length) ||
      acts.any (fun a => objTaken s (some num) (objOf a)) || !actsOk s acts all
    let up := (lanePorts acts).filter (fun p => decide (portState s p = 2 ∨ portState s p = 3))
    let h : HitchP := ⟨num, coord, limit, if bad then [] else acts, if bad then .voted else .preparing, [], up, false, []⟩
    let s : State := { s with hitch := { s.hitch with part := s.hitch.part ++ [h] } }
    if bad then sendRank coord (.vote num 1) s
    else acts.foldl (fun s a => if ringWaits s a then s else moveRing num s a) (holdPorts num true acts s)

/-- The lane mask of a port after a hitch's lane actions. -/
def lanesAfter (s : State) (acts : List Action) (p : Nat) : Nat :=
  ((List.range 8).map (fun j =>
    if hasLane true p j acts || (laneActive s p j && !hasLane false p j acts) then 2 ^ j else 0)).sum

/-- The retunes of a hitch that have waited for the port's blocks go on (R352). -/
def ringsGo (h : HitchP) (s : State) : State :=
  (h.acts.filter (fun a => (retuneKey a).any (fun k => h.saved.all (fun x => decide (x.1 ≠ k))))).foldl (moveRing h.num) s

/-- A retune's lock is confirmed by its tone; a tap's receiver reads at least the floor over 1 ms (R349, R352). -/
def ringConfirmed (s : State) (locks : List RingLock) (a : Action) : Bool :=
  match a with
  | .retune g r pos _ =>
    pos == 0xFF ||
      ((locks.find? (fun x => decide (x.cage = g ∧ x.ring = r))).any (fun x => tonePass pos.toNat x.tone) &&
        (decide (r.val < 16) ||
          decide (Config.tapFloor g.val (r.val % 8) ≤ rf s (oCage g.val + 0x200 + 4 * (36 + r.val % 8)) 16 16)))
  | _ => true

/-- A ring of a cage that the hitch retunes is mislocked (R357). -/
def mislockFound (s : State) (acts : List Action) : Bool :=
  acts.any (fun a => match a with
    | .retune g _ _ _ => (List.range 24).any (fun r => ringState s g.val r == 4)
    | _ => false)

/-- Every added lane has trained, and a port that was in service keeps MIN_LANES unless its cage leaves LINK
(R308, R327). -/
def lanesTrained (s : State) (h : HitchP) (trained : List (Fin 24 × Fin 8)) : Bool :=
  h.acts.all (fun a => match a with
    | .laneAdd p l => decide ((p, l) ∈ trained)
    | _ => true) &&
  h.up.all (fun p =>
    let left : Bool := match cageOf s p with
      | some g => (List.range 8).all (fun j => roleAfter s h.acts g j != 1)
      | none => false
    left || !h.acts.any (fun a => match a with
      | .laneAdd q _ => q.val == p
      | _ => false) || decide (minLanes s p ≤ maskCount (lanesAfter s h.acts p)))

/-- The codes at which the rings locked. -/
def locksNote (acts : List Action) (locks : List RingLock) (s : State) : State :=
  acts.foldl (fun s a => match a with
    | .retune g r pos _ =>
      if pos = 0xFF then s
      else (match locks.find? (fun x => decide (x.cage = g ∧ x.ring = r)) with
        | some x => rfSet (oRing g.val r.val) 17 4 (strongest x.tone) (ringCode g.val r.val x.code.toNat s)
        | none => s)
    | _ => s) s

/-- HITCH_PREPARED (R288, R308, R327, R349, R352, R357): the preparation ends and the participant votes; rings that
waited have moved by then. -/
def hitchPrepared (num : W16) (locks : List RingLock) (trained : List (Fin 24 × Fin 8)) (s : State) : State :=
  match partOf s num with
  | none => s
  | some h =>
    if h.st ≠ .preparing ∨ h.acts.any (ringWaits s) = true then s
    else
      let s := ringsGo h s
      let h := (partOf s num).getD h
      let bad := (h.acts.filter (fun a => !ringConfirmed s locks a)).filterMap retuneKey
      let cause := if mislockFound s h.acts ∨ h.acts.all (ringConfirmed s locks) = false then 2
        else if lanesTrained s h trained = false then 3
        else 0
      let s := if cause = 0 then h.acts.foldl (fun s a => match a with
        | .laneAdd p l => portMod p.val (fun q => { q with trained := setAdd q.trained l.val }) s
        | _ => s) (locksNote h.acts locks s) else s
      sendRank h.coord (.vote num cause) (partPut { h with st := .voted, bad := bad } s)

/-- Apply one action; lane actions take effect together afterwards. A tap ring's retune sets the weight of its
position (R352, R454). -/
def applyOne (s : State) (a : Action) : State :=
  match a with
  | .regWrite off value mask => writeEffect off.toNat (maskedWord s off.toNat value mask) s
  | .routeEdit p e v => rtSet (if p = 0xFFFF then 24 else p.toNat) e v s
  | .laneAdd _ _ => s
  | .laneRemove _ _ => s
  | .retune g r pos w =>
    if pos = 0xFF then ringPark g.val r.val s
    else
      let s := ringStateSet g.val r.val 3 s
      if 16 ≤ r.val then rfSet (oCage g.val + 0x040 + 4 * (r.val - 16)) 2 13 w.toNat s else s
  | .streamStart off b => writeEffect off.toNat (regVal s off.toNat ||| BitVec.ofNat 32 (2 ^ b.val)) s
  | .cut _ _ => s
  | .stepCommit => s

/-- The ports of cages whose roles a hitch writes. -/
def rolePorts (s : State) (acts : List Action) : List Nat :=
  (acts.filterMap (fun a => match a with
    | .regWrite off _ _ => (match whereIs off.toNat with
      | .cage g o => if 0x040 ≤ o ∧ o < 0x060 then portOfCage s g else none
      | _ => none)
    | _ => none)).dedup

/-- The lane sets of a hitch take effect: those of its lane actions, and of ports whose cages change roles
(R308, R309, R354). -/
def lanesTake (acts : List Action) (before s : State) : State :=
  (lanePorts acts ++ rolePorts before acts).dedup.foldl (fun s p => lanesApply p (lanesAfter before acts p) s) s

/-- Resend, on the new entries, every unacknowledged flit whose destination entry changed; flits held
since PREPARE go out at the release (R324). -/
def resendEdited (edited : List Nat) (s : State) : State :=
  let us := (s.fab.tx.flatMap (fun e => e.2.held)).filter (fun u => decide (injEntry u.flit ∈ edited ∧ u.flit ∉ s.fab.heldInj))
  us.foldl (fun s u => injectGo u.flit s) s

/-- HITCH_COMMITTED (R289): every action is applied, and the participant acknowledges. -/
def hitchCommitted (num : W16) (s : State) : State :=
  match partOf s num with
  | none => s
  | some h =>
    if h.st ≠ .voted then s
    else
      let s := lanesTake h.acts s ((h.acts.filter (fun a => !isStart a)).foldl applyOne s)
      let edited := h.acts.filterMap (fun a => match a with
        | .routeEdit p e _ => if p = 0xFFFF then some e else none
        | _ => none)
      let s := resendEdited edited s
      let s := (h.acts.filter isStart).foldl applyOne s
      sendRank h.coord (.ack num) (coordFollow num .committed (partPut { h with st := .applied } s))

/-- Reopen what a hitch held (R289, R290). -/
def reopen (h : HitchP) (s : State) : State :=
  let s := holdPorts h.num false h.acts (partDrop h.num s)
  laneAddRetry (pumpAll (retryStuck (releaseHeld (swapsResume s))))

/-- HITCH_RELEASE (R289, R308): held objects reopen; a port whose lane set changed resends after ACK (R306,
R309). -/
def hitchRelease (num : W16) (s : State) : State :=
  match partOf s num with
  | none => s
  | some h =>
    if h.st ≠ .applied then s
    else
      let s := reopen h (coordFollow num .done s)
      pumpAll ((lanePorts h.acts).foldl (fun s p => if portState s p = 2 then linkResend p s else s) s)

/-- A participant undoes its preparation (R290, R291); a hitch that it has applied is never undone. -/
def undoBegin (h : HitchP) (s : State) : State :=
  match h.st with
  | .applied => s
  | .undoing => partPut h s
  | _ =>
    let s := h.acts.foldl (fun s a => match a with
      | .laneAdd p l => portMod p.val (fun q => { q with trained := setDel q.trained l.val }) s
      | _ => s) s
    partPut { h with st := .undoing } s

/-- HITCH_ABORTED (R290): also the decision that a participant had not waited for. -/
def hitchAborted (num : W16) (s : State) : State :=
  match partOf s num with
  | none => s
  | some h => undoBegin { h with lone := false } (coordFollow num .aborted s)

/-- HITCH_DECISION_TIMEOUT (R291): the participant aborts on its own account. Whether the coordinator has failed
shows outside; if so, that is a restart-class event, recorded as DEVICE_LOST (assumption 28). -/
def hitchDecisionTimeout (num : W16) (s : State) : State :=
  match partOf s num with
  | none => s
  | some h =>
    if h.st = .applied ∨ h.st = .undoing then s
    else
      let s := if Config.freeNat s.free % 2 = 1 then record cDEVICE_LOST .global 0 .restart (.num h.coord) s else s
      undoBegin { h with lone := true } (bumpFree s)

/-- Rings return to their previous words; those that failed their confirmation are handled as mislocks (R290,
R357). -/
def ringsBack (h : HitchP) (s : State) : State :=
  h.bad.foldl (fun s x => mislock (x / 32) (x % 32) s)
    (h.saved.foldl (fun s x => regSet (oRing (x.1 / 32) (x.1 % 32)) x.2 s) s)

/-- HITCH_UNDO_DONE (R290): every return is confirmed, and the objects are released. A participant that aborted on
its own account has no decision to confirm (R291). -/
def hitchUndoDone (num : W16) (s : State) : State :=
  match partOf s num with
  | none => s
  | some h =>
    if h.st ≠ .undoing then s
    else
      let s := ringsBack h s
      reopen h (if h.lone then s else sendRank h.coord (.ack num) s)

/-! ### Templates (R292) -/

/-- Open one template: a staging refused under R287, here or at another participant, aborts it before PREPARE
with cause 7 (R292). -/
def templateOpen (s : State) (t : Template) : State :=
  let r := hitchNew t.ranks t.limit t.actions .template s
  let mine := actsOf r.1 (ownRank s)
  let bad : Bool := decide (ownRank s ∈ t.ranks ∧ 4 ≤ hitchCount s) || t.ranks.any (fun x => !stagingOk (actsOf r.1 x)) ||
    mine.any (fun a => objTaken s none (objOf a)) || !actsOk s mine t.actions ||
    t.actions.any (fun x => !templateMay x.2 || !actionKind x.2 || decide (x.1 ∉ t.ranks)) ||
    (t.actions.any (fun x => decide (x.1 ≠ ownRank s)) && !othersTake s)
  let t := bumpFree r.2
  if bad then
    record cHITCH_ABORTED .global 0 .report (.num2 r.1.num.toNat 7) (coordPut { r.1 with st := .done, cause := 7 } t)
  else prepareSend r.1 t

/-- The templates whose trigger the device epoch has reached, each once in a step. -/
def templatesRun (s : State) : State :=
  let n := regGet s (oCore 0 + 0x1_0460)
  (s.job.templates.zipIdx).foldl (fun s t =>
    if coordinates s t.1.ranks = true ∧ t.1.trigger = n ∧ t.2 ∉ s.job.opened then
      templateOpen { s with job := { s.job with opened := setAdd s.job.opened t.2 } } t.1
    else s) s

/-! ### The end of a paddock for hitches (R291, R405 step 3) -/

/-- A participant's record is resolved at a paddock stop or a reset: what was not applied is undone. -/
def partResolve (s : State) (h : HitchP) : State :=
  let s := if h.st = .applied then s else ringsBack h (undoBegin h s)
  holdPorts h.num false h.acts (partDrop h.num s)

/-- A coordinator's record is resolved: a hitch not yet decided aborts with cause 6. -/
def coordResolve (s : State) (h : HitchC) : State :=
  match h.st with
  | .preparing =>
    let h := { h with cause := 6 }
    hitchDone { h with st := .aborted } (record cHITCH_ABORTED .global 0 .report (.num2 h.num.toNat 6) s)
  | .committed => hitchDone h s
  | .aborted => hitchDone h s
  | _ => s

/-- Every hitch is resolved, and no lane add waits. -/
def hitchesResolve (s : State) : State :=
  let s := (List.range 24).foldl (fun s p => portMod p (fun q => { q with want := [] }) s) s
  s.hitch.coord.foldl coordResolve (s.hitch.part.foldl partResolve s)

end Sys2Proof.Machine
end

