-- ==== Sys2Proof/Machine/Epoch.lean ====
section
/-!
DEFINITION. Barrier epochs and the step commit (R18 to R23, R186, R283, R390, R397, R399, R401).
-/
namespace Sys2Proof.Machine

/-- DEVICE_EPOCH_CLOSE (R283, R292): the contexts proceed, and templates trigger. -/
def deviceEpochClose (s : State) : State :=
  if allJoined s .device then templatesRun (deviceEpochCloseCore s) else s

/-- A timer of the coordinator that has run out (R390, R401): the count of seconds is uncovered. -/
def timerPassed (s : State) (i : Nat) : Bool := Config.freeNat (s.free + i) % 2 == 1

/-- The paddock epoch is broken: a device has reported a restart-class event, or this one has met one (R284). -/
def epochBroken (s : State) : Bool := s.epoch.broken || s.log.reports.any (fun c => decide (classOf c.1 = .restart))

/-- BARRIER_JOIN_MSG (R283, R284, R390, R397, R401): the coordinator, rank 0, gathers the joins; the last one
closes the epoch on every device. -/
def barrierJoinMsg (rank : Nat) (req : Bool) (interval : Nat) (s : State) : State :=
  if ownRank s ≠ 0 ∨ devices s ≤ rank ∨ rank ∈ s.epoch.joined then s
  else
    let e := s.epoch
    let e' : Epoch := { e with joined := setAdd e.joined rank, req := e.req || req, interval := min e.interval interval }
    if e'.joined.length < devices s ∨ epochBroken s = true then { s with epoch := e' }
    else
      let shadow := e'.req && rf s 0x4008 0 1 == 1 && timerPassed s 0
      let storage := rf s 0x4014 12 1 == 1 && timerPassed s 1
      sendAll (.close shadow storage)
        { s with free := s.free + 2, epoch := { e' with joined := [], req := false, interval := 255, sent := true } }

/-- BARRIER_CLOSE_MSG (R283): the joined contexts proceed; the step commit follows (R19). In a broken epoch they
hold until the paddock stops (R284). -/
def barrierCloseMsg (shadow storage : Bool) (s : State) : State :=
  if allJoined s .step = false ∨ s.epoch.closed.isSome ∨ epochBroken s = true then s
  else epochRelease .step { s with epoch := { s.epoch with closed := some (shadow, storage) } }

/-! ### The step commit -/

/-- Samples of a step (R23): the last entry counts for every later step. -/
def batchOf (batch : List W64) (step : Nat) : W64 := batch.getD (min step (batch.length - 1)) 0

/-- The data cursor at the start of a step (R23). -/
def cursorAt (start : W64) (batch : List W64) (step : Nat) : W64 :=
  let n := batch.length
  let listed := (batch.take step).foldl (fun a b => a + b) 0
  if step ≤ n then start + listed
  else start + listed + BitVec.ofNat 64 ((step - n) * (batchOf batch step).toNat)

/-- The descriptor update of every core table (R186). -/
def descStepAll (s : State) : State :=
  (List.range 32).foldl (fun s n => coreMod n (fun c => { c with
    desc := (c.desc.map (fun e => (e.1, descStep e.2))).filter (fun e => decide (e.2 ≠ descReset)) }) s) s

/-- The shadow slot to write (R400): one without a complete shadow, else the older. -/
def shadowSlot (s : State) : Nat :=
  if rf s 0x4008 1 1 = 0 then 0
  else
    match tabGet none s.ckpt.shadows 0, tabGet none s.ckpt.shadows 1 with
    | none, _ => 0
    | _, none => 1
    | some a, some b => if a ≤ b then 0 else 1

/-- A cut that is not complete fails (R399, R408): its Grooms no longer wait. -/
def cutFail (s : State) : State :=
  match s.ckpt.cut with
  | none => s
  | some _ =>
    let s : State := { s with ckpt := { s.ckpt with cut := none } }
    let s := (List.range 8).foldl (fun s k => groomMod k (fun g => { g with cutWait := false }) s) s
    record cSHADOW_FAILED .global 0 .report .none s

/-- The cut that a commit carries (R22, R399): the core tables are frozen after the update of R186, and
each Groom that has already ended section `step` is frozen with it. A shadow needs a twin (R395). -/
def cutTake (step : Nat) (shadow storage : Bool) (s : State) : State :=
  let sh := shadow && decide (rf s 0x4018 0 3 = 1 ∨ rf s 0x4018 0 3 = 2) && rf s 0x4008 0 1 == 1
  let st := storage && rf s 0x4014 12 1 == 1
  if (sh || st) = false then s
  else
    let s := evAdvance (cutFail s)
    let tables := (List.range 32).foldl (fun t n => tabSet [] t n (coreOf s n).desc) []
    let c : Cut := ⟨BitVec.ofNat 64 step, BitVec.ofNat 64 (reg64 s 0x0018), regGet s 0x0020, s.log.evseq, sh, st,
      shadowSlot s, tables, [], [], [], false⟩
    let s : State := { s with ckpt := { s.ckpt with cut := some c } }
    (List.range 8).foldl (fun s k => if groomSection s k = step + 1 then cutFreeze k step s else s) s

/-- STEP_COMMIT (R19, R283): step, cursor and epoch move together once the paddock epoch has closed and
every hitch of the device is DONE (R294). -/
def stepCommit (s : State) : State :=
  match s.epoch.closed with
  | none => s
  | some (shadow, storage) =>
    if hitchCount s ≠ 0 then s
    else
      let step := reg64 s 0x0010
      let cursor := reg64 s 0x0018
      let s := descStepAll s
      let s := reg64Set 0x0010 ((step + 1) % 2 ^ 64) s
      let s := reg64Set 0x0018 ((cursor + (batchOf s.job.batch step).toNat) % 2 ^ 64) s
      let s := (List.range 32).foldl (fun s n => regSet (oCore n + 0x1_0460) 0 s) s
      let s : State := { s with epoch := { s.epoch with closed := none, sent := false }, job := { s.job with opened := [] } }
      cutTake step shadow storage s

end Sys2Proof.Machine
end

