-- ==== Sys2Proof/Machine/Checkpoint.lean ====
section
/-!
DEFINITION. The health monitor, the twin, the Farrier, and checkpoints (R389 to R403, R407, R408).
-/
namespace Sys2Proof.Machine

/-! ### Risk (R389, R390) -/

/-- Lasers that are on and whose last reading is at or below the warning threshold (R345). -/
def fadedLasers (s : State) (g : Nat) : Nat :=
  (List.range 9).countP (fun l => tabGet 0 (cageSt s g).lasers l % 2 == 1 && decide (0 < tabGet 0 (cageSt s g).warns l))

/-- A laser of the cage is in the swap condition and there is no spare (R348). -/
def swapStarved (s : State) (g : Nat) : Bool :=
  spareState s g != 0 &&
    (List.range 8).any (fun l => tabGet 0 (cageSt s g).lasers l % 2 == 1 && decide (2 ≤ tabGet 0 (cageSt s g).swaps l))

/-- The standing terms of R389. -/
def standing (s : State) : Nat :=
  ((List.range 12).map (fun g => 8192 * fadedLasers s g)).sum +
  (if (List.range 12).any (swapStarved s) then 16384 else 0) +
  ((List.range 8).map (fun k => match rf s (oHbm k + 0x008) 3 2 with
    | 0 => 0 | 1 => 4096 | _ => 12288)).sum +
  ((List.range 24).map (fun p =>
    if (portState s p = 2 ∨ portState s p = 3) ∧ maskCount (portActive s p) < 8 then 2048 else 0)).sum +
  (if twinState s ∈ [2, 3, 4] then 8192 else 0)

/-- `f` is 2^(32 − t ÷ H) rounded down: what is left, in units of 2^-32, of a term `t` milliseconds old with a
half-life of `half` minutes (R389). -/
def decayIs (half t f : Nat) : Bool :=
  let n := 60000 * half
  decide (f ^ n * 2 ^ t ≤ 2 ^ (32 * n) ∧ 2 ^ (32 * n) < (f + 1) ^ n * 2 ^ t)

/-- `decay` gives for each event term what is left of it at GLB_RISK_CTRL.HALF. -/
def decayOk (s : State) (decay : List Nat) : Bool :=
  decide (decay.length = s.log.terms.length) &&
    (s.log.terms.zip decay).all (fun x => decayIs (rf s 0x4004 16 8) x.1.2 x.2)

/-- The event terms of R389. -/
def eventTerms (s : State) (decay : List Nat) : Nat := ((s.log.terms.zip decay).map (fun x => x.1.1 * x.2)).sum / 2 ^ 32

/-- Statuses that wait to be reported go to the coordinator (R405 step 1), with the rank they concern (R396); one of
restart class breaks the paddock epoch (R284). -/
def reportsSend (s : State) : State :=
  if devices s = 0 then { s with log := { s.log with reports := [] } }
  else
    s.log.reports.foldl (fun s c => sendRank 0 (.report (c.2.getD (ownRank s)) c.1) s)
      { s with epoch := { s.epoch with broken := epochBroken s }, log := { s.log with reports := [] } }

/-- Every event term is a millisecond older. -/
def termsAge (s : State) : State := { s with log := { s.log with terms := s.log.terms.map (fun e => (e.1, e.2 + 1)) } }

/-- RISK_TICK (R389, R390), every millisecond. -/
def riskTick (decay : List Nat) (s : State) : State :=
  if decayOk s decay = false then s
  else
    let risk := min 65535 (standing s + eventTerms s decay)
    let was := rf s 0x4000 16 1
    let now := b2n (decide (rf s 0x4004 0 16 ≤ risk))
    let s := rfSet 0x4000 16 1 now (rfSet 0x4000 0 16 risk (termsAge s))
    let s := if was = 0 ∧ now = 1 then record cRISK_HIGH .global 0 .report (.num risk) s else s
    reportsSend s

/-! ### The twin (R395 to R397) -/

/-- Set the twin state. -/
def twinSet (v : Nat) (s : State) : State := rfSet 0x4018 0 3 v s

/-- TWIN_PAIRING (R395, R397): the twin's hall address, side and feed arrive. CO_FED stays until a reset. -/
def twinPairing (h : BitVec 13) (side : BitVec 1) (feed : BitVec 3) (s : State) : State :=
  let s := rfSet 0x4018 9 13 h.toNat (rfSet 0x4018 6 3 feed.toNat s)
  if twinState s = 2 then s
  else if side = s.boot.straps.twinSide then record cTWIN_CONFLICT .twin 0 .report .none (twinSet 0 s)
  else if feed = s.boot.straps.feedId then msix 3 (record cCO_FED .twin 0 .report .none (twinSet 2 s))
  else if member s h.toNat then twinSet 1 s
  else twinSet 4 s

/-- TWIN_HEARTBEAT (R396). -/
def twinHeartbeat (s : State) : State := if paired s then sendTo (twinHaddr s) .heartbeat s else s

/-- A shadow that is being written fails (R408). -/
def shadowFail (s : State) : State :=
  match s.ckpt.cut with
  | none => s
  | some c =>
    if c.shadow = false then s
    else if c.storage then
      record cSHADOW_FAILED .global 0 .report .none { s with ckpt := { s.ckpt with cut := some { c with shadow := false } } }
    else cutFail s

/-- TWIN_HEARTBEAT_TIMEOUT (R396, R408). CO_FED is left only at a reset (R397). -/
def twinHeartbeatTimeout (s : State) : State :=
  if paired s = false then s
  else
    let s := shadowFail (record cTWIN_LOST .twin 0 .masked .none (if twinState s = 2 then s else twinSet 3 s))
    match rankOf s (twinHaddr s) with
    | some r => record cDEVICE_LOST .twin 0 .restart (.num r) s
    | none => s

/-- SOLO and the member check are made again at a restart (R396): a twin that is not a member leaves the device
SOLO, a lost one too; a member is PAIRED unless it is lost. -/
def twinReview (s : State) : State :=
  if member s (twinHaddr s) then (if twinState s = 4 then twinSet 1 s else s)
  else if twinState s = 1 ∨ twinState s = 3 then twinSet 4 s
  else s

/-! ### The Farrier (R392, R394) -/

/-- FARRIER_LANE_REPAIR (R392, R394). A lane add waits while a hitch holds the port (R408). A fourth shed in an hour
leaves the lane out until the next restart; whether the three adds before it are of that hour is uncovered. A fault of
the channel leaves it out until a reset, with the spare in place that step 2 has switched in. -/
def farrierLaneRepair (p lane : Nat) (r : RepairResult) (s : State) : State :=
  let q := portOf s p
  let n := tabGet 0 q.adds lane
  if laneActive s p lane = true ∨ lane ∈ q.barred ∨ lane ∈ q.broken then s
  else
    let add (s : State) : State := laneAddHitch p [lane] (portMod p (fun q => { q with adds := tabSet 0 q.adds lane (n + 1) }) s)
    let spare (next : State → State) (s : State) : State :=
      if rf s 0x404C p 1 = 1 then
        record cSPARE_EXHAUSTED .port p .report (.num lane) { s with boot := { s.boot with exhausted := true } }
      else next (rfSet 0x404C p 1 1 s)
    let fourth : Bool := decide (3 ≤ n) && Config.freeNat s.free % 2 == 0
    let s := if 3 ≤ n then bumpFree s else s
    if fourth then portMod p (fun q => { q with barred := setAdd q.barred lane }) s
    else
      match r with
      | .retrained => add s
      | .spareSwitched => spare add s
      | .channel => spare (fun s => s) (portMod p (fun q => { q with broken := setAdd q.broken lane }) s)

/-- The stalls that get their die's spare, and those that find none (R391, R394). -/
def stallsPlace (used : List Nat) : List Nat → List Nat × List Nat
  | [] => (used, [])
  | i :: l =>
    if used.any (fun j => j / 32 == i / 32) then
      let r := stallsPlace used l
      (r.1, i :: r.2)
    else stallsPlace (used ++ [i]) l

/-- Rows of stacks that are repaired, and those that find no resource left. -/
def pprPlace (used : List (Nat × Nat)) : List (Nat × Nat) → List (Nat × Nat) × List (Nat × Nat)
  | [] => (used, [])
  | x :: l =>
    if used.countP (fun y => y.1 == x.1) < Config.pprRows x.1 then pprPlace (used ++ [x]) l
    else
      let r := pprPlace used l
      (r.1, x :: r.2)

/-- The stack and row of a poisoned sector, by its global number. -/
def rowOfSector (x : Nat) : Nat × Nat := (stackOf (x * 32), Config.hbmRow (stackOf (x * 32)) x)

/-- The sectors of repaired rows are good again; what they hold is not given (assumption 96). -/
def rowsGood (rows : List (Nat × Nat)) (s : State) : State :=
  (s.mem.badHbm.filter (fun x => decide (rowOfSector x ∈ rows))).foldl (fun s x =>
    { s with free := s.free + 32, mem := { s.mem with
      badHbm := setDel s.mem.badHbm x, poison := setDel s.mem.poison x,
      bytes := tabSplice s.mem.bytes (x * 32) ((List.range 32).map (fun i => Config.freeByte (s.free + i))) } }) s

/-- The Farrier repair step of a restart (R142, R391, R393, R394, R405 step 5): failing rows and stalls get
their spares, and the rows of poisoned sectors are repaired soft. A number whose spare row is in service keeps it
when its die's spare stall takes the number, and finds no second one (the spec says nothing of a spare stall's own
spare row: DESIGN CHOICE, assumption 100). -/
def farrierRepair (rows stalls : List (Fin 256)) (s : State) : State :=
  let f := markSparing rows stalls s.boot.farrier
  let rowsLeft := f.rowsPend.filter (fun i => decide (i ∈ f.rows))
  let st := stallsPlace f.stalls f.stallsPend
  let bad := ((s.mem.poison.map rowOfSector).dedup).filter (fun x => decide (x ∉ f.hard ++ f.soft))
  let ppr := pprPlace (f.hard ++ f.soft) bad
  let f' : Farrier := { f with rows := f.rowsPend.foldl setAdd f.rows, rowsPend := rowsLeft, stalls := st.1, stallsPend := st.2,
                               soft := ppr.1.filter (fun x => decide (x ∉ f.hard)) }
  let s := rowsGood (ppr.1.filter (fun x => decide (x ∈ bad))) { s with boot := { s.boot with farrier := f' } }
  if rowsLeft = [] ∧ st.2 = [] ∧ ppr.2 = [] then s
  else record cSPARE_EXHAUSTED .global 0 .report .none { s with boot := { s.boot with exhausted := true } }

/-! ### Manifests (R403) -/

/-- A descriptor table as bytes: 64 for each of `n` descriptors. -/
def tableBytes (t : Tab (BitVec 512)) (n : Nat) : List Byte :=
  (List.range n).flatMap (fun i => leBytes 64 (tabGet descReset t i).toNat)

/-- The descriptor snapshot of a cut (R398): 32 core tables, then 8 Groom tables. -/
def snapshotBytes (c : Cut) : List Byte :=
  (List.range 32).flatMap (fun n => tableBytes (tabGet [] c.coreDesc n) 4096) ++
    (List.range 8).flatMap (fun k => tableBytes (tabGet [] c.groomDesc k) 1024)

/-- Base address and length in grains of a resume range (R409). -/
def rangeOf (s : State) (i : Nat) : Nat × Nat :=
  ((regGet s (oRange i 0)).toNat + (regGet s (oRange i 1)).toNat * 2 ^ 32, (regGet s (oRange i 2)).toNat)

/-- Bytes of a range. -/
def rangeBytes (s : State) (r : Nat × Nat) : List Byte := memRead s r.1 (256 * r.2)

/-- The manifest of a cut (R403): `kind` 0 shadow, 1 storage. -/
def manifestBytes (s : State) (c : Cut) (kind : Nat) : List Byte :=
  let used := (List.range 64).countP (fun i => decide (0 < (rangeOf s i).2))
  let head : List Byte :=
    [0x4F, 0x56, 0x41, 0x4D] ++ leBytes 2 1 ++ leBytes 1 kind ++ leBytes 1 (if kind = 0 then c.slot else 0) ++
    leBytes 2 (rf s (oCommon + 4) 0 16) ++ leBytes 2 (ownRank s) ++ leBytes 2 (devices s) ++ leBytes 2 used ++
    leBytes 8 ((c.step.toNat + 1) % 2 ^ 64) ++ leBytes 8 c.cursor.toNat ++ leBytes 4 c.epoch.toNat ++ leBytes 4 0 ++
    leBytes 16 s.job.seed.toNat ++
    (Config.shapeDigest s.job.shape.cuts s.job.shape.assign s.job.shape.heritage ++ List.replicate 32 0).take 32 ++
    (s.job.digest ++ List.replicate 32 0).take 32 ++ leBytes 8 c.evseq.toNat
  let ranges := (List.range 64).flatMap (fun i =>
    let r := rangeOf s i
    leBytes 6 r.1 ++ leBytes 2 0 ++ leBytes 4 r.2 ++
      leBytes 4 (if r.2 = 0 then 0 else (imageCheck (rangeBytes s r) i).toNat))
  let body := head ++ ranges ++ leBytes 4 (imageCheck (snapshotBytes c) 64).toNat ++ List.replicate 2936 0
  body ++ leBytes 4 (crc32c body).toNat

/-- The ranges in use, with their numbers. -/
def usedRanges (s : State) : List (Nat × Nat) :=
  ((List.range 64).map (rangeOf s)).filter (fun r => decide (0 < r.2))

/-- The shadow engine reads bytes of memory (R228, R238): whether it meets a fault, and the state. -/
def engineRead (a n : Nat) (s : State) : Bool × State :=
  let r := readErrors a n s
  (r.1.isSome, if r.1.isSome then r.2 else hbmAccess a n 0 false r.2)

/-- The shadow engine reads the ranges in use; a range that cannot be read whole ends the cut (R399). -/
def rangesRead (s : State) : Bool × State :=
  (usedRanges s).foldl (fun (x : Bool × State) r =>
    if x.1 = true ∨ hbmTop < r.1 + 256 * r.2 then (true, x.2) else engineRead r.1 (256 * r.2) x.2) (false, s)

/-! ### Writing a cut (R400, R401) -/

/-- A flit of a checkpoint image (R401): KIND 1, OP 6, PH 1, VC 1, the grain index and the low bits of the step. To
another device it carries a shadow, with the slot in TAG (R400 gives no format: DESIGN CHOICE, assumption 35). -/
def imageFlit (s : State) (dst slot step idx : Nat) (data : List Byte) : Flit :=
  ⟨BitVec.ofNat 128 (1 * 2 ^ 126 + 1 * 2 ^ 124 + dst * 2 ^ 111 + dst * 2 ^ 98 + haddr s * 2 ^ 85 + 1 * 2 ^ 84 +
    idx % 2 ^ 44 * 2 ^ 40 + step % 2 ^ 16 * 2 ^ 24 + 6 * 2 ^ 21 + slot % 32 * 2 ^ 16), data⟩

/-- Send an image as flits: the snapshot and the ranges, and the manifest last (R400 step 3, R401). -/
def imageSend (dst slot step : Nat) (manifest rest : List Byte) (s : State) : State :=
  let go (first : Nat) (b : List Byte) (s : State) : State :=
    ((grains (b.length / 256) b).zipIdx first).foldl (fun s g =>
      spaceSend dst 0 ⟨0, imageFlit s dst slot step g.2 g.1, none, []⟩ s) s
  pumpAll (go 0 manifest (go 16 rest s))

/-- The bytes of a cut beside its manifest: the snapshot, and the ranges in table order (R403). -/
def cutBytes (s : State) (c : Cut) : List Byte := snapshotBytes c ++ (usedRanges s).flatMap (rangeBytes s)

/-- Send the image of a storage checkpoint in the space of the device with itself (R401). -/
def storageSend (c : Cut) (s : State) : State :=
  imageSend (haddr s) 0 (c.step.toNat + 1) (manifestBytes s c 1) (cutBytes s c) s

/-- Send the shadow of a cut to the twin (R400). -/
def shadowSend (c : Cut) (s : State) : State :=
  let t : State := { s with ckpt := { s.ckpt with shadows := tabSet none s.ckpt.shadows c.slot none } }
  imageSend (twinHaddr s) c.slot (c.step.toNat + 1) (manifestBytes s c 0) (cutBytes s c)
    (emit (.shadow c.slot (manifestBytes s c 0) (snapshotBytes c) ((usedRanges s).map (fun r => (r.1, rangeBytes s r)))) t)

/-- Send the shadow that a slot holds to the device that restores from it, from the snapshot on: the coordinator has
its manifest (R405 step 8). A grain that cannot be read is not sent. -/
def servingSend (x : Serving) (s : State) : State :=
  let b := slotBase s x.slot
  let n := imageGrains (slotBytes s x.slot 16)
  ((List.range n).drop 16).foldl (fun s i =>
    let r := engineRead (b + 256 * i) 256 s
    if r.1 then r.2
    else spaceSend x.dest 0 ⟨0, imageFlit r.2 x.dest x.slot x.step.toNat i (memRead r.2 (b + 256 * i) 256), none, []⟩ r.2) s

/-- The shadows that this device is to send go out; one whose stacks let it wait goes later (R227, R233). -/
def servingGo (s : State) : State :=
  let waits (x : Serving) : Bool := stackWaits s (slotBase s x.slot) (slotSize s)
  let now := s.ckpt.serving.filter (fun x => !waits x)
  if now = [] then s
  else pumpAll (now.foldl (fun s x => servingSend x s) { s with ckpt := { s.ckpt with serving := s.ckpt.serving.filter waits } })

/-- The cut's stream (R399 to R401): once every Groom has reached GEND of the cut's section; the shadow
first, then the storage image from the same snapshot (R408). It waits while the stacks of its ranges do (R227, R233). -/
def cutStream (s : State) : State :=
  match s.ckpt.cut with
  | none => s
  | some c =>
    if c.streamed = true ∨ c.frozen.length ≠ 8 ∨ (usedRanges s).any (fun r => stackWaits s r.1 (256 * r.2)) = true then s
    else
      let r := rangesRead s
      if r.1 then cutFail r.2
      else
        let s : State := { r.2 with ckpt := { r.2.ckpt with cut := some { c with streamed := true } } }
        let s := if c.shadow then shadowSend c s else s
        if c.storage then storageSend c s else s

/-- SHADOW_STREAM (R399 to R401, R405 step 8): the shadow engine sends the cut, and the shadows that a restart has
asked this device for. -/
def shadowStream (s : State) : State := cutStream (servingGo s)

/-- A cut without work left is over. -/
def cutClose (c : Cut) (s : State) : State :=
  { s with ckpt := { s.ckpt with cut := if c.shadow ∨ c.storage ∨ c.read.length ≠ 8 then some c else none } }

/-- SHADOW_ACK (R400 steps 4 and 5). -/
def shadowAck (slot : Nat) (step : W64) (s : State) : State :=
  match s.ckpt.cut with
  | none => s
  | some c =>
    if c.shadow = false ∨ c.streamed = false ∨ c.slot ≠ slot ∨ c.step + 1 ≠ step then s
    else
      let s : State := { s with ckpt := { s.ckpt with shadows := tabSet none s.ckpt.shadows slot (some step) } }
      health 0 none (cutClose { c with shadow := false } s)

/-- Storage flits of the space of the device with itself that are not yet acknowledged (R401). -/
def storageLeft (s : State) : Bool :=
  let t := txOf s (txKey (haddr s) 0)
  (t.held ++ t.waiting).any (fun u => isStorage s u.flit)

/-- STORAGE_CKPT_DONE (R401): GLB_CKPT_STEP takes the step. -/
def storageCkptDone (s : State) : State :=
  match s.ckpt.cut with
  | none => s
  | some c =>
    if c.storage = false ∨ c.streamed = false ∨ storageLeft s then s
    else health 1 none (cutClose { c with storage := false } (reg64Set 0x4040 (c.step + 1).toNat s))

/-- CUT_STATE_READ (R266, R399): the engine reads while it streams; a cut with no writing left is over. -/
def cutStateReadCmd (k : Nat) (s : State) : State :=
  if s.ckpt.cut.any (fun (c : Cut) => c.streamed) = false then s
  else
    let s := cutStateRead k s
    match s.ckpt.cut with
    | none => s
    | some c => cutClose c s

end Sys2Proof.Machine
end

