-- ==== Sys2Proof/Machine/Lowering.lean ====
section
/-!
DEFINITION. The lowering of a tile operation of a portable image (R35 to R37, R118 to R120, R131, R174): its output
tiles, its depth in k-steps, the chains and slabs that depth stands on, the bindings of an image, the Manger ranges
that an operation takes, and its COPY, TMUL and TRG words for one micro-batch.
-/
namespace Sys2Proof.Machine

/-! ### Shapes -/

/-- A legal portable tile operation (R35, R102): dimensions from 1 to 1,048,576, a mode with formats that
it admits, a scale for each row and column or none, a zero point for each in INT8 or none, the ordered class for BF16 alone, chunks
that take every depth once, and up to 256 experts of which a gate picks 1 to 8 (R373). Fillers are no part of a portable
image's work (DESIGN CHOICE, assumption 39). -/
def tileLegal (o : TileOp) : Bool :=
  let dim (x : Nat) : Bool := decide (1 ≤ x ∧ x ≤ 1048576)
  let f : TmulF := ⟨0, 0, 0, o.mode, o.fmta, o.fmtb, o.fmtc, 0, 0, 0, 0, 2⟩
  dim o.m && dim o.n && dim o.k && tmulOk f && (o.ordered == (o.fmta == 4)) &&
    decide ((o.rowScale = [] ∧ o.colScale = []) ∨
      (o.rowScale.length = o.m ∧ o.colScale.length = o.n ∧ o.fmtc ≠ 7)) &&
    decide ((o.rowZero = [] ∧ o.colZero = []) ∨
      (o.rowZero.length = o.m ∧ o.colZero.length = o.n ∧ o.mode = 0 ∧ o.fmta = 3 ∧ o.fmtc ≠ 7 ∧ o.gathered = none)) &&
    decide (o.gathered = none ∨ o.fmtc ≠ 7) && decide (o.queue ≠ .X) &&
    decide (o.topk = 0 ∨ (o.topk ≤ 8 ∧ o.topk ≤ o.n ∧ o.n ≤ 256 ∧ o.fmtc = 4 ∧ o.queue = .F)) &&
    (if o.ordered then (o.chunks.flatMap (fun c => List.range' c.1 c.2)).isPerm (List.range o.k) else o.chunks == [])

/-- The depths of an operation in the order its k-steps take them: the chunks as the image lists them for
the ordered class, and ascending order otherwise (R35, R36, R174). -/
def tileDepths (o : TileOp) : List Nat :=
  if o.ordered then o.chunks.flatMap (fun c => List.range' c.1 c.2) else List.range o.k

/-- The k-steps of a depth (R103, R118): two depths each in FP4, where an odd depth takes one zero
element; half a depth each in BF16; one depth each otherwise. -/
def tileKsteps (o : TileOp) : Nat :=
  if o.fmta = 0 then ceilDiv o.k 2 else if o.fmta = 4 then 2 * o.k else o.k

/-- Output tiles of an operation by row and column (R118 step 1). -/
def tileGrid (o : TileOp) : Nat × Nat := (ceilDiv o.m 128, ceilDiv o.n 128)

/-- Rows of A that tile row `i` fills with zeros (R118 step 2). -/
def tilePadRows (o : TileOp) (i : Nat) : Nat := 128 * (i + 1) - min o.m (128 * (i + 1))

/-- Columns of B that tile column `j` fills with zeros (R118 step 2). -/
def tilePadCols (o : TileOp) (j : Nat) : Nat := 128 * (j + 1) - min o.n (128 * (j + 1))

/-- The most k-steps of one TMUL (R118 step 4). -/
def kmax (bf16 : Bool) : Nat := if bf16 then 16382 else 16383

/-- The slab lengths of `kk` k-steps on one chain (R118). In BF16 an odd length is rounded up to even and
the last slab takes the remainder; rounding down could take the last one past kmax (DEDUCED,
assumption 76). -/
def slabs (bf16 : Bool) (kk : Nat) : List Nat :=
  let q := ceilDiv kk (kmax bf16)
  let len (i : Nat) : Nat := kk * (i + 1) / q - kk * i / q
  if bf16 then
    let l := (List.range (q - 1)).map (fun i => len i + len i % 2)
    l ++ [kk - l.sum]
  else (List.range q).map len

/-- The most k-steps that a chain holds (R131): ordered-class chains have no limit. -/
def chainMost (bf16 : Bool) (kk : Nat) : Nat := if bf16 then kk else 262144

/-- The depth of an output tile stays on one chain (R119, R174); where it may be spread, the loader keeps it there
under column scales that arrive with a gather, which only a drain applies (DESIGN CHOICE, assumption 39). -/
def tileOneChain (o : TileOp) (heritage : Bool) : Bool :=
  o.ordered || decide (o.mode = 1 ∨ o.mode = 2) || (heritage && decide (o.mode = 0)) ||
    o.gathered.isSome

/-- The k-steps of each part of an output tile's depth: one part where the depth stays on one chain, and
otherwise as many as the loader spreads it over, at least as many as R131 needs and at most as many as a core has
stalls (R119, R131). The parts are as even as the slabs of R118 (DESIGN CHOICE, assumption 39). -/
def tileParts (o : TileOp) (heritage : Bool) (spread : Nat) : List Nat :=
  let kk := tileKsteps o
  if tileOneChain o heritage then [kk]
  else
    let p := min kk (max (ceilDiv kk 262144) (min 8 spread))
    (List.range p).map (fun i => kk * (i + 1) / p - kk * i / p)

/-- Every chain of an operation keeps the limit of R131 (R38, R131, R174). -/
def tileDepthFits (o : TileOp) (heritage : Bool) : Bool :=
  (tileParts o heritage 1).all (fun k => decide (k ≤ chainMost o.ordered k))

/-! ### The order of the depth (R36, R118) -/

/-- The k-steps of an operation in the order its chain takes them, as stretches of first k-step and length: the chunks
of the ordered class as the image lists them, chunks that follow each other in depth as one. -/
def depthRuns (o : TileOp) : List (Nat × Nat) :=
  if o.ordered then
    o.chunks.foldr (fun c l =>
      match l with
      | y :: ys => if 2 * (c.1 + c.2) = y.1 then (2 * c.1, 2 * c.2 + y.2) :: ys else (2 * c.1, 2 * c.2) :: l
      | [] => [(2 * c.1, 2 * c.2)]) []
  else [(0, tileKsteps o)]

/-- Stretches of k-steps cut where a slab ends: each TMUL's first k-step and its length, in the order of the
stretches. -/
def cutRuns (runs : List (Nat × Nat)) (slabs : List Nat) : List (Nat × Nat) :=
  (runs.zipIdx).flatMap (fun x =>
    let p := ((runs.take x.2).map (fun y => y.2)).sum
    (slabs.zipIdx).filterMap (fun y =>
      let b := (slabs.take y.2).sum
      let lo := max p b
      let hi := min (p + x.1.2) (b + y.1)
      if lo < hi then some (x.1.1 + (lo - p), hi - lo) else none))

/-- First k-step and length of each TMUL of part `p` of the depth (R118): the slabs of its length, cut also where the
listed order jumps. -/
def partRuns (o : TileOp) (parts : List Nat) (p : Nat) : List (Nat × Nat) :=
  let kk := parts.getD p 0
  cutRuns (if o.ordered then depthRuns o else [((parts.take p).sum, kk)]) (slabs o.ordered kk)

/-! ### Bindings (R120) -/

/-- A size rounded up to a step. -/
def upTo (step n : Nat) : Nat := ceilDiv n step * step

/-- Bytes of a core's Manger that a binding takes, in units of 64 B (R85, R103). -/
def bindMangerOf (n : Nat) (b : Bind) : Nat :=
  match b with
  | .depth c k => if c.val = n then upTo 64 (128 * k) else 0
  | .drain c f => if c.val = n then upTo 64 (fmtBytes f.val 16384) else 0
  | .manger c x => if c.val = n then upTo 64 x else 0
  | _ => 0

/-- Bytes of a die's Loft that a binding takes, in grains. -/
def bindLoftOf (d : Nat) (b : Bind) : Nat :=
  match b with
  | .loft e x => if e.val = d then upTo 256 x else 0
  | _ => 0

/-- Bytes of a stack that a binding takes, in grains. -/
def bindHbmOf (k : Nat) (b : Bind) : Nat :=
  match b with
  | .hbm e x => if e.val = k then upTo 256 x else 0
  | _ => 0

/-- A binding takes a descriptor of core `n`. -/
def bindDescOf (n : Nat) (b : Bind) : Bool :=
  match b with
  | .descriptor c => c.val == n
  | _ => false

/-- A binding takes a region lock of core `n`. -/
def bindLockOf (n : Nat) (b : Bind) : Bool :=
  match b with
  | .lock c => c.val == n
  | _ => false

/-- A binding takes a sync counter of core `n`. -/
def bindCtrOf (n : Nat) (b : Bind) : Bool :=
  match b with
  | .counter c => c.val == n
  | _ => false

/-- A binding takes a completion count of core `n`. -/
def bindCountOf (n : Nat) (b : Bind) : Bool :=
  match b with
  | .count c => c.val == n
  | _ => false

/-- A binding takes a descriptor of Groom `n`. -/
def bindGroomDescOf (n : Nat) (b : Bind) : Bool :=
  match b with
  | .groomDescriptor c => c.val == n
  | _ => false

/-- A binding takes a completion count of Groom `n`. -/
def bindGroomCountOf (n : Nat) (b : Bind) : Bool :=
  match b with
  | .groomCount c => c.val == n
  | _ => false

/-- The bindings of an image fit the device: the Manger, descriptors (4,096), region locks (1,024), sync
counters (256) and completion counts (512) of each core; the descriptors (1,024) and completion counts
(256) of each Groom; Lofts and stacks (R4, R38, R55, R85 to R89, R120, R271). -/
def bindsFit (l : List Bind) : Bool :=
  (List.range 32).all (fun n =>
    decide ((l.map (bindMangerOf n)).sum ≤ mangerSize) && decide (l.countP (bindDescOf n) ≤ 4096) &&
    decide (l.countP (bindLockOf n) ≤ 1024) && decide (l.countP (bindCtrOf n) ≤ 256) && decide (l.countP (bindCountOf n) ≤ 512)) &&
  (List.range 8).all (fun k =>
    decide ((l.map (bindLoftOf k)).sum ≤ loftSize) && decide ((l.map (bindHbmOf k)).sum ≤ hbmTop / 8) &&
    decide (l.countP (bindGroomDescOf k) ≤ 1024) && decide (l.countP (bindGroomCountOf k) ≤ 256))

/-- What the loader binds a binding to (R120): a range of memory to its device data address, a descriptor, a lock or a
counter to its number, a completion count to its handle (R88). Each follows those of its kind that stand before it;
the bindings of a stack take the addresses in order from 80 GiB times its number, since the hash of R219 spreads every
address range over all stacks (DESIGN CHOICE, assumption 39). -/
def bindVal (l : List Bind) (i : Nat) : Nat :=
  let before := l.take i
  let manger (n : Nat) : Nat := mangerBase n + (before.map (bindMangerOf n)).sum
  match l[i]? with
  | some (.depth c _) | some (.drain c _) | some (.manger c _) => manger c
  | some (.descriptor c) => before.countP (bindDescOf c)
  | some (.groomDescriptor k) => before.countP (bindGroomDescOf k)
  | some (.lock c) => before.countP (bindLockOf c)
  | some (.counter c) => before.countP (bindCtrOf c)
  | some (.count c) => before.countP (bindCountOf c)
  | some (.groomCount k) => (k.val + 1) * 4096 + before.countP (bindGroomCountOf k)
  | some (.loft d _) => loftBase d + (before.map (bindLoftOf d)).sum
  | some (.hbm k _) => k.val * (hbmTop / 8) + (before.map (bindHbmOf k)).sum
  | none => 0

/-! ### The Manger of an operation -/

/-- The depth of an output tile has several parts. -/
abbrev partsSplit (parts : List Nat) : Bool := decide (1 < parts.length)

/-- INT8 operands with zero points (R189). -/
abbrev zeroed (o : TileOp) : Bool := !o.rowZero.isEmpty

/-- The output is scaled. -/
abbrev scaled (o : TileOp) : Bool := !o.rowScale.isEmpty || o.gathered.isSome

/-- The scales are applied by the drain itself (R139): on one chain without zero points. -/
def drainScales (o : TileOp) (parts : List Nat) : Bool := scaled o && !partsSplit parts && !zeroed o

/-- Bytes of a panel of an operand: 128 rows, or columns, of the whole depth, in whole tensor blocks (R87, R103). -/
def panelBytes (o : TileOp) (f : BitVec 3) : Nat := ceilDiv o.k 128 * blockBytes f.toNat

/-- An exponent of a scale that a row or column carries, zero for one that the operation does not have. -/
def scaleAt (l : List Byte) (i : Nat) : Int := (l.getD i 0).toInt

/-- The BF16 code of 2^e, for e from -133 to 127 (R144). -/
def bfPow (e : Int) : Nat := if -126 ≤ e then 128 * (e + 127).toNat else 2 ^ (e + 133).toNat

/-- The tiles of powers of two that scale output tile (i, j) in the Trough (R216): P[r, c] = 2^(row + column), or where
some sum is outside BF16 one tile of the row scales and one of the column scales (DEDUCED, assumption 39: both
products are exact in a lane, R198). -/
def powTiles (o : TileOp) (i j : Nat) : List (List Byte) :=
  let row (r : Nat) : Int := scaleAt o.rowScale (128 * i + r)
  let col (c : Nat) : Int := scaleAt o.colScale (128 * j + c)
  let tile (f : Nat → Nat → Int) : List Byte :=
    (List.range 16384).flatMap (fun e => leBytes 2 (bfPow (f (e / 128) (e % 128))))
  let fits : Bool := (List.range 128).all (fun r => (List.range 128).all (fun c => decide (-133 ≤ row r + col c ∧ row r + col c ≤ 127)))
  if fits then [tile (fun r c => row r + col c)] else [tile (fun r _ => max (-128) (row r)), tile (fun _ c => col c)]

/-- A scale block (R178): entries, KIND and FMT, with tag 0. -/
def loadedScales (l : List Byte) (kind : Nat) (f : BitVec 3) : List Byte :=
  (List.range 128).map (fun n => l.getD n 0) ++ leBytes 2 0 ++ [BitVec.ofNat 8 kind, f.setWidth 8] ++ List.replicate 124 0

/-- The Manger bytes at which the pieces of an operation lie. What is put there once: row and column scale blocks, the
power tiles of each output tile, zero points of rows and columns, ones, the wait of a gathered operand, the ladder and
the words of a gate and the records it makes. What is worked in, and shared with the other operations of its queue:
panels of A and B, output tiles, X64 parts, the INT8 sums and corrections, and a gate's scores and counts. -/
structure Plan where
  rows : Nat
  cols : Nat
  pow : Nat
  rowZ : Nat
  colZ : Nat
  ones : Nat
  arrive : Nat
  ladder : Nat
  gate : Nat
  picks : Nat
  fixedEnd : Nat
  a : Nat
  b : Nat
  c : Nat
  x : Nat
  rowSum : Nat
  colSum : Nat
  corr : Nat
  conv : Nat
  score : Nat
  tally : Nat
  workEnd : Nat
deriving DecidableEq, Repr

/-- Bytes that all power tiles of an operation take. -/
def powBytes (o : TileOp) (parts : List Nat) : Nat :=
  if (scaled o && !drainScales o parts) || zeroed o then
    2 * 32768 * ((tileGrid o).1 * (tileGrid o).2) else 0

/-- The ranges of an operation, from where what is put once begins and from where what is worked in begins, for `m`
micro-batches. -/
def planAt (o : TileOp) (parts : List Nat) (m fixed work : Nat) : Plan :=
  let g := tileGrid o
  let z := b2n (zeroed o)
  let t := b2n (decide (o.topk ≠ 0))
  let rows := fixed
  let cols := rows + g.1 * 256
  let pow := upTo 8192 (cols + g.2 * 256)
  let rowZ := pow + powBytes o parts
  let colZ := rowZ + z * g.1 * 1024
  let ones := colZ + z * g.2 * 1024
  let arrive := ones + z * (128 * min (tileKsteps o) 16383)
  let ladder := upTo 64 (arrive + 16)
  let gate := ladder + t * 2 * 128 * o.n
  let picks := gate + t * g.1 * 80
  let fixedEnd := upTo 8192 (picks + t * m * o.m * 16)
  let b := work + g.1 * panelBytes o o.fmta
  let c := b + g.2 * panelBytes o o.fmtb
  let x := c + g.1 * g.2 * blockBytes o.fmtc.toNat
  let rowSum := x + (if partsSplit parts || zeroed o then parts.length * 131072 else 0)
  let colSum := rowSum + z * g.1 * 131072
  let corr := colSum + z * g.2 * 131072
  let conv := corr + z * (g.1 * g.2) * 131072
  let score := conv + t * 40960
  let tally := score + t * 32768
  ⟨rows, cols, pow, rowZ, colZ, ones, arrive, ladder, gate, picks, fixedEnd, work, b, c, x, rowSum, colSum, corr, conv, score, tally, tally + t * 262144⟩

/-! ### Words -/

/-- A header that waits on a counter and signals one, with their amounts. -/
def hdrAt (wait signal : Nat × Nat) : Hdr :=
  ⟨if wait.2 = 0 then 0 else BitVec.ofNat 8 wait.1, BitVec.ofNat 4 wait.2,
    if signal.2 = 0 then 0 else BitVec.ofNat 8 signal.1, BitVec.ofNat 4 signal.2⟩

/-- A header that neither waits nor signals. -/
abbrev hdrNone : Hdr := hdrAt (0, 0) (0, 0)

/-- The Manger operand of a byte offset (R85). -/
def opndOf (x : Nat) : BitVec 19 := BitVec.ofNat 19 (x / 64)

/-- CHAIN of slab `i` of `n` (R101). -/
def chainCode (i n : Nat) : BitVec 2 := if n = 1 then 0 else if i = 0 then 1 else if i + 1 = n then 3 else 2

/-- The TMULs of one chain (R101, R118): `runs` in order, each at the operands of its first k-step. The first waits and
the last signals. -/
def chainTmuls (f : TmulF) (wait signal : Nat × Nat) (runs : List (Nat × Nat)) : List Native :=
  (runs.zipIdx).map (fun x =>
    let at_ : BitVec 19 := BitVec.ofNat 19 (2 * x.1.1)
    ⟨hdrAt (if x.2 = 0 then wait else (0, 0)) (if x.2 + 1 = runs.length then signal else (0, 0)),
      .tmul { f with chain := chainCode x.2 runs.length, a := f.a + at_, b := f.b + at_, k := BitVec.ofNat 14 x.1.2 }⟩)

/-- The stall of part `p` of output tile `t`. -/
def partStall (t p : Nat) : Nat := (t + p) % 8

/-- Part `p` of the depth of output tile (i, j) (R119): its chain, drained in the output format, or in X64 where the
depth has several parts or a correction follows. -/
def tileChain (o : TileOp) (parts : List Nat) (pl : Plan) (ctr i j p : Nat) : List Native :=
  let t := i * (tileGrid o).2 + j
  let st := partStall t p
  let raw : Bool := partsSplit parts || zeroed o
  let fc : BitVec 3 := if raw then 7 else o.fmtc
  let sout : BitVec 1 := if drainScales o parts then 1 else 0
  let c : Nat := if raw then pl.x + p * 131072 else pl.c + t * blockBytes o.fmtc.toNat
  let n := b2n (drainScales o parts)
  chainTmuls ⟨BitVec.ofNat 3 st, 0, 0, o.mode, o.fmta, o.fmtb, fc, sout, opndOf (pl.a + i * panelBytes o o.fmta),
      opndOf (pl.b + j * panelBytes o o.fmtb), opndOf c, 0⟩
    (ctr + 3 * st + 2, n) (ctr + 3 * st, n) (partRuns o parts p)

/-- The copy that adds part `p` of a split depth to part 0 in X64, by any Barrow and with HINT 0 (R97, R119; Barrow and
hint are a DESIGN CHOICE, assumption 39). -/
def joinCopy (pl : Plan) (p : Nat) : Native :=
  ⟨hdrNone, .copy ⟨0, 1, 2, 0, 0, 0, (opndOf (pl.x + p * 131072)).setWidth 32, (opndOf pl.x).setWidth 36, 512⟩⟩

/-- A TRG over one tensor block, in the queue order of the tile. -/
def trgTile (op : BitVec 6) (sa sb d : BitVec 3) (more : BitVec 1) (fin fout : BitVec 3) (a b dst : Nat) : Native :=
  ⟨hdrNone, .trg ⟨op, sa, sb, d, more, fin, fout, 0, 31, opndOf a, opndOf b, opndOf dst⟩⟩

/-- What rounds the X64 sum of output tile `t` once into the output format (R119, R216): a PASS where there is nothing
to add or scale, and otherwise one chain that adds the correction of the zero points and multiplies by the power
tiles. -/
def joinRound (o : TileOp) (pl : Plan) (i j t : Nat) : List Native :=
  let c := pl.c + t * blockBytes o.fmtc.toNat
  let w := (powTiles o i j).length
  if !zeroed o && !scaled o then
    [trgTile 0 0 7 0 0 7 o.fmtc pl.x 0 c]
  else
    (if zeroed o then trgTile 1 0 0 1 1 7 0 pl.x (pl.corr + t * 131072) 0 else trgTile 0 0 7 1 1 7 0 pl.x 0 0) ::
      (List.range w).map (fun q =>
        trgTile 3 1 0 (if q + 1 = w then 0 else 1) (if q + 1 = w then 0 else 1) 4 o.fmtc 0 (pl.pow + (2 * t + q) * 32768)
          (if q + 1 = w then c else 0))

/-- The copies that load the row and column scales of the stall that drains an output tile (R97, R98, R138): the first
waits until the stall's scale registers are free, the second for the first, and its signal lets the chain begin. The
column scales of a gathered operand are the block that its gather sent (R369). -/
def scaleLoads (pl : Plan) (col : Nat) (ctr st i : Nat) : List Native :=
  let load (side src : Nat) (w g : Nat × Nat) : Native :=
    ⟨hdrAt w g, .copy ⟨0, 1, 0, 0, 0, 3, (opndOf src).setWidth 32, BitVec.ofNat 36 (2 * st + side), 1⟩⟩
  [load 0 (pl.rows + i * 256) (ctr + 3 * st, 1) (ctr + 3 * st + 1, 1), load 1 col (ctr + 3 * st + 1, 1) (ctr + 3 * st + 2, 1)]

/-- Rows of output tile row `i` that the operation has: the rest is padding (R118). -/
def tileRows (o : TileOp) (i : Nat) : Nat := min 128 (o.m - 128 * i)

/-- The copy-out of output tile (i, j): the grains that hold its rows, and none that padded rows alone fill (R118). A
grain is the least that a copy moves, so the padded columns of a tile go with the rows (DEDUCED, assumption 39). -/
def copyOut (o : TileOp) (pl : Plan) (d first i t : Nat) : Native :=
  let bb := blockBytes o.fmtc.toNat
  ⟨hdrNone, .copy ⟨0, 1, 0, 0, 0, 1, (opndOf (pl.c + t * bb)).setWidth 32, BitVec.ofNat 36 (d * 2 ^ 24 + first + t),
    BitVec.ofNat 16 (ceilDiv (tileRows o i * (bb / 128)) 256)⟩⟩

/-- The instructions of output tile (i, j) for a micro-batch whose output begins at block `first` of descriptor `d`:
scales, chains, what joins and rounds them, and the copy-out. -/
def lowerTile (o : TileOp) (parts : List Nat) (pl : Plan) (col : Nat → Nat) (ctr d first i j : Nat) : List Native :=
  let t := i * (tileGrid o).2 + j
  let xs := (List.range parts.length).drop 1
  (if drainScales o parts then scaleLoads pl (col j) ctr (partStall t 0) i else []) ++
    (List.range parts.length).flatMap (fun p => tileChain o parts pl ctr i j p) ++
    (if partsSplit parts then xs.map (joinCopy pl) else []) ++
    (if o.fmtc = 7 && partsSplit parts then
       [⟨hdrNone, .copy ⟨0, 1, 0, 0, 0, 0, (opndOf pl.x).setWidth 32, (opndOf (pl.c + t * 131072)).setWidth 36, 512⟩⟩]
     else if partsSplit parts || zeroed o then joinRound o pl i j t else []) ++
    [copyOut o pl d first i t]

/-- The output tiles of an operation for one micro-batch. -/
def lowerTiles (o : TileOp) (parts : List Nat) (pl : Plan) (col : Nat → Nat) (ctr d first : Nat) : List Native :=
  let g := tileGrid o
  (List.range g.1).flatMap (fun i => (List.range g.2).flatMap (fun j => lowerTile o parts pl col ctr d first i j))

/-- Copies of `n` blocks of a descriptor, from block `first`, to Manger byte `base`, in pieces of at most 8 MiB; each
raises counter `ctr` by `sig`. -/
def copyBlocks (d first n bb base ctr sig : Nat) : List Native :=
  let per := 0x80_0000 / bb
  (List.range (ceilDiv n per)).map (fun q =>
    ⟨hdrAt (0, 0) (ctr, sig), .copy ⟨0, 1, 0, 0, 1, 0, BitVec.ofNat 32 (d * 2 ^ 20 + first + q * per),
      (opndOf (base + q * per * bb)).setWidth 36, BitVec.ofNat 16 (min per (n - q * per) * (bb / 256))⟩⟩)

/-- The copy-in of the panels of A and of B. -/
def copyIn (o : TileOp) (pl : Plan) (da fa db fb ctr sig : Nat) : List Native :=
  let g := tileGrid o
  let n := ceilDiv o.k 128
  let side (f : BitVec 3) (d first base count : Nat) : List Native :=
    (List.range count).flatMap (fun i => copyBlocks d (first + i * n) n (blockBytes f.toNat) (base + i * panelBytes o f) ctr sig)
  side o.fmta da fa pl.a g.1 ++ side o.fmtb db fb pl.b g.2

/-- The exact sums RA_i and CB_j of INT8 operands with zero points (R189): each panel of A against ones, and ones
against each panel of B, drained in X64; each chain raises counter `ctr`. -/
def sumTiles (o : TileOp) (pl : Plan) (ctr : Nat) : List Native :=
  let g := tileGrid o
  let run (a b : Nat) (stepA stepB : Bool) (c : Nat) : List Native :=
    let l := slabs false (tileKsteps o)
    (l.zipIdx).map (fun x =>
      let at_ : BitVec 19 := BitVec.ofNat 19 (2 * (l.take x.2).sum)
      ⟨hdrAt (0, 0) (if x.2 + 1 = l.length then (ctr, 1) else (0, 0)),
        .tmul ⟨0, 0, chainCode x.2 l.length, 0, 3, 3, 7, 0, opndOf a + (if stepA then at_ else 0),
          opndOf b + (if stepB then at_ else 0), opndOf c, BitVec.ofNat 14 x.1⟩⟩)
  (List.range g.1).flatMap (fun i => run (pl.a + i * panelBytes o o.fmta) pl.ones true false (pl.rowSum + i * 131072)) ++
    (List.range g.2).flatMap (fun j => run pl.ones (pl.b + j * panelBytes o o.fmtb) false true (pl.colSum + j * 131072))

/-- The bytes of a block of instructions. -/
def blockBytesOf (l : List Native) : List Byte := l.flatMap (fun i => leBytes 16 (encodeNative i).toNat)

end Sys2Proof.Machine
end

