-- ==== Sys2Proof/Machine/Program.lean ====
section
/-!
DEFINITION. The native image that the loader makes of a portable one (R36, R37, R118 to R120, R369, R373, R374, R378):
where each operation, gather and gate stands in the Mangers, the control program that enqueues them in the order of the
pipeline schedule, and what is installed. What the rules leave to the loader's schedule is a free value.
-/
namespace Sys2Proof.Machine

/-! ### Control words -/

/-- Control instructions that know the index at which they begin. -/
abbrev Code := Nat → List Native

/-- One control instruction (R113). -/
def ctlCode (h : Hdr) (op : BitVec 4) (rd ra rb : Nat) (sub x : Nat) (imm : Int) : Code := fun _ =>
  [⟨h, .ctl op ⟨BitVec.ofNat 5 rd, BitVec.ofNat 5 ra, BitVec.ofNat 5 rb, BitVec.ofNat 4 sub, BitVec.ofNat 21 x, BitVec.ofInt 48 imm⟩⟩]

/-- s[rd] = imm. -/
def cLi (rd : Nat) (imm : Int) : Code := ctlCode hdrNone 1 rd 0 0 0 0 imm
/-- s[rd] = s[ra] op s[rb]. -/
def cAlu (sub rd ra rb : Nat) : Code := ctlCode hdrNone 2 rd ra rb sub 0 0
/-- s[rd] = s[ra] op imm. -/
def cAlui (sub rd ra : Nat) (imm : Int) : Code := ctlCode hdrNone 2 rd ra 0 sub 1 imm
/-- s[rd] = 64 bits at s[ra] + imm. -/
def cSld (rd ra : Nat) (imm : Int) : Code := ctlCode hdrNone 6 rd ra 0 0 0 imm
/-- 64 bits at s[ra] + imm = s[rb]. -/
def cSst (ra rb : Nat) (imm : Int) : Code := ctlCode hdrNone 7 0 ra rb 0 0 imm
/-- s[rd] = a word of a descriptor. -/
def cDget (rd desc word : Nat) : Code := ctlCode hdrNone 8 rd 0 0 word desc 0
/-- A barrier of a kind. -/
def cBar (kind : Nat) : Code := ctlCode hdrNone 10 0 0 0 kind 0 0

/-- The ALU operations that the loader uses (R113). -/
abbrev aADD : Nat := 0
abbrev aSUB : Nat := 1
abbrev aAND : Nat := 2
abbrev aOR : Nat := 3
abbrev aSHL : Nat := 5
abbrev aSHR : Nat := 6
abbrev aSRA : Nat := 7
abbrev aMUL : Nat := 8
abbrev aMIN : Nat := 9

/-- Pieces of code one after the other. -/
def cSeq (l : List Code) : Code := fun pc => l.foldl (fun w c => w ++ c (pc + w.length)) []

/-- A body run `n` times, counted in register `r` (LOOP, R113); nothing where `n` is zero. -/
def cRep (r n : Nat) (body : Code) : Code := fun pc =>
  if n = 0 then []
  else
    let w := body (pc + 1)
    cLi r n pc ++ w ++ ctlCode hdrNone 4 r 0 0 0 0 (pc + 1) (pc + 1 + w.length)

/-- A body that is passed over where a BR condition holds of two registers (R113). -/
def cSkip (cond ra rb : Nat) (body : Code) : Code := fun pc =>
  let w := body (pc + 1)
  ctlCode hdrNone 3 0 ra rb cond 0 (pc + 1 + w.length) pc ++ w

/-- A body run as long as s[ra] is at least s[rb], signed. -/
def cWhileGe (ra rb : Nat) (body : Code) : Code := fun pc =>
  let w := body (pc + 1)
  ctlCode hdrNone 3 0 ra rb 3 0 (pc + 2 + w.length) pc ++ w ++ ctlCode hdrNone 3 0 ra rb 4 0 (pc + 1) (pc + 1 + w.length)

/-- Waits of the context for `n` signals of a counter, in amounts of at most 15 (R76). -/
def cWait (ctr n : Nat) : Code :=
  cSeq ((List.range (ceilDiv n 15)).map (fun i => ctlCode (hdrAt (ctr, min 15 (n - 15 * i)) (0, 0)) 1 1 0 0 0 0 0))

/-- The number of a queue in ENQ (R113). -/
def queueNum (q : Q) : Nat :=
  match q with
  | .F => 0
  | .B => 1
  | .W => 2
  | .X => 3

/-- ENQs of `n` instructions from byte `a` + s[ra] of the Manger, at most 256 each (R43). -/
def cEnq (q : Q) (ra a n : Nat) : Code :=
  cSeq ((List.range (ceilDiv n 256)).map (fun i =>
    ctlCode hdrNone 0 0 ra 0 (queueNum q) (min 256 (n - 256 * i) - 1) (a + 4096 * i)))

/-! ### Padding (R118) -/

/-- Zeros in rows `r` to 127 of `kk` k-steps of a panel at byte `a`: register 0 holds zero. -/
def cPad (a kk r : Nat) : Code :=
  cSeq [cLi 2 a, cRep 1 kk (cSeq (
    (if r % 8 = 0 then [] else [cSld 4 2 (8 * (r / 8)), cAlui aSHL 4 4 (64 - 8 * (r % 8)), cAlui aSHR 4 4 (64 - 8 * (r % 8)), cSst 2 4 (8 * (r / 8))]) ++
    (List.range (16 - ceilDiv r 8)).map (fun g => cSst 2 0 (8 * (ceilDiv r 8 + g))) ++ [cAlui aADD 2 2 128]))]

/-- The one zero element of an odd FP4 depth (R118 step 3): the upper half of every byte of the last k-step of each of
`n` panels, the first at byte `a` (R123). -/
def cOdd (a n panel : Nat) : Code :=
  cSeq [cLi 2 a, cLi 5 0x0F0F0F0F, cAlui aSHL 6 5 32, cAlu aOR 5 5 6,
    cRep 1 n (cSeq [cRep 7 16 (cSeq [cSld 4 2 0, cAlu aAND 4 4 5, cSst 2 4 0, cAlui aADD 2 2 8]), cAlui aADD 2 2 ((panel : Int) - 128)])]

/-- An operation has something to fill: rows, columns, or the last element of an odd FP4 depth. -/
def pads (o : TileOp) : Bool := decide (o.m % 128 ≠ 0 ∨ o.n % 128 ≠ 0 ∨ (o.fmta = 0 ∧ o.k % 2 = 1))

/-- What fills the missing rows of A, the missing columns of B and the odd element, once the panels are there. -/
def cFill (o : TileOp) (pl : Plan) : Code :=
  let g := tileGrid o
  let kk := tileKsteps o
  let pa := panelBytes o o.fmta
  let pb := panelBytes o o.fmtb
  cSeq ((if o.m % 128 = 0 then [] else [cPad (pl.a + (g.1 - 1) * pa) kk (o.m % 128)]) ++
    (if o.n % 128 = 0 then [] else [cPad (pl.b + (g.2 - 1) * pb) kk (o.n % 128)]) ++
    (if o.fmta = 0 ∧ o.k % 2 = 1 then [cOdd (pl.a + 128 * (kk - 1)) g.1 pa, cOdd (pl.b + 128 * (kk - 1)) g.2 pb] else []))

/-! ### Zero points (R189, R216) -/

/-- A 60-bit VALUE of X64 as a signed number (R132). -/
def cValue (r : Nat) : Code := cSeq [cAlui aSHL r r 4, cAlui aSRA r r 4]

/-- The correction tiles Z[i, j] = K z_i y_j - z_i CB_j - y_j RA_i in X64 at W = 0, of every output tile in order. -/
def cCorr (o : TileOp) (pl : Plan) : Code :=
  let g := tileGrid o
  cSeq [cLi 20 pl.corr, cLi 21 pl.rowSum, cLi 22 pl.rowZ,
    cRep 12 g.1 (cSeq [cLi 23 pl.colSum, cLi 24 pl.colZ,
      cRep 13 g.2 (cSeq [
        cRep 14 128 (cSeq [cSld 4 22 0, cSld 5 21 0, cValue 5,
          cRep 15 128 (cSeq [cSld 6 23 0, cValue 6, cSld 7 24 0, cAlu aMUL 8 4 7, cAlui aMUL 8 8 o.k, cAlu aMUL 2 4 6, cAlu aSUB 8 8 2,
            cAlu aMUL 2 7 5, cAlu aSUB 8 8 2, cAlui aSHL 8 8 4, cAlui aSHR 8 8 4, cSst 20 8 0, cAlui aADD 20 20 8,
            cAlui aADD 23 23 8, cAlui aADD 24 24 8]),
          cAlui aADD 21 21 1024, cAlui aADD 22 22 8, cAlui aADD 23 23 (-1024), cAlui aADD 24 24 (-1024)]),
        cAlui aADD 21 21 (-131072), cAlui aADD 22 22 (-1024), cAlui aADD 23 23 131072, cAlui aADD 24 24 1024]),
      cAlui aADD 21 21 131072, cAlui aADD 22 22 1024])]

/-! ### Gates (R373, R374) -/

/-- Finite E4M3 value `j` of the ladder in ascending order, ±0 once, for `j` to 252, and 448 beyond (R373). -/
def ladderByte (j : Nat) : Byte :=
  if j < 126 then BitVec.ofNat 8 (0x80 + (126 - j)) else if j < 253 then BitVec.ofNat 8 (j - 126) else 0x7E

/-- The ladder of a gate of `n` experts: for each of the two column tiles, its 128 levels at every depth. -/
def ladderBytes (n : Nat) : List Byte :=
  (List.range 2).flatMap (fun c => (List.range n).flatMap (fun _ => (List.range 128).map (fun j => ladderByte (128 * c + j))))

/-- The words of a gate for tile row `i` of its scores: the rows' amax and their conversion to E4M3 (R181), then the two
tile multiplies that count (R373); each of the last three raises counter `ctr`. -/
def gateWords (o : TileOp) (pl : Plan) (ctr i : Nat) : List Native :=
  let cols := (tileGrid o).2
  let src := opndOf (pl.c + i * cols * 32768)
  let n : BitVec 12 := BitVec.ofNat 12 (32 * cols - 1)
  let count (c : Nat) : Native :=
    ⟨hdrAt (0, 0) (ctr, 1), .tmul ⟨BitVec.ofNat 3 c, 0, 0, 6, 1, 1, 7, 0, opndOf pl.score, opndOf (pl.ladder + c * 128 * o.n),
      opndOf (pl.tally + c * 131072), BitVec.ofNat 14 o.n⟩⟩
  [⟨hdrNone, .rflush ⟨0, 0, 1, 0⟩⟩, ⟨hdrNone, .trg ⟨0, 0, 7, 5, 0, 4, 4, 4, n, src, 0, 0⟩⟩,
    ⟨hdrAt (0, 0) (ctr, 1), .trg ⟨0x10, 0, 5, 0, 0, 4, 1, 0, n, src, 0, opndOf pl.conv⟩⟩, count 0, count 1]

/-- The converted scores, a row for each token, laid out for the stall: experts as depth, tokens as rows (R103, R373). -/
def cTranspose (o : TileOp) (pl : Plan) : Code :=
  cSeq [cLi 16 0, cRep 20 o.n (cSeq [
    cAlui aAND 18 16 7, cAlui aSHL 18 18 3, cAlui aSHR 19 16 7, cAlui aSHL 19 19 14, cAlui aAND 4 16 120, cAlu aADD 19 19 4,
    cAlui aADD 19 19 (pl.conv + 896), cAlui aSHL 21 16 7, cAlui aADD 21 21 pl.score,
    cRep 22 16 (cSeq [cLi 6 0,
      cRep 23 8 (cSeq [cSld 4 19 0, cAlu aSHR 4 4 18, cAlui aAND 4 4 255, cAlui aSHL 6 6 8, cAlu aOR 6 6 4, cAlui aADD 19 19 (-128)]),
      cAlui aADD 19 19 2048, cSst 21 6 0, cAlui aADD 21 21 8]),
    cAlui aADD 16 16 1])]

/-- One pass over the experts of token s[17], in ascending number: those whose score exceeds ladder value s[6], or those
whose score equals it while places are left (R373 step 4). A score stands on the ladder at 126 plus its signed
magnitude. -/
def cPass (o : TileOp) (pl : Plan) (above : Bool) : Code :=
  let put := cSeq [cAlu aSHL 2 16 15, cAlu aOR 8 8 2, cAlui aADD 15 15 8]
  cSeq [cLi 16 0, cRep 23 o.n (cSeq [
    cAlui aSHL 4 16 7, cAlui aAND 2 17 120, cAlu aADD 4 4 2, cSld 4 4 pl.score, cAlui aAND 2 17 7, cAlui aSHL 2 2 3, cAlu aSHR 4 4 2,
    cAlui aAND 2 4 128, cAlui aAND 4 4 127, cSkip 1 2 0 (cAlu aSUB 4 0 4), cAlui aADD 4 4 126,
    (if above then cSkip 4 6 4 put else cSkip 2 6 4 (cSkip 4 15 14 put)), cAlui aADD 16 16 1])]

/-- Experts `a` to `b` - 1, one byte each. -/
def expertBytes (a b : Nat) : Int := ((List.range' a (b - a)).map (fun e => (e * 256 ^ (e - a) : Int))).sum

/-- The choice of one token, tile row and token s[17] (R373 steps 3 and 4, R374): the smallest ladder value with fewer
than k experts above it, the experts above it and then those equal to it; experts 0 to k - 1 and NF where the count
row is non-finite. The record at s[29] is one byte for each expert chosen, and NF in the word after them (its form is
a DESIGN CHOICE, assumption 39). -/
def cChoose (o : TileOp) (pl : Plan) : Code :=
  let k := o.topk
  cSeq [cAlui aSHL 5 17 10, cAlui aADD 5 5 pl.tally, cSld 11 5 0, cLi 8 0, cLi 3 0,
    cSkip 4 11 0 (cSeq [cLi 8 (expertBytes 4 k), cAlui aSHL 8 8 32, cLi 2 (expertBytes 0 (min 4 k)), cAlu aOR 8 8 2, cLi 3 1]),
    cSkip 3 11 0 (cSeq [cLi 6 0, cAlu aADD 7 5 0, cLi 24 k, cLi 25 128, cAlu aADD 4 11 0,
      cWhileGe 4 24 (cSeq [cAlui aADD 7 7 8, cAlui aADD 6 6 1, cSkip 2 6 25 (cAlui aADD 7 7 130048), cSld 4 7 0]),
      cLi 15 0, cLi 14 (8 * k), cPass o pl true, cPass o pl false]),
    cSst 29 8 0, cSst 29 3 8, cAlui aADD 29 29 16]

/-- A gate: for each tile row of its scores, conversion, counts, and the choice of each of its tokens (R373). -/
def cGate (o : TileOp) (pl : Plan) (ctr : Nat) : Code :=
  cSeq [cAlui aMUL 29 10 (16 * o.m), cAlui aADD 29 29 pl.picks, cLi 26 0, cLi 28 o.m,
    cRep 27 (tileGrid o).1 (cSeq [
      cEnq .F 26 pl.gate 3, cWait ctr 1, cTranspose o pl, cEnq .F 26 (pl.gate + 48) 2, cWait ctr 2,
      cAlui aMIN 22 28 128, cAlui aADD 28 28 (-128), cLi 17 0,
      (fun pc =>
        let w := cSeq [cChoose o pl, cAlui aADD 17 17 1] pc
        w ++ ctlCode hdrNone 4 22 0 0 0 0 pc (pc + w.length)),
      cAlui aADD 26 26 80])]

/-! ### Operations in their Manger -/

/-- Micro-batches of an image (R378). -/
def microBatches (img : ProgramImage) : Nat :=
  match img.stage with
  | some st => st.m
  | none => 1

/-- The parts of the depth of operation `i` (R119; how far it is spread is free, assumption 39). -/
def opParts (img : ProgramImage) (i : Nat) (o : TileOp) : List Nat := tileParts o img.shape.heritage (Config.spread i)

/-- The sync counters of a core that the loader takes after those of the bindings: three for the scale registers of each
stall, which say that they are free, that the rows and that the rows and columns are there, and one that the
context waits on. -/
def ctrBase (img : ProgramImage) (n : Nat) : Nat := img.binds.countP (bindCtrOf n)
/-- The counter that the context of a core waits on. -/
def readyCtr (img : ProgramImage) (n : Nat) : Nat := ctrBase img n + 24

/-- What operation `i` enqueues for micro-batch `j`: its copy-in, the sums of its zero points, and its tiles. -/
def opWords (img : ProgramImage) (i : Nat) (o : TileOp) (pl : Plan) (j : Nat) : List Native × List Native × List Native :=
  let n := o.core.val
  let d (x : TileSide) : Nat := bindVal img.binds x.bind
  let col (t : Nat) : Nat :=
    match o.gathered with
    | some r => bindVal img.binds r.block - mangerBase n
    | none => pl.cols + t * 256
  (copyIn o pl (d o.a) (j * o.a.step) (d o.b) (j * o.b.step) (readyCtr img n) (b2n (pads o)),
    if zeroed o then sumTiles o pl (readyCtr img n) else [],
    lowerTiles o (opParts img i o) pl col (ctrBase img n) (d o.c) (j * o.c.step))

/-- Instructions of an operation for one micro-batch: the number of each part of `opWords`. -/
def opCounts (img : ProgramImage) (i : Nat) (o : TileOp) : Nat × Nat × Nat :=
  let w := opWords img i o (planAt o (opParts img i o) 1 0 0) 0
  (w.1.length, w.2.1.length, w.2.2.length)

/-- Bytes of the instructions of an operation for one micro-batch. -/
def opStride (img : ProgramImage) (i : Nat) (o : TileOp) : Nat :=
  let c := opCounts img i o
  16 * (c.1 + c.2.1 + c.2.2)

/-- The operations of a core, with their numbers in the image. -/
def opsOf (img : ProgramImage) (n : Nat) : List (TileOp × Nat) := img.tiles.zipIdx.filter (fun x => decide (x.1.core.val = n))

/-- Bytes that are kept for an operation. -/
def opKeeps (img : ProgramImage) (x : TileOp × Nat) : Nat :=
  (planAt x.1 (opParts img x.2 x.1) (microBatches img) 0 0).fixedEnd + upTo 8192 (microBatches img * opStride img x.2 x.1)

/-- Bytes of a shard that one instruction of a gather converts, wide and narrow: 32 tensor blocks. -/
def gatherWork (g : Gather) : Nat := 32 * (blockBytes g.fin.toNat + blockBytes g.fmt.toNat)

/-- Bytes that the operations of a queue, and in F the gathers, work in. -/
def queueWork (img : ProgramImage) (n : Nat) (q : Q) : Nat :=
  let ops := (opsOf img n).filter (fun x => decide (x.1.queue = q))
  let l := ops.map (fun x => (planAt x.1 (opParts img x.2 x.1) 1 0 0).workEnd)
  let g := if q = .F then (img.gathers.filter (fun g => decide (g.core.val = n))).map gatherWork else []
  (l ++ g).foldl max 0

/-- Bytes of a core's Manger that the bindings take, in granules (R224). -/
def bindsEnd (img : ProgramImage) (n : Nat) : Nat := upTo 8192 ((img.binds.map (bindMangerOf n)).sum)

/-- Bytes kept for a gather: its scale block and its instructions. -/
def gatherKeeps (g : Gather) : Nat := 256 + upTo 256 (16 * (2 + 3 * ceilDiv g.blocks 32))

/-- The gathers of a core. -/
def gathersOf (img : ProgramImage) (n : Nat) : List Gather := img.gathers.filter (fun g => decide (g.core.val = n))

/-- Where the gathers of a core begin: after its operations. -/
def gathersAt (img : ProgramImage) (n : Nat) : Nat := bindsEnd img n + ((opsOf img n).map (opKeeps img)).sum

/-- The operations whose results B of a core waits on: those of F whose count the core can name (R88, R93). -/
def forwardOps (img : ProgramImage) (n : Nat) : List TileOp :=
  img.tiles.filter (fun o => decide (o.queue = .F ∧ (o.core.val = n ∨ 4096 ≤ bindVal img.binds o.done)))

/-- Where the arming of a core's scale counters stands, and after it the waits of B. -/
def armAt (img : ProgramImage) (n : Nat) : Nat := gathersAt img n + ((gathersOf img n).map gatherKeeps).sum
/-- Where the waits of B of a core stand. -/
def waitsAt (img : ProgramImage) (n : Nat) : Nat := armAt img n + 128
/-- Where what is worked in begins. -/
def workAt (img : ProgramImage) (n : Nat) : Nat := upTo 8192 (waitsAt img n + 16 * (forwardOps img n).length)

/-- Where the operations of a queue work: F first, then B, then W. -/
def queueAt (img : ProgramImage) (n : Nat) (q : Q) : Nat :=
  match q with
  | .F | .X => workAt img n
  | .B => workAt img n + queueWork img n .F
  | .W => workAt img n + queueWork img n .F + queueWork img n .B

/-- The end of what a core's Manger holds. -/
def mangerEnd (img : ProgramImage) (n : Nat) : Nat := queueAt img n .W + queueWork img n .W

/-- The plan of an operation. -/
def opPlan (img : ProgramImage) (x : TileOp × Nat) : Plan :=
  let n := x.1.core.val
  let before := (opsOf img n).filter (fun y => decide (y.2 < x.2))
  planAt x.1 (opParts img x.2 x.1) (microBatches img) (bindsEnd img n + (before.map (opKeeps img)).sum) (queueAt img n x.1.queue)

/-- The waits of B (R378): each on the count of an operation of F, whose target the context writes. -/
def waitWord (img : ProgramImage) (count : Nat) : Native := ⟨hdrNone, .cwait (BitVec.ofNat 16 (bindVal img.binds count)) 0⟩

/-- What an operation has in its core's Manger from the load on: byte offsets and bytes. -/
def opBlocks (img : ProgramImage) (x : TileOp × Nat) : List (Nat × List Byte) :=
  let o := x.1
  let pl := opPlan img x
  let g := tileGrid o
  let ps := opParts img x.2 o
  let t (i j : Nat) : Nat := i * g.2 + j
  let zero (l : List Byte) (i : Nat) : List Byte := (List.range 128).flatMap (fun r => leBytes 8 ((l.getD (128 * i + r) 0).signExtend 64).toNat)
  (if drainScales o ps then
     (List.range g.1).map (fun i => (pl.rows + i * 256, loadedScales (o.rowScale.drop (128 * i)) 0 o.fmta)) ++
     (List.range g.2).map (fun j => (pl.cols + j * 256, loadedScales (o.colScale.drop (128 * j)) 1 o.fmtb))
   else if scaled o || zeroed o then
     (List.range g.1).flatMap (fun i => (List.range g.2).flatMap (fun j =>
       ((powTiles o i j).zipIdx).map (fun y => (pl.pow + (2 * t i j + y.2) * 32768, y.1))))
   else []) ++
  (if zeroed o then
     (List.range g.1).map (fun i => (pl.rowZ + i * 1024, zero o.rowZero i)) ++
     (List.range g.2).map (fun j => (pl.colZ + j * 1024, zero o.colZero j)) ++
     [(pl.ones, List.replicate (128 * min (tileKsteps o) 16383) 1)]
   else []) ++
  (match o.gathered with
   | some r => [(pl.arrive, blockBytesOf [waitWord img r.count])]
   | none => []) ++
  (if o.topk = 0 then []
   else (pl.ladder, ladderBytes o.n) :: (List.range g.1).map (fun i => (pl.gate + 80 * i, blockBytesOf (gateWords o pl (readyCtr img o.core.val) i)))) ++
  (List.range (microBatches img)).map (fun j =>
    let w := opWords img x.2 o pl j
    (pl.fixedEnd + j * opStride img x.2 o, blockBytesOf (w.1 ++ w.2.1 ++ w.2.2)))

/-- The 32-bit target of a wait, from register `r`, into the low words of the CWAIT at byte `a` (R92). -/
def cTarget (r a : Nat) : Code := cSeq [cAlui aSHL r r 32, cAlui aSHR r r 32, cSst 0 r a]

/-- An operation for micro-batch s[10]: its copy-in and what fills its padding, the corrections of its zero points, the
wait for a gathered operand, its tiles, and the choice of a gate. -/
def cOp (img : ProgramImage) (x : TileOp × Nat) : Code :=
  let o := x.1
  let pl := opPlan img x
  let c := opCounts img x.2 o
  let ctr := readyCtr img o.core.val
  let q := o.queue
  cSeq ([cAlui aMUL 11 10 (opStride img x.2 o), cEnq q 11 pl.fixedEnd c.1] ++
    (if pads o then [cWait ctr c.1, cFill o pl] else []) ++
    (if zeroed o then
       [cEnq q 11 (pl.fixedEnd + 16 * c.1) c.2.1, cWait ctr ((tileGrid o).1 + (tileGrid o).2), cCorr o pl] else []) ++
    (match o.gathered with
     | some r => [cAlui aADD 12 31 1, cAlui aMUL 12 12 r.arrivals, cTarget 12 pl.arrive, cEnq q 0 pl.arrive 1]
     | none => []) ++
    [cEnq q 11 (pl.fixedEnd + 16 * (c.1 + c.2.1)) c.2.2] ++
    (if o.topk = 0 then [] else [cGate o pl ctr]))

/-! ### Gathers (R369) -/

/-- Where gather `i` of a core stands. -/
def gatherAt (img : ProgramImage) (n i : Nat) : Nat := gathersAt img n + (((gathersOf img n).take i).map gatherKeeps).sum

/-- The instructions of a gather (R369): the wait on the shard's count; the scale block; then the shard in pieces of 32
blocks, each copied in, converted under the delayed scale and sent. What goes to the group is discarded after last
use. -/
def gatherWords (img : ProgramImage) (n i : Nat) (g : Gather) : List Native :=
  let at_ := gatherAt img n i
  let work := workAt img n
  let bw := blockBytes g.fin.toNat
  let bn := blockBytes g.fmt.toNat
  let narrow := work + 32 * bw
  let send (src : Nat) (d : BitVec 12 × BitVec 11) (first len : Nat) : Native :=
    ⟨hdrNone, .copy ⟨0, 1, 1, 2, 0, 2, (opndOf src).setWidth 32, g.group ++ d.1 ++ (d.2 + BitVec.ofNat 11 first), BitVec.ofNat 16 len⟩⟩
  [waitWord img g.count, send at_ g.scaleTo 0 1] ++
    (List.range (ceilDiv g.blocks 32)).flatMap (fun q =>
      let l := min 32 (g.blocks - 32 * q)
      [⟨hdrNone, .copy ⟨0, 1, 0, 0, 1, 0, BitVec.ofNat 32 (bindVal img.binds g.wide * 2 ^ 20 + g.first + 32 * q), (opndOf work).setWidth 36, BitVec.ofNat 16 (l * (bw / 256))⟩⟩,
        ⟨hdrNone, .trg ⟨0x11, 0, 6, 0, 0, g.fin, g.fmt, 0, BitVec.ofNat 12 (32 * l - 1), opndOf work, BitVec.ofNat 19 (bindVal img.binds g.narrow), opndOf narrow⟩⟩,
        send narrow g.shardTo (32 * q) (l * (bn / 256))])

/-- A gather at the head of a step (R369): the context forms the column scale block, KIND 1, from SCALE and TAG of the
descriptor, sets the wait to the steps that are done, and enqueues the gather. -/
def cGather (img : ProgramImage) (n i : Nat) (g : Gather) : Code :=
  let at_ := gatherAt img n i
  cSeq ([cDget 4 (bindVal img.binds g.narrow) 6, cAlui aAND 5 4 255] ++
    [8, 16, 32].flatMap (fun b => [cAlui aSHL 6 5 (b : Int), cAlu aOR 5 5 6]) ++
    (List.range 16).map (fun w => cSst 0 5 (at_ + 8 * w)) ++
    [cAlui aSHR 4 4 16, cAlui aOR 4 4 (0x1_0000 + g.fmt.toNat * 0x100_0000), cSst 0 4 (at_ + 128), cAlui aADD 12 31 0, cTarget 12 (at_ + 256),
      cEnq .F 0 (at_ + 256) (2 + 3 * ceilDiv g.blocks 32)])

/-! ### The schedule of a stage (R378) -/

/-- A stretch of a schedule: `count` micro-batches from `first`, up or down; of each, in order, the queues' work, W and B
of an alternating stretch that of a micro-batch `back` before. -/
structure Stretch where
  first : Nat
  count : Nat
  down : Bool
  items : List (Q × Nat)
deriving DecidableEq, Repr

/-- The stretches of the two schedules: forward-first, and alternating (R378). -/
def stretches (st : Stage) (split : Bool) : List Stretch :=
  let w (b : Nat) : List (Q × Nat) := if split then [(.W, b)] else []
  if st.alternating then
    let lead := min st.m (st.p - st.s - 1)
    [⟨0, lead, false, [(.F, 0)]⟩, ⟨lead, st.m - lead, false, [(.F, 0), (.B, lead)] ++ w lead⟩, ⟨st.m - lead, lead, false, (.B, 0) :: w 0⟩]
  else [⟨0, st.m, false, [(.F, 0)]⟩, ⟨st.m - 1, st.m, true, (.B, 0) :: w 0⟩]

/-- The enqueue order of a stage (R378): queue and micro-batch. -/
def stageOrder (st : Stage) (split : Bool) : List (Q × Nat) :=
  (stretches st split).flatMap (fun r => (List.range r.count).flatMap (fun i =>
    r.items.map (fun x => (x.1, (if r.down then r.first - i else r.first + i) - x.2))))

/-- The waits of B of micro-batch s[10] on the results of F (R378): after step s of the job each count has gone up by the
copies out of m micro-batches. -/
def cWaits (img : ProgramImage) (n : Nat) : Code :=
  let l := forwardOps img n
  if l = [] then cSeq []
  else
    cSeq ([cAlui aMUL 12 31 (microBatches img), cAlu aADD 12 12 10, cAlui aADD 12 12 1] ++
      (l.zipIdx).flatMap (fun x => [cAlui aMUL 13 12 ((tileGrid x.1).1 * (tileGrid x.1).2), cTarget 13 (waitsAt img n + 16 * x.2)]) ++
      [cEnq .B 0 (waitsAt img n) l.length])

/-- A queue's work of one micro-batch on a core. -/
def cItem (img : ProgramImage) (n : Nat) (q : Q) : Code :=
  let ops := (opsOf img n).filter (fun x => decide (x.1.queue = q))
  cSeq ((if q = .B ∧ ops ≠ [] then [cWaits img n] else []) ++ ops.map (cOp img))

/-- A stretch of the schedule, with its micro-batch in s[10]. -/
def cStretch (img : ProgramImage) (n : Nat) (r : Stretch) : Code :=
  if r.count = 0 then cSeq []
  else
    cSeq [cLi 10 r.first, cRep 9 r.count (cSeq (
      r.items.map (fun x =>
        if x.2 = 0 then cItem img n x.1 else cSeq [cAlui aADD 10 10 (-x.2), cItem img n x.1, cAlui aADD 10 10 x.2]) ++
      [cAlui aADD 10 10 (if r.down then -1 else 1)]))]

/-- The counters that say that a stall's scale registers are free, armed at one (R276). -/
def armWords (img : ProgramImage) (n : Nat) : List Native :=
  (List.range 8).map (fun st => ⟨hdrNone, .carm (BitVec.ofNat 8 (ctrBase img n + 3 * st)) 1⟩)

/-- A core has work of the image. -/
def coreBusy (img : ProgramImage) (n : Nat) : Bool := !(opsOf img n).isEmpty || !(gathersOf img n).isEmpty

/-- The control program of a core (steps 2, 4 and 8 of the step sequence of chapter 1): the counters are armed
once; then, for every step, the gathers, the work of the stage in its order, and the step-end barrier. -/
def coreProgram (img : ProgramImage) (n : Nat) : List Native :=
  match img.stage with
  | none => []
  | some st =>
    if coreBusy img n = false then []
    else
      let head := cSeq [cLi 0 0, cLi 31 0, cEnq .F 0 (armAt img n) 8, cBar 0] 0
      let body := cSeq ((gathersOf img n).zipIdx.map (fun x => cGather img n x.2 x.1) ++ (stretches st img.split).map (cStretch img n) ++
        [cBar 2, cAlui aADD 31 31 1]) head.length
      head ++ body ++ ctlCode hdrNone 3 0 0 0 0 0 head.length (head.length + body.length)

/-! ### The native image -/

/-- What a native image installs: register words, bytes of memory, and blocks of bytes. -/
structure Lowered where
  installs : List (Nat × W32)
  bytes : List (Nat × Byte)
  blocks : List (Nat × List Byte)
deriving DecidableEq, Repr

/-- A number with a field replaced. -/
def putField (x lo w v : Nat) : Nat := x % 2 ^ lo + (v % 2 ^ w) * 2 ^ lo + x / 2 ^ (lo + w) * 2 ^ (lo + w)

/-- The register words of an image with the bindings in their places (R120). -/
def boundWords (img : ProgramImage) : List (Nat × W32) :=
  img.installs.map (fun x => (x.1, (img.relocs.filter (fun r => !r.mem && r.place == x.1)).foldl (fun w r =>
    BitVec.ofNat 32 (putField w.toNat r.lo r.width (bindVal img.binds r.bind / 2 ^ r.drop + r.plus))) x.2))

/-- The bytes of an image with the bindings in their places: a place in memory is 16 bytes, the length of an instruction. -/
def boundBytes (img : ProgramImage) : List (Nat × Byte) :=
  (img.relocs.filter (fun r => r.mem)).foldl (fun l r =>
    let byte (i : Nat) : Byte := ((l.reverse.find? (fun x => x.1 == r.place + i)).map (fun x => x.2)).getD 0
    let v := putField (leNat ((List.range 16).map byte)) r.lo r.width (bindVal img.binds r.bind / 2 ^ r.drop + r.plus)
    l ++ (leBytes 16 v).zipIdx.map (fun x => (r.place + x.2, x.1))) img.bytes

/-- A register word of the instruction RAM of a core, past the loader's own program for that core. -/
def pastProgram (img : ProgramImage) (x : Nat × W32) : Bool :=
  match whereIs x.1 with
  | .core n o => decide (0x8_0000 ≤ o ∧ o < 0x9_0000 ∧ (coreProgram img n).length ≤ (o - 0x8_0000) / 16)
  | _ => false

/-- What the loader's schedule adds (R36): words of instruction RAM past its own programs, and bytes of Mangers. It
touches no register of a collective, a key or a descriptor. -/
def scheduled (img : ProgramImage) : List (Nat × W32) × List (Nat × Byte) :=
  let free := Config.schedule img.signed.body img.shape
  (free.1.filter (pastProgram img), free.2.filter (fun x => decide (mangerBase 0 ≤ x.1)))

/-- The instruction RAM words of a core's program. -/
def programWords (img : ProgramImage) (n : Nat) : List (Nat × W32) :=
  ((coreProgram img n).zipIdx).flatMap (fun x => (List.range 4).map (fun w =>
    (oCore n + 0x8_0000 + 16 * x.2 + 4 * w, BitVec.ofNat 32 ((encodeNative x.1).toNat / 2 ^ (32 * w)))))

/-- What a core's Manger holds of the lowered image. -/
def coreBlocks (img : ProgramImage) (n : Nat) : List (Nat × List Byte) :=
  let l := (opsOf img n).flatMap (opBlocks img) ++
    ((gathersOf img n).zipIdx).flatMap (fun x =>
      [(gatherAt img n x.2, List.replicate 256 0), (gatherAt img n x.2 + 256, blockBytesOf (gatherWords img n x.2 x.1))]) ++
    (if coreBusy img n then [(armAt img n, blockBytesOf (armWords img n))] else []) ++
    (if (opsOf img n).isEmpty then [] else [(waitsAt img n, blockBytesOf ((forwardOps img n).map (fun o => waitWord img o.done)))])
  l.map (fun x => (mangerBase n + x.1, x.2))

/-- The native image of an image: a native image is its own; a portable one is the loader's schedule, what lowering
hands on with the bindings put in, and the programs and blocks of its operations and gathers (R36, R37). -/
def lowered (img : ProgramImage) : Lowered :=
  if img.portable then
    let free := scheduled img
    ⟨free.1 ++ boundWords img ++ (List.range 32).flatMap (programWords img), free.2 ++ boundBytes img,
      (List.range 32).flatMap (coreBlocks img)⟩
  else ⟨img.installs, img.bytes, []⟩

/-- The lowered image as bytes, of which the loader records the digest (R37): a native image's own body;
of a lowered one its installs, bytes and blocks in order (the byte form is a DESIGN CHOICE,
assumption 39). -/
def loweredBytes (img : ProgramImage) : List Byte :=
  if img.portable then
    let l := lowered img
    l.installs.flatMap (fun x => leBytes 4 x.1 ++ leBytes 4 x.2.toNat) ++
      l.bytes.flatMap (fun x => leBytes 8 x.1 ++ [x.2]) ++
      l.blocks.flatMap (fun x => leBytes 8 x.1 ++ x.2)
  else img.signed.body

/-- What lowering takes beside the bindings fits (R38, R120): the Manger and the sync counters of each core, and its
instruction RAM of 4,096 words. -/
def loweringFits (img : ProgramImage) : Bool :=
  (List.range 32).all (fun n => coreBusy img n = false ||
    (decide (mangerEnd img n ≤ mangerSize ∧ ctrBase img n + 25 ≤ 256) && decide ((coreProgram img n).length ≤ 4096)))

/-- What binding an image needs is there (R38, R120), and no chain is deeper than R131 admits: the output
tiles of a portable image, and the exact-class depth of a native heritage image (R174). -/
def needsFit (img : ProgramImage) : Bool :=
  bindsFit img.binds &&
    (if img.portable then img.tiles.all (fun o => tileDepthFits o img.shape.heritage) && loweringFits img
     else !img.shape.heritage || decide (img.depth ≤ 262144))

/-- A binding is of a kind. -/
def bindIs (img : ProgramImage) (i : Nat) (p : Bind → Bool) : Bool := (img.binds[i]?).any p

/-- The tensors and counts that an operation names are bindings of its core, or a Groom's count (R88, R120). -/
def opBound (img : ProgramImage) (o : TileOp) : Bool :=
  let n := o.core.val
  let count (b : Bind) : Bool := bindCountOf n b || (List.range 8).any (fun k => bindGroomCountOf k b)
  bindIs img o.a.bind (bindDescOf n) && bindIs img o.b.bind (bindDescOf n) && bindIs img o.c.bind (bindDescOf n) && bindIs img o.done count &&
    o.gathered.all (fun r => bindIs img r.block (fun b => decide (256 ≤ bindMangerOf n b)) && bindIs img r.count count)

/-- A gather names bindings of its core, a shard of 1 to 2,047 blocks, and formats that CVTD converts (R183). -/
def gatherBound (img : ProgramImage) (g : Gather) : Bool :=
  let n := g.core.val
  bindIs img g.count (fun b => bindCountOf n b || (List.range 8).any (fun k => bindGroomCountOf k b)) && bindIs img g.wide (bindDescOf n) &&
    bindIs img g.narrow (bindDescOf n) && decide (0 < g.blocks ∧ g.blocks ≤ 2047 ∧ (g.fin = 4 ∨ g.fin = 7) ∧ g.fmt.toNat ≤ 3)

/-- A stage of a pipeline has micro-batches and stands in it (R378). -/
def stageWf (st : Stage) : Bool := decide (st.s < st.p ∧ 0 < st.m)

end Sys2Proof.Machine
end

