-- ==== Sys2Proof/Machine/Restart.lean ====
section
/-!
DEFINITION. Loading a program (R29, R35 to R38, R120, R359, R426, R430), the paddock stop and the restart
(R280, R291, R384, R402 to R407).
-/
namespace Sys2Proof.Machine

/-! ### LOAD -/

/-- Positions of a rank in the cuts of a portable image (R359). -/
def cutPositions : List Nat → Nat → List Nat
  | [], _ => []
  | z :: l, q => q % z :: cutPositions l (q / z)

/-- The shape an image declares, with the loader's assignment for a portable image (R29, R359). -/
def loadShape (img : ProgramImage) (n : Nat) : Shape :=
  if img.portable then { img.shape with assign := (List.range n).map (cutPositions img.shape.cuts) } else img.shape

/-- The image's shape is the paddock's (R29): the product of the cuts is the number of devices, and the
ranks take one place each, inside the cuts. A paddock has no positions and no numerics mode of its own
before the load, so nothing else is compared (DEDUCED, assumption 77). -/
def shapeFits (n : Nat) (sh : Shape) : Bool :=
  decide (sh.cuts.foldl (fun a b => a * b) 1 = n ∧ sh.assign.length = n ∧ sh.assign.Nodup) &&
    sh.assign.all (fun l => decide (l.length = sh.cuts.length) && (l.zip sh.cuts).all (fun x => decide (x.1 < x.2)))

/-- An address of HBM, of a Loft or of a Manger (R219). -/
def inMemory (a : Nat) : Bool :=
  decide (a < mangerBase 0) || decide (a < windowTop ∧ (a - mangerBase 0) % 0x200_0000 < mangerSize)

/-- Every core is armed and every Groom's counts are zeroed (R280, R266, R421). -/
def armAll (s : State) : State :=
  let s := (List.range 32).foldl (fun s n => coreMod n (fun c => { c with
    sync := (List.range 256).foldl (fun t i => tabSet ctrReset t i ⟨0, 0, none⟩) c.sync,
    ccnt := (List.range 512).foldl (fun t i => tabSet ccntReset t i ⟨0, none, false⟩) c.ccnt }) s) s
  (List.range 8).foldl (fun s k => countsZero k s) s

/-- Every Groom stands at the start of a section (R252, R266). -/
def groomsAt (step : Nat) (s : State) : State :=
  (List.range 8).foldl (fun s k =>
    let s := reg64Set (oGroom k + 0x018) step s
    let s := groomPcSet k (rf s (oGroom k + 0x010) 0 12) s
    groomMod k (fun g => { g with skip := false, skipDone := false, gop := none, ngop := 0, cutWait := false }) s)
    { s with exch := [] }

/-- The step values (R18). -/
def stepValues (step cursor : Nat) (epoch : W32) (s : State) : State :=
  let s := (List.range 32).foldl (fun s n => regSet (oCore n + 0x1_0460) 0 s) s
  regSet 0x0020 epoch (reg64Set 0x0018 cursor (reg64Set 0x0010 step s))

/-- The image is measured, lowered and installed (R36, R37, R426): registers, bytes and blocks of memory, and what the
job keeps of it. -/
def imagePut (img : ProgramImage) (sh : Shape) (s : State) : State :=
  let low := lowered img
  let s := measExtend 4 (imgSvn img.signed) (imgDigest img.signed) s
  let s := measExtend 16 0 (shake256 (loweredBytes img) 64) s
  let s := low.installs.foldl (fun s x => writeBar0 x.1 x.2 .boot s) s
  let s := low.bytes.foldl (fun s x => if inMemory x.1 then memWrite x.1 [x.2] s else s) s
  let s := low.blocks.foldl (fun s x => memWrite x.1 x.2 s) s
  let s := (List.range 32).foldl (fun s n => rfSet (oCore n + 0x004) 1 1 (b2n img.split) s) s
  { s with job := ⟨true, sh.heritage, img.split, img.cursor, img.batch, img.seed.getD s.job.seed, sh,
                   shake256 (loweredBytes img) 32, img.templates, [], some img⟩ }

/-- What an accepted load does. -/
def loadDo (img : ProgramImage) (s : State) : State :=
  let s := collArmAll (groomsAt 0 (armAll (stepValues 0 img.cursor.toNat 1 (imagePut img (loadShape img (devices s)) s))))
  { s with epoch := epochReset }

/-- What stops a load on `n` devices (R38, R430): the header's checks come first, of them the SVN, whose failure is
BOOT_ROLLBACK whatever else fails. Of R38's own checks the contract version comes first, then the shape, then the
capacity (the spec gives them no order: DESIGN CHOICE, assumption 100). -/
def loadStop (n : Nat) (img : ProgramImage) (s : State) : Option W16 :=
  if imgSvn img.signed < (regGet s (oSec + 0x024)).toNat then some cBOOT_ROLLBACK
  else if imgAuth img.signed 4 (fun i => decide (1 ≤ i ∧ i ≤ 3) && rf s (oSec + 0x020) i 1 == 1) = false then some cBOOT_AUTH_FAIL
  else if img.portable ∧ Config.contractOk img.contract = false then some cCONTRACT_VERSION
  else if shapeFits n (loadShape img n) = false then some cSHAPE_MISMATCH
  else if needsFit img = false then some cCAPACITY_EXCEEDED
  else none

/-- The measurement log has room for a load's two entries (R426). -/
abbrev measRoom (s : State) : Bool := decide (s.boot.log.length + 2 ≤ 256)

/-- LOAD (R21, R38, R430). -/
def load (tag : W16) (img : ProgramImage) (s : State) : State :=
  if isSealed s = false ∨ anyRun s ∨ measRoom s = false then refuseCmd 0x30 tag s
  else
    match loadStop (devices s) img s with
    | some c => complete1 tag c (record c .global 0 (classOf c) .none s)
    | none => complete1 tag cOK (loadDo img s)

/-! ### The paddock stop (R405 steps 1 to 3) -/

/-- RESTART_REPORT: the coordinator, rank 0, stops every device; the paddock epoch is broken (R284). -/
def restartReport (rank : Nat) (code : W16) (s : State) : State :=
  if ownRank s ≠ 0 ∨ devices s ≤ rank then s
  else sendAll (.stop code) { s with epoch := { s.epoch with broken := true } }

/-- PADDOCK_STOP. -/
def paddockStop (code : W16) (s : State) : State :=
  let cls := stopClass code
  let s := hitchesResolve s
  let s := (List.range 32).foldl (stopCore cls) s
  let s := (List.range 8).foldl (stopGroom cls) { s with exch := [] }
  let s := if s.ckpt.cut.any (fun (c : Cut) => c.shadow || c.storage) then cutFail s else s
  fabDiscard { s with epoch := epochReset, ckpt := { s.ckpt with cut := none, restore := none, stopped := true, incoming := [], serving := [] } }

/-! ### RESTART (R402 to R407) -/

/-- The refusals of R406. -/
def resumeSkew (s : State) (r : RestartRecord) (ms : List (List Byte)) : Bool :=
  let m := ms.headD []
  let fresh : Bool := r.flags.toNat % 2 == 1
  ms.any (fun x => decide (manifestKey x ≠ manifestKey m)) ||
  decide (mF m 24 8 ≠ (cursorAt s.job.start s.job.batch r.step.toNat).toNat) ||
  (if fresh then decide (r.epoch.toNat ≠ (mF m 32 4 + 1) % 2 ^ 32)
   else decide (r.epoch.toNat ≠ mF m 32 4 ∨ r.seed.toNat ≠ mF m 40 16)) ||
  r.streams.any (fun x => decide (x.1 ≠ r.step ∨ x.2 ≠ r.epoch))

/-- Restore the descriptor tables from a snapshot. -/
def snapInstall (snap : List Byte) (s : State) : State :=
  let d (i : Nat) : BitVec 512 := BitVec.ofNat 512 (leNat ((snap.drop (64 * i)).take 64))
  let s := (List.range 32).foldl (fun s n => coreMod n (fun c => { c with
    desc := tabSetMany descReset [] ((List.range 4096).map (fun i => (i, d (n * 4096 + i)))) }) s) s
  (List.range 8).foldl (fun s k => groomMod k (fun g => { g with
    desc := tabSetMany descReset [] ((List.range 1024).map (fun i => (i, d (32 * 4096 + k * 1024 + i)))) }) s) s

/-- This device's rank in a record. -/
def recordRank (s : State) (r : RestartRecord) : Option Nat := r.ranks.findIdx? (fun w => decide (bits w.toNat 0 13 = haddr s))

/-- The registers of the image are installed again: routing tables, intermediate sets, groups, collective entries,
roles, programs (R291, R405 steps 6 and 9). The tables of the fabric are rebuilt whole, so an entry that the image does
not give is not VALID. Roles go past the guard of R353: no paddock runs. -/
def installsAgain (s : State) : State :=
  match s.job.image with
  | none => s
  | some img =>
    (lowered img).installs.foldl (fun s x => if cageRole x.1 then writeEffect x.1 x.2 s else writeBar0 x.1 x.2 .boot s)
      { s with fab := { s.fab with rt := [], midset := [], group := [], coll := [], order := [] } }

/-- A device that changed rank loads and lowers the image (R405 step 6): the one that it is given, under the checks of
a load, or else the one it holds, whose bytes it puts again. The first result is the code of a load that stops. -/
def imageAgain (n : Nat) (given : Option ProgramImage) (s : State) : Option W16 × State :=
  match given, s.job.image with
  | some img, _ =>
    if measRoom s = false then (some cSTATE_REFUSED, s)
    else
      match loadStop n img s with
      | some c => (some c, s)
      | none => (none, imagePut img (loadShape img n) s)
  | none, some img =>
    let low := lowered img
    let s := low.bytes.foldl (fun s x => if inMemory x.1 then memWrite x.1 [x.2] s else s) s
    (none, low.blocks.foldl (fun s x => memWrite x.1 x.2 s) s)
  | none, none => (none, s)

/-- The rings of a controlled cage are relocked on its roles, and its port trains its lanes once the cage is
locked (R405 step 9). -/
def cageRelock (s : State) (g : Nat) : State :=
  if cageEn s g = false ∨ (cageSt s g).searched = false then s
  else
    let on := assignedRings s g
    let s := (List.range 24).foldl (fun s r =>
      if r ∈ on then rfSet (oRing g r) 21 1 0 (ringStateSet g r (if r < 8 then 2 else 1) s) else ringPark g r s) s
    let s := cageStateSet g 2 (cageMod g (fun c => { c with quar := [], fails := [], badTone := [], badFrame := [] }) s)
    let s := match portOfCage s g with
      | some p => portMod p (fun q => { q with out := false }) (linkClear p (portLanesSet p 0 (portStateSet p 0 s)))
      | none => s
    cageSettle g s

/-- A copper port whose lanes in service are not those enabled trains them anew (R291, R405 step 9). -/
def lanesAgain (s : State) (p : Nat) : State :=
  if (portState s p = 2 ∨ portState s p = 3) ∧ cageOf s p = none ∧ portActive s p ≠ rf s (oPort p + 0x014) 0 8 then
    linkClear p (portStateSet p 1 (portLanesSet p 0 s))
  else s

/-- Steps 4 and 9: rank map, own rank and paddock; tables, collectives and optical roles rebuilt; lanes trained; adds
begin anew, and a lane that was left out for its hour may be added again (R392). -/
def mapRebuild (r : RestartRecord) (m : List Byte) (s : State) : State :=
  let s := installsAgain s
  let map := tabSetMany 0 [] ((r.ranks.zipIdx).map (fun x => (x.2, haddrWord x.1 ||| 0x80000000#32)))
  let s : State := { s with fab := { s.fab with map := map } }
  let s := match recordRank s r with
    | some i => rfSet (oCommon + 8) 0 14 r.ranks.length (rfSet (oCommon + 4) 16 13 i (rfSet (oCommon + 4) 0 16 (mF m 8 2) s))
    | none =>
      let t := rfSet (oCommon + 8) 0 14 0 (rfSet (oCommon + 4) 16 13 0 s)
      { t with fab := { t.fab with map := [] } }
  let s := (List.range 24).foldl (fun s p => portMod p (fun q => { q with out := false, adds := [], barred := [] }) s) s
  twinReview (collArmAll ((List.range 12).foldl cageRelock ((List.range 24).foldl lanesAgain s)))

/-- The contexts of a core stand at the entry points of their programs (R67, R398; assumption 84). -/
def programsBack (s : State) : State :=
  (List.range 32).foldl (fun s n => [Ctx.primary, Ctx.filler].foldl (fun s x =>
    ctxMod n x (fun v => { v with pc := v.entry }) s) s) s

/-- The RUN bits of a core: core, primary context, and the filler context where it ran (R67, R405 step 10). -/
def coreGo (s : State) (n : Nat) : State :=
  let s := ostlerRun n .primary true (rfSet (oCore n + 0x004) 0 1 1 s)
  if (coreOf s n).ctxX.again then ctxMod n .filler (fun v => { v with again := false }) (ostlerRun n .filler true s) else s

/-- Step 10: counters armed, the seed and the step values installed, reductions and slots cleared (R209),
and the RUN bits of cores, contexts and Grooms set. -/
def restartGo (r : RestartRecord) (m : List Byte) (s : State) : State :=
  let s := stepValues r.step.toNat (mF m 24 8) r.epoch s
  let s := groomsAt r.step.toNat (armAll s)
  let s := (List.range 32).foldl (fun s n => coreMod n (fun c => { c with red := [], slots := [] }) s) s
  let s : State := { s with job := { s.job with seed := r.seed, opened := [] } }
  let s : State := { s with epoch := epochReset, ckpt := { s.ckpt with restore := none, stopped := false } }
  (List.range 8).foldl (fun s k => groomRunSet k true s) ((List.range 32).foldl coreGo s)

/-! ### Restoring from storage (R402) -/

/-- Complete the RESTART that is in execution. -/
def restartComplete (c : W16) (s : State) : State :=
  match runningTag (fun e => entryOp e == 0x0031) s with
  | some t => complete1 t c (fore (fun e => entryOp e == 0x0031) s)
  | none => s

/-- Send a read request for grains (R402). A device that sends its shadow is asked for nothing (R405 step 8). -/
def readSend (first count tag : Nat) (s : State) : State :=
  match s.ckpt.restore with
  | none => s
  | some x =>
    if x.switch = none then s else
    let s := evAdvance s
    let step := x.record.step.toNat
    let paddock := match x.others.find? (fun m => !m.isEmpty) with
      | some m => mF m 8 2
      | none => rf s (oCommon + 4) 0 16
    let h : W128 := BitVec.ofNat 128 (3 * 2 ^ 126 + 3 * 2 ^ 124 + haddr s * 2 ^ 111 + haddr s * 2 ^ 98 + haddr s * 2 ^ 85 + 1 * 2 ^ 84 +
      first % 2 ^ 44 * 2 ^ 40 + step % 2 ^ 16 * 2 ^ 24 + 6 * 2 ^ 21 + tag % 32 * 2 ^ 16)
    let p := leBytes 8 step ++ leBytes 2 paddock ++ leBytes 2 x.rank ++ leBytes 4 count ++
      List.replicate 232 0 ++ leBytes 8 s.log.evseq.toNat
    pumpAll (spaceSend (haddr s) 1 ⟨0, ⟨h, p⟩, none, []⟩
      (emit (.message (haddr s) (.storageRead first count tag x.record.step) s.log.evseq) s))

/-- Ask for the next grains: the manifest's 16 first, then at most 4,096 that are asked for and not yet answered. -/
def readNext (s : State) : State :=
  match s.ckpt.restore with
  | none => s
  | some x =>
    let n := min (if x.nextGrain < 16 then 16 - x.nextGrain else 4096) (x.total - x.nextGrain)
    if n = 0 then s
    else
      let tag := x.nextGrain / 4096 % 32
      let x' : Restore := { x with reqs := tabSet none [] tag (some (x.nextGrain, n)), nextGrain := x.nextGrain + n, got := [] }
      readSend x.nextGrain n tag { s with ckpt := { s.ckpt with restore := some x' } }

/-- Where a grain of a storage image after the manifest goes: into the snapshot, or to its address. -/
def grainAddr (m : List Byte) (i : Nat) : Option Nat :=
  ((mRanges m).foldl (fun (acc : Nat × Option Nat) x =>
    if acc.2.isSome then acc
    else if i < acc.1 + x.2.2.1 then (acc.1, some (x.2.1 + 256 * (i - acc.1)))
    else (acc.1 + x.2.2.1, none)) (16 + snapLen / 256, none)).2

/-- What stops a restart when its manifests are judged (R404, R405 step 7, R406): one that does not hold, complete
copies of another step than the record's, and what R406 lists. -/
def restartStop (r : RestartRecord) (ms : List (List Byte)) (s : State) : Option W16 :=
  if ms.any (fun x => !manifestOk x) then some cMANIFEST_BAD
  else if ms.all (fun x => decide (mF x 16 8 = mF (ms.headD []) 16 8)) = true ∧ mF (ms.headD []) 16 8 ≠ r.step.toNat then
    some cNO_CONSISTENT_SET
  else if resumeSkew s r ms then some cRESUME_SKEW
  else none

/-- A restore ends without a run. -/
def restoreStop (c : W16) (cls : Class) (s : State) : State :=
  restartComplete c (record c .global 0 cls .none { s with ckpt := { s.ckpt with restore := none } })

/-- The ranges of a restored image are read back (R228, R238, R406): their bytes, none where one cannot be read, and
the state. -/
def restoreRead (m : List Byte) (s : State) : Option (List (List Byte)) × State :=
  (mRanges m).foldl (fun (x : Option (List (List Byte)) × State) r =>
    match x.1 with
    | none => x
    | some l =>
      let e := engineRead r.2.1 (256 * r.2.2.1) x.2
      if e.1 then (none, e.2) else (some (l ++ [memRead e.2 r.2.1 (256 * r.2.2.1)]), e.2)) (some [], s)

/-- The end of a restore (R402 step 5): every CHECK, then step 10. It waits while a stack of its ranges does (R227,
R233). -/
def restoreEnd (x : Restore) (s : State) : State :=
  let m := x.manifest
  if (mRanges m).any (fun r => stackWaits s r.2.1 (256 * r.2.2.1)) then s
  else
    let snap := (List.range snapLen).map (fun i => tabGet 0 x.image i)
    let t := restoreRead m s
    if (t.1.any (restoredOk m snap)) then restartComplete cOK (restartGo x.record m (snapInstall snap t.2))
    else restoreStop cMANIFEST_BAD .stop t.2

/-- The acknowledgement of a storage grain (R320, R402), on the port it came by. Grains take their
sequence numbers in the order they arrive. -/
def storageAck (s : State) : State :=
  let k := rxKey (haddr s) 0
  let seq := (rxOf s k).base
  let s := rxTake k seq s
  let r := rxOf s k
  let f : Flit := ⟨ctlHdr s 2 (haddr s) 0, freePayload s 256⟩
  let s := emit (.response (haddr s) 0 r.base r.got seq none false) { s with free := s.free + 256 }
  match storagePort s with
  | some p => pump p (queueOn p f s)
  | none => s

/-- A grain of a restore is acknowledged: a storage grain on the port of its switch, one of a shadow to the device
that holds it (R320, R402). -/
def restoreAck (x : Restore) (s : State) : State :=
  if x.switch.isSome then storageAck s
  else
    let k := rxKey x.holder 0
    let seq := (rxOf s k).base
    pumpAll (respond x.holder 0 seq none false (rxTake k seq s))

/-- The manifest that a device has read from its storage goes to the coordinator's check (R402 step 1, R405 step 7);
then tables are rebuilt, and the rest of the image is read. -/
def restoreJudge (x : Restore) (s : State) : State :=
  match restartStop x.record (x.others.set x.rank x.manifest) s with
  | some c => restoreStop c .stop s
  | none =>
    let s := mapRebuild x.record x.manifest s
    readNext { s with ckpt := { s.ckpt with restore := some { x with total := imageGrains x.manifest } } }

/-- A restore goes on: every grain asked for is here, and the next are asked for, or the image is whole. -/
def restoreNext (s : State) : State :=
  match s.ckpt.restore with
  | none => s
  | some x =>
    if (x.reqs.filterMap (fun e => e.2)).any (fun r => decide (x.got.length < r.2)) then s
    else if x.nextGrain = 16 ∧ x.total = 16 then restoreJudge x s
    else if x.nextGrain < x.total then readNext s
    else restoreEnd x s

/-- One grain of a restore (R402 step 3): it is written to its place and acknowledged. One whose stack lets it wait
waits (R227, R233), and one to a stack in TEST is refused (R244). -/
def restoreGrain (i : Nat) (data : List Byte) (s : State) : State :=
  match s.ckpt.restore with
  | none => s
  | some x =>
    let asked : Bool := x.reqs.any (fun e => e.2.any (fun r => decide (r.1 ≤ i ∧ i < r.1 + r.2)))
    if asked = false ∨ i ∈ x.got ∨ data.length ≠ 256 ∨ x.parked.any (fun e => e.1 == i) = true then s
    else
      let a := if 16 + snapLen / 256 ≤ i then (grainAddr x.manifest i).filter (fun a => decide (a + 256 ≤ hbmTop)) else none
      if a.any (fun a => stackWaits s a 256) then
        { s with ckpt := { s.ckpt with restore := some { x with parked := x.parked ++ [(i, data)] } } }
      else if a.any (fun a => touchesTest s a 256) then
        record cSTATE_REFUSED .global 0 (classOf cSTATE_REFUSED) (.num i) s
      else
        let m := if i < 16 then x.manifest.take (256 * i) ++ data ++ x.manifest.drop (256 * (i + 1)) else x.manifest
        let s := match a with
          | some a => hbmAccess a 256 0 true (memWrite a data s)
          | none => s
        let image := if 16 ≤ i ∧ i < 16 + snapLen / 256 then tabSplice x.image (256 * (i - 16)) data else x.image
        let x' : Restore := { x with got := setAdd x.got i, image := image, manifest := m }
        restoreAck x { s with ckpt := { s.ckpt with restore := some x' } }

/-- The grains that waited for a stack are taken, or wait on. -/
def restoreParked (s : State) : State :=
  match s.ckpt.restore with
  | none => s
  | some x => x.parked.foldl (fun s e => restoreGrain e.1 e.2 s)
      { s with ckpt := { s.ckpt with restore := some { x with parked := [] } } }

/-- STORAGE_READ_DATA (R402 steps 1 to 3, R405 step 8, R406; assumption 97). -/
def storageReadData (i : Nat) (data : List Byte) (s : State) : State :=
  if s.ckpt.restore = none then s else restoreNext (restoreGrain i data (restoreParked s))

/-- The first run of grains of `[a, b)` that are missing. -/
def missingRun (got : List Nat) (a b : Nat) : Option (Nat × Nat) :=
  let l := (List.range (b - a)).map (fun j => a + j)
  match l.find? (fun g => decide (g ∉ got)) with
  | none => none
  | some f => some (f, ((l.dropWhile (fun g => decide (g < f))).takeWhile (fun g => decide (g ∉ got))).length)

/-- Ask again for every missing run. -/
def readAgain (tag b : Nat) (got : List Nat) : Nat → Nat → State → State
  | 0, _, s => s
  | n + 1, a, s =>
    match missingRun got a b with
    | none => s
    | some (f, c) => readAgain tag b got n (f + c) (readSend f c tag s)

/-- STORAGE_READ_TIMEOUT (R402 step 4). A grain that waits for its stack has arrived. -/
def storageReadTimeout (tag : BitVec 5) (s : State) : State :=
  if s.ckpt.restore = none then s
  else
    let s := restoreNext (restoreParked s)
    match s.ckpt.restore with
    | none => s
    | some x =>
      match tabGet none x.reqs tag.toNat with
      | none => s
      | some (a, n) => readAgain tag.toNat (a + n) (x.got ++ x.parked.map (fun e => e.1)) n a s

/-- A grain of a restore is still missing at PORT_E2E.LIMIT: the restart stops (R402 step 4). -/
def restoreLost (s : State) : State :=
  if s.ckpt.restore.isSome then restoreStop cDELIVERY_LOST .restart s else s

/-- A flit that carries a grain of the cut's shadow (R400). -/
def isCut (s : State) (f : Flit) : Bool :=
  isShadow s f && decide (fDst f = twinHaddr s) && s.ckpt.cut.any (fun (c : Cut) => c.shadow && c.streamed)

/-- DELIVERY_LOST (R320, R323, R399, R402): a grain of an image that is not acknowledged fails its cut; a read
request whose grains have not come stops the restart, acknowledged or not. -/
def deliveryLostCmd (dst space : Nat) (seq : W16) (s : State) : State :=
  let k := txKey dst space
  let t := txOf s k
  let drop (p : Flit → Bool) : State :=
    txPut k { t with held := t.held.filter (fun v => !p v.flit), waiting := t.waiting.filter (fun v => !p v.flit) } s
  match t.held.find? (fun u => decide (u.seq = seq.toNat)) with
  | none => if dst = haddr s ∧ space = 1 then restoreLost s else s
  | some u =>
    if isCut s u.flit then shadowFail (drop (isShadow s))
    else if isStorage s u.flit = false then deliveryLost dst space seq s
    else
      let s := drop (isStorage s)
      if fKind u.flit = 1 then
        (match s.ckpt.cut with
         | some c =>
           if c.shadow then
             record cSHADOW_FAILED .global 0 .report .none { s with ckpt := { s.ckpt with cut := some { c with storage := false } } }
           else cutFail s
         | none => s)
      else restoreLost s

/-- E2E_RESPONSE (R320 to R322, R100); a fault that a grain of the cut's shadow meets at the twin fails the shadow
(R399). -/
def e2eResponseCmd (src space : Nat) (cum : W16) (bitmap : List Nat) (fault : Option (W16 × W16)) (s : State) : State :=
  let hit := fault.any (fun f => (txOf s (txKey src space)).held.any (fun u => decide (u.seq = f.1.toNat) && isCut s u.flit))
  let t := e2eResponse src space cum bitmap fault s
  if hit then shadowFail t else t

/-- The restore of this device begins (R402, R405 step 8): from storage by requests, its manifest first, or from the
shadow that another device holds and sends (assumption 97). `ms` are the manifests of all ranks. -/
def restoreBegin (r : RestartRecord) (i : Nat) (ms : List (List Byte)) (s : State) : State :=
  let word := (r.ranks.getD i 0).toNat
  let x : Restore := ⟨r, i, ms, [], none, 0, [], 0, 16, [], [], []⟩
  if bits word 13 2 = 2 then
    readNext { s with ckpt := { s.ckpt with restore := some { x with switch := some (bits word 15 4) } } }
  else
    let m := ms.getD i []
    let total := imageGrains m
    let t := mapRebuild r m s
    let y : Restore := { x with manifest := m, holder := bits word 15 13, reqs := [(0, some (16, total - 16))], nextGrain := total, total := total }
    { t with ckpt := { t.ckpt with restore := some y } }

/-- A rank of a record restores from a slot of this device's shadow region (R405 step 8, R454). -/
def servesHere (s : State) (w : W32) : Bool := decide (bits w.toNat 13 2 ≠ 2 ∧ bits w.toNat 15 13 = haddr s)

/-- The manifest of a shadow that this device holds, as the coordinator reads it (R404): none where the slot does not
hold the step, or cannot be read. -/
def manifestHeld (step : W64) (slot : Nat) (s : State) : Option (List Byte) × State :=
  if heldStep s slot ≠ step.toNat then (none, s)
  else
    let r := engineRead (slotBase s slot) 4096 s
    (if r.1 then none else some (slotBytes r.2 slot 16), r.2)

/-- The manifests of all ranks (R404, R405 step 7): for a shadow held here the device's own, for the others what the
coordinator has read. One that this device reads from storage itself comes later, and is left empty. -/
def manifestsRead (r : RestartRecord) (seen : RestartSeen) (s : State) : List (Option (List Byte)) × State :=
  (r.ranks.zipIdx).foldl (fun (x : List (Option (List Byte)) × State) w =>
    if servesHere x.2 w.1 then
      let h := manifestHeld r.step (bits w.1.toNat 13 2) x.2
      (x.1 ++ [h.1], h.2)
    else if recordRank x.2 r = some w.2 ∧ bits w.1.toNat 13 2 = 2 then
      (x.1 ++ [(seen.manifests.getD w.2 none).map (fun _ => [])], x.2)
    else (x.1 ++ [seen.manifests.getD w.2 none], x.2)) ([], s)

/-- The shadows that this device is to send to the devices that restore from them (R405 step 8). -/
def servingSet (r : RestartRecord) (s : State) : State :=
  { s with ckpt := { s.ckpt with serving := (r.ranks.filter (servesHere s)).map (fun w =>
      ⟨bits w.toNat 0 13, bits w.toNat 13 2, r.step⟩) } }

/-- A device that is named again is given its rank (R394, R405 step 4): one without the spares it needs refuses. -/
abbrev rankRefused (s : State) (r : RestartRecord) : Bool := s.boot.exhausted && (recordRank s r).isSome

/-- RESTART (R405 steps 4 to 9, R404, R406). In Rest, where no RUN bit may become 1, it is refused (R432).
STORAGE_READ_DATA brings the restored state, and step 10 follows. -/
def restart (tag : W16) (r : RestartRecord) (seen : RestartSeen) (s : State) : State :=
  let changed : Bool := (recordRank s r).any (fun i => decide (i ≠ ownRank s ∨ devices s = 0))
  let stop (c : W16) (s : State) : State := complete1 tag c (record c .global 0 .stop .none s)
  if isSealed s = false ∨ anyRun s = true ∨ tackNow s = 3 ∨ rankRefused s r = true then refuseCmd 0x31 tag s
  else
    let h := manifestsRead r seen s
    let ms := h.1.filterMap (fun m => m)
    if ms.length ≠ r.ranks.length ∨ seen.manifests.length ≠ r.ranks.length ∨ ms = [] then stop cNO_CONSISTENT_SET h.2
    else
      let t := farrierRepair seen.rows seen.stalls h.2
      let u := if changed then imageAgain r.ranks.length seen.image t else (none, t)
      let t := programsBack u.2
      let read := ms.filter (fun m => !m.isEmpty)
      match u.1, (if read = [] then none else restartStop r read t) with
      | some c, _ => stop c t
      | none, some c => stop c (if c = cNO_CONSISTENT_SET then h.2 else t)
      | none, none =>
        let t := servingSet r t
        match recordRank s r with
        | none => complete1 tag cOK (mapRebuild r (read.headD []) t)
        | some i => restoreBegin r i ms t

end Sys2Proof.Machine
end

