-- ==== Sys2Proof/Machine/CmdFabric.lean ====
section
/-!
DEFINITION. The commands of the ports and the fabric (R300 to R329, R347).
Each meaning answers a next state.
-/
namespace Sys2Proof.Machine

/-- BLOCK_RECEIVE (R303). -/
def execBlockReceive (p : Fin 24) (b : Block) (s : State) : Host.Outcome State Fault Refusal :=
  .next (Sys2Proof.Machine.blockReceive p.val b s)

/-- LINK_ACK_TIMEOUT (R303). -/
def execLinkAckTimeout (p : Fin 24) (s : State) : Host.Outcome State Fault Refusal :=
  .next (Sys2Proof.Machine.linkAckTimeout p.val s)

/-- BLOCK_PAD_TIMEOUT (R301). -/
def execBlockPadTimeout (p : Fin 24) (s : State) : Host.Outcome State Fault Refusal :=
  .next (Sys2Proof.Machine.blockPadTimeout p.val s)

/-- FLIT_RECEIVE (R313). -/
def execFlitReceive (p : Fin 24) (vc : Fin 4) (s : State) : Host.Outcome State Fault Refusal :=
  .next (Sys2Proof.Machine.flitReceive p.val vc.val s)

/-- NO_ROUTE_TIMEOUT (R316). -/
def execNoRouteTimeout (src : Nat) (s : State) : Host.Outcome State Fault Refusal :=
  .next (Sys2Proof.Machine.noRouteTimeout src s)

/-- E2E_RESPONSE (R320). -/
def execE2eResponse (src : Nat) (space : Nat) (cum : W16) (bitmap : List Nat) (fault : Option (W16 × W16)) (s : State) : Host.Outcome State Fault Refusal :=
  .next (Sys2Proof.Machine.e2eResponseCmd src space cum bitmap fault s)

/-- E2E_RESEND_TIMEOUT (R320). -/
def execE2eResendTimeout (dst : Nat) (space : Nat) (seq : W16) (s : State) : Host.Outcome State Fault Refusal :=
  .next (Sys2Proof.Machine.e2eResendTimeout dst space seq s)

/-- DELIVERY_LOST (R320). -/
def execDeliveryLost (dst : Nat) (space : Nat) (seq : W16) (s : State) : Host.Outcome State Fault Refusal :=
  .next (deliveryLostCmd dst space seq s)

/-- BUSY_RETRY (R321). -/
def execBusyRetry (dst : Nat) (space : Nat) (seq : W16) (s : State) : Host.Outcome State Fault Refusal :=
  .next (Sys2Proof.Machine.busyRetry dst space seq s)

/-- LANE_SHED (R306). -/
def execLaneShed (p : Fin 24) (lane : Fin 8) (s : State) : Host.Outcome State Fault Refusal :=
  .next (Sys2Proof.Machine.laneShed p.val lane.val s)

/-- LANE_BER_WINDOW (R306). -/
def execLaneBerWindow (p : Fin 24) (lane : Fin 8) (errors : LaneErrors) (bits : Nat) (s : State) :
    Host.Outcome State Fault Refusal :=
  .next (Sys2Proof.Machine.laneBerWindow p.val lane.val errors.bits bits errors.symbols s)

/-- LANE_SHED_RESUME (R306). -/
def execLaneShedResume (p : Fin 24) (s : State) : Host.Outcome State Fault Refusal :=
  .next (Sys2Proof.Machine.laneShedResume p.val s)

/-- PORT_TRAIN (R310). -/
def execPortTrain (p : Fin 24) (s : State) : Host.Outcome State Fault Refusal :=
  .next (Sys2Proof.Machine.portTrain p.val s)

/-- PORT_TRAIN_DONE (R310). -/
def execPortTrainDone (p : Fin 24) (lanes : Byte) (seen : W32) (s : State) : Host.Outcome State Fault Refusal :=
  .next (Sys2Proof.Machine.portTrainDone p.val lanes.toNat seen s)

/-- SWAP_NOTICE (R347). -/
def execSwapNotice (p : Fin 24) (lane : Fin 8) (s : State) : Host.Outcome State Fault Refusal :=
  .next (Sys2Proof.Machine.swapNotice p.val lane.val s)

/-- SWAP_MASK_EXPIRE (R347). -/
def execSwapMaskExpire (p : Fin 24) (lane : Fin 8) (s : State) : Host.Outcome State Fault Refusal :=
  .next (Sys2Proof.Machine.swapMaskExpire p.val lane.val s)

/-- LANE_REACQUIRE (R347). -/
def execLaneReacquire (p : Fin 24) (lane : Fin 8) (s : State) : Host.Outcome State Fault Refusal :=
  .next (Sys2Proof.Machine.laneReacquire p.val lane.val s)

end Sys2Proof.Machine
end

