-- ==== Sys2Proof/Machine/CmdGroom.lean ====
section
/-!
DEFINITION. The commands of the Grooms (R116, R117, R249 to R270).
Each meaning answers a next state.
-/
namespace Sys2Proof.Machine

/-- GWAIT (R116). -/
def execGwait (k : Fin 8) (s : State) : Host.Outcome State Fault Refusal :=
  .next (groomGwait k.val s)

/-- GSKIP (R255). -/
def execGskip (k : Fin 8) (s : State) : Host.Outcome State Fault Refusal :=
  .next (groomGskip k.val s)

/-- GOP_MOM1 (R258). -/
def execGopMom1 (k : Fin 8) (s : State) : Host.Outcome State Fault Refusal :=
  .next (groomGop 1 k.val s)

/-- GOP_MOM2 (R258). -/
def execGopMom2 (k : Fin 8) (s : State) : Host.Outcome State Fault Refusal :=
  .next (groomGop 2 k.val s)

/-- GOP_APPLY (R258). -/
def execGopApply (k : Fin 8) (s : State) : Host.Outcome State Fault Refusal :=
  .next (groomGop 3 k.val s)

/-- GOP_DECAY (R258). -/
def execGopDecay (k : Fin 8) (s : State) : Host.Outcome State Fault Refusal :=
  .next (groomGop 4 k.val s)

/-- GOP_SGD (R258). -/
def execGopSgd (k : Fin 8) (s : State) : Host.Outcome State Fault Refusal :=
  .next (groomGop 5 k.val s)

/-- GOP_REANCHOR (R261). -/
def execGopReanchor (k : Fin 8) (s : State) : Host.Outcome State Fault Refusal :=
  .next (groomGop 6 k.val s)

/-- GOP_CAST (R258). -/
def execGopCast (k : Fin 8) (s : State) : Host.Outcome State Fault Refusal :=
  .next (groomGop 7 k.val s)

/-- GOP_DONE (R267). -/
def execGopDone (k : Fin 8) (s : State) : Host.Outcome State Fault Refusal :=
  .next (Sys2Proof.Machine.gopDone k.val s)

/-- GROOM_PARTIAL_MSG (R262). -/
def execGroomPartialMsg (holder : Fin 8) (block : Nat) (s : State) : Host.Outcome State Fault Refusal :=
  .next (Sys2Proof.Machine.groomPartialMsg holder.val block s)

/-- GROOM_VERDICT_MSG (R264). -/
def execGroomVerdictMsg (k : Fin 8) (block : Nat) (s : State) : Host.Outcome State Fault Refusal :=
  .next (Sys2Proof.Machine.groomVerdictMsg k.val block s)

/-- REANCHOR_AGREE (R261). -/
def execReanchorAgree (s : State) : Host.Outcome State Fault Refusal :=
  .next (Sys2Proof.Machine.reanchorAgree s)

/-- GSIGNAL (R254). -/
def execGsignal (k : Fin 8) (s : State) : Host.Outcome State Fault Refusal :=
  .next (groomGsignal k.val s)

/-- GEND (R252). -/
def execGend (k : Fin 8) (s : State) : Host.Outcome State Fault Refusal :=
  .next (groomGend k.val s)

/-- GROOM_RUN (R270). -/
def execGroomRun (k : Fin 8) (v : Bool) (s : State) : Host.Outcome State Fault Refusal :=
  .next (Sys2Proof.Machine.groomRun k.val v s)

/-- GROOM_STOPPED (R270). -/
def execGroomStopped (k : Fin 8) (s : State) : Host.Outcome State Fault Refusal :=
  .next (Sys2Proof.Machine.groomStopped k.val s)

/-- GROOM_ZERO_COUNTS (R282). -/
def execGroomZeroCounts (k : Fin 8) (s : State) : Host.Outcome State Fault Refusal :=
  .next (Sys2Proof.Machine.groomZeroCounts k.val s)

/-- GROOM_HANG (R268). -/
def execGroomHang (k : Fin 8) (w : GroomWait) (s : State) : Host.Outcome State Fault Refusal :=
  .next (Sys2Proof.Machine.groomHang k.val w s)

end Sys2Proof.Machine
end

