-- ==== Sys2Proof/Machine/CmdHealth.lean ====
section
/-!
DEFINITION. The commands of loading, the health monitor, the twin, the Farrier, checkpoints and restarts (R38, R389 to R405).
Each meaning answers a next state.
-/
namespace Sys2Proof.Machine

/-- LOAD (R38). -/
def execLoad (tag : W16) (img : ProgramImage) (s : State) : Host.Outcome State Fault Refusal :=
  .next (runAs 0x0030 tag (fun e => decide (entryField e 16 4 = 512 + img.signed.body.length))
    (Sys2Proof.Machine.load tag img) s)

/-- RISK_TICK (R389). -/
def execRiskTick (decay : List Nat) (s : State) : Host.Outcome State Fault Refusal :=
  .next (Sys2Proof.Machine.riskTick decay s)

/-- TWIN_PAIRING (R395). -/
def execTwinPairing (haddr : BitVec 13) (side : BitVec 1) (feed : BitVec 3) (s : State) : Host.Outcome State Fault Refusal :=
  .next (Sys2Proof.Machine.twinPairing haddr side feed s)

/-- TWIN_HEARTBEAT (R396). -/
def execTwinHeartbeat (s : State) : Host.Outcome State Fault Refusal :=
  .next (Sys2Proof.Machine.twinHeartbeat s)

/-- TWIN_HEARTBEAT_TIMEOUT (R396). -/
def execTwinHeartbeatTimeout (s : State) : Host.Outcome State Fault Refusal :=
  .next (Sys2Proof.Machine.twinHeartbeatTimeout s)

/-- FARRIER_LANE_REPAIR (R392). -/
def execFarrierLaneRepair (p : Fin 24) (lane : Fin 8) (r : RepairResult) (s : State) : Host.Outcome State Fault Refusal :=
  .next (Sys2Proof.Machine.farrierLaneRepair p.val lane.val r s)

/-- SHADOW_STREAM (R400). -/
def execShadowStream (s : State) : Host.Outcome State Fault Refusal :=
  .next (Sys2Proof.Machine.shadowStream s)

/-- SHADOW_ACK (R400). -/
def execShadowAck (slot : Fin 2) (step : W64) (s : State) : Host.Outcome State Fault Refusal :=
  .next (Sys2Proof.Machine.shadowAck slot.val step s)

/-- STORAGE_CKPT_DONE (R401). -/
def execStorageCkptDone (s : State) : Host.Outcome State Fault Refusal :=
  .next (Sys2Proof.Machine.storageCkptDone s)

/-- STORAGE_READ_DATA (R402). -/
def execStorageReadData (index : Nat) (data : List Byte) (s : State) : Host.Outcome State Fault Refusal :=
  .next (Sys2Proof.Machine.storageReadData index data s)

/-- STORAGE_READ_TIMEOUT (R402). -/
def execStorageReadTimeout (tag : BitVec 5) (s : State) : Host.Outcome State Fault Refusal :=
  .next (Sys2Proof.Machine.storageReadTimeout tag s)

/-- RESTART_REPORT (R405). -/
def execRestartReport (rank : Nat) (code : W16) (s : State) : Host.Outcome State Fault Refusal :=
  .next (Sys2Proof.Machine.restartReport rank code s)

/-- PADDOCK_STOP (R405). -/
def execPaddockStop (code : W16) (s : State) : Host.Outcome State Fault Refusal :=
  .next (Sys2Proof.Machine.paddockStop code s)

/-- RESTART (R405). -/
def execRestart (tag : W16) (r : RestartRead) (s : State) : Host.Outcome State Fault Refusal :=
  .next (runAs 0x0031 tag (fun e => decide (entryField e 16 2 = r.record.ranks.length))
    (Sys2Proof.Machine.restart tag r.record r.seen) s)

/-- CUT_STATE_READ (R399). -/
def execCutStateRead (k : Fin 8) (s : State) : Host.Outcome State Fault Refusal :=
  .next (cutStateReadCmd k.val s)

end Sys2Proof.Machine
end

