-- ==== Sys2Proof/Machine/CmdHitch.lean ====
section
/-!
DEFINITION. The commands of barrier epochs, the step commit and hitches (R19, R283 to R292).
Each meaning answers a next state.
-/
namespace Sys2Proof.Machine

/-- STEP_COMMIT (R19). -/
def execStepCommit (s : State) : Host.Outcome State Fault Refusal :=
  .next (Sys2Proof.Machine.stepCommit s)

/-- DEVICE_EPOCH_CLOSE (R283). -/
def execDeviceEpochClose (s : State) : Host.Outcome State Fault Refusal :=
  .next (Sys2Proof.Machine.deviceEpochClose s)

/-- BARRIER_JOIN_MSG (R283). -/
def execBarrierJoinMsg (rank : Nat) (req : Bool) (interval : Nat) (s : State) : Host.Outcome State Fault Refusal :=
  .next (Sys2Proof.Machine.barrierJoinMsg rank req interval s)

/-- BARRIER_CLOSE_MSG (R283). -/
def execBarrierCloseMsg (shadow : Bool) (storage : Bool) (s : State) : Host.Outcome State Fault Refusal :=
  .next (Sys2Proof.Machine.barrierCloseMsg shadow storage s)

/-- HITCH_OPEN (R292). -/
def execHitchOpen (tag : W16) (ranks : List Nat) (limit : Nat) (s : State) : Host.Outcome State Fault Refusal :=
  .next (runAs 0x0001 tag (fun e => decide (entryField e 16 2 = ranks.length ∧ entryField e 18 2 = limit))
    (Sys2Proof.Machine.hitchOpen tag ranks limit) s)

/-- HITCH_STAGE (R287). -/
def execHitchStage (tag : W16) (hitch : W16) (rank : Nat) (action : Action) (s : State) : Host.Outcome State Fault Refusal :=
  .next (runAs 0x0002 tag (fun e => decide (entryNum e = some hitch ∧ entryField e 10 2 = rank ∧ entryAction e = some action))
    (Sys2Proof.Machine.hitchStage tag hitch rank action) s)

/-- HITCH_COMMIT (R288). -/
def execHitchCommit (tag : W16) (hitch : W16) (s : State) : Host.Outcome State Fault Refusal :=
  .next (runAs 0x0003 tag (fun e => decide (entryNum e = some hitch)) (Sys2Proof.Machine.hitchCommit tag hitch) s)

/-- HITCH_ABORT (R292). -/
def execHitchAbort (tag : W16) (hitch : W16) (s : State) : Host.Outcome State Fault Refusal :=
  .next (runAs 0x0004 tag (fun e => decide (entryNum e = some hitch)) (Sys2Proof.Machine.hitchAbort tag hitch) s)

/-- HITCH_QUERY (R292). -/
def execHitchQuery (tag : W16) (hitch : W16) (s : State) : Host.Outcome State Fault Refusal :=
  .next (runAs 0x0005 tag (fun e => decide (entryNum e = some hitch)) (Sys2Proof.Machine.hitchQuery tag hitch) s)

/-- HITCH_PREPARE (R288). -/
def execHitchPrepare (hitch : W16) (coord : Nat) (limit : Nat) (actions : List (Nat × Action)) (s : State) : Host.Outcome State Fault Refusal :=
  .next (Sys2Proof.Machine.hitchPrepare hitch coord limit actions s)

/-- HITCH_PREPARED (R288). -/
def execHitchPrepared (hitch : W16) (found : Preparation) (s : State) : Host.Outcome State Fault Refusal :=
  .next (Sys2Proof.Machine.hitchPrepared hitch found.locks found.trained s)

/-- HITCH_VOTE (R288). -/
def execHitchVote (hitch : W16) (rank : Nat) (cause : Fin 8) (s : State) : Host.Outcome State Fault Refusal :=
  .next (Sys2Proof.Machine.hitchVote hitch rank cause.val s)

/-- HITCH_PREPARE_TIMEOUT (R288). -/
def execHitchPrepareTimeout (hitch : W16) (s : State) : Host.Outcome State Fault Refusal :=
  .next (Sys2Proof.Machine.hitchPrepareTimeout hitch s)

/-- HITCH_COMMITTED (R289). -/
def execHitchCommitted (hitch : W16) (s : State) : Host.Outcome State Fault Refusal :=
  .next (Sys2Proof.Machine.hitchCommitted hitch s)

/-- HITCH_ABORTED (R290). -/
def execHitchAborted (hitch : W16) (s : State) : Host.Outcome State Fault Refusal :=
  .next (Sys2Proof.Machine.hitchAborted hitch s)

/-- HITCH_UNDO_DONE (R290). -/
def execHitchUndoDone (hitch : W16) (s : State) : Host.Outcome State Fault Refusal :=
  .next (Sys2Proof.Machine.hitchUndoDone hitch s)

/-- HITCH_ACK (R289). -/
def execHitchAck (hitch : W16) (rank : Nat) (s : State) : Host.Outcome State Fault Refusal :=
  .next (Sys2Proof.Machine.hitchAck hitch rank s)

/-- HITCH_RELEASE (R289). -/
def execHitchRelease (hitch : W16) (s : State) : Host.Outcome State Fault Refusal :=
  .next (Sys2Proof.Machine.hitchRelease hitch s)

/-- HITCH_DECISION_TIMEOUT (R291). -/
def execHitchDecisionTimeout (hitch : W16) (s : State) : Host.Outcome State Fault Refusal :=
  .next (Sys2Proof.Machine.hitchDecisionTimeout hitch s)

end Sys2Proof.Machine
end

