-- ==== Sys2Proof/Machine/CmdHost.lean ====
section
/-!
DEFINITION. The commands of power and the host attachment (R431 to R444, R451 to R461).
Each meaning answers a next state.
-/
namespace Sys2Proof.Machine

/-- RAIL_FAULT (R440). -/
def execRailFault (s : State) : Host.Outcome State Fault Refusal :=
  .next (Sys2Proof.Machine.railFault s)

/-- TACK_SET (R432). -/
def execTackSet (tag : W16) (t : BitVec 2) (s : State) : Host.Outcome State Fault Refusal :=
  .next (runAs 0x0010 tag (fun e => decide (entryField e 8 1 = t.toNat)) (tackSetCmd tag t) s)

/-- TACK_TARGET_WRITE (R432). -/
def execTackTargetWrite (t : BitVec 2) (s : State) : Host.Outcome State Fault Refusal :=
  .next (hostWrite 0x3040 0 2 t.toNat (Sys2Proof.Machine.tackTargetWrite t) s)

/-- TACK_ISLAND_SWITCH (R434). -/
def execTackIslandSwitch (i : Fin 64) (s : State) : Host.Outcome State Fault Refusal :=
  .next (Sys2Proof.Machine.tackIslandSwitch i.val s)

/-- TACK_CHANGE_DONE (R434). -/
def execTackChangeDone (s : State) : Host.Outcome State Fault Refusal :=
  .next (Sys2Proof.Machine.tackChangeDone s)

/-- POWER_CAP_TICK (R442). -/
def execPowerCapTick (avg1ms : W16) (avg10us : W16) (s : State) : Host.Outcome State Fault Refusal :=
  .next (Sys2Proof.Machine.powerCapTick avg1ms.toNat avg10us.toNat s)

/-- POWER_LIMIT_FAIL (R442). -/
def execPowerLimitFail (s : State) : Host.Outcome State Fault Refusal :=
  .next (Sys2Proof.Machine.powerLimitFail s)

/-- DIE_HOT (R443). -/
def execDieHot (d : Fin 8) (temp : Byte) (s : State) : Host.Outcome State Fault Refusal :=
  .next (Sys2Proof.Machine.dieHot d.val temp.toNat s)

/-- DIE_TEMP_PEAK_CLR (R458). -/
def execDieTempPeakClr (d : Fin 8) (s : State) : Host.Outcome State Fault Refusal :=
  .next (hostAct (0x1020 + 4 * d.val) 31 (Sys2Proof.Machine.dieTempPeakClr d.val) s)

/-- PCIE_RESET (R457). -/
def execPcieReset (s : State) : Host.Outcome State Fault Refusal :=
  .next (Sys2Proof.Machine.pcieReset s)

/-- CMD_DOORBELL (R453). -/
def execCmdDoorbell (tail : BitVec 13) (s : State) : Host.Outcome State Fault Refusal :=
  .next (Sys2Proof.Machine.cmdDoorbell tail s)

/-- CMD_ACCEPT (R454). -/
def execCmdAccept (entry : List Byte) (s : State) : Host.Outcome State Fault Refusal :=
  .next (Sys2Proof.Machine.cmdAccept entry s)

/-- REGISTER_WRITE (R461). -/
def execRegisterWrite (bar : Bar) (off : Nat) (value : W32) (w : Writer) (s : State) : Host.Outcome State Fault Refusal :=
  .next (Sys2Proof.Machine.registerWrite bar off value w s)

/-- DIE_HOT_CLEAR (R443). -/
def execDieHotClear (d : Fin 8) (temp : Byte) (s : State) : Host.Outcome State Fault Refusal :=
  .next (Sys2Proof.Machine.dieHotClear d.val temp.toNat s)

/-- REGISTER_READ (R458). -/
def execRegisterRead (bar : Bar) (off : Nat) (s : State) : Host.Outcome State Fault Refusal :=
  .next (Sys2Proof.Machine.registerRead bar off s)

end Sys2Proof.Machine
end

