-- ==== Sys2Proof/Machine/CmdMemory.lean ====
section
/-!
DEFINITION. The commands of the Lofts and the HBM stacks (R226, R227, R239, R242 to R248).
Each meaning answers a next state.
-/
namespace Sys2Proof.Machine

/-- LOFT_PARTITION_CHANGE (R227). -/
def execLoftPartitionChange (d : Fin 8) (v : BitVec 5) (s : State) : Host.Outcome State Fault Refusal :=
  .next (Sys2Proof.Machine.loftPartitionChange d.val v.toNat s)

/-- LOFT_PARTITION_DONE (R227). -/
def execLoftPartitionDone (d : Fin 8) (s : State) : Host.Outcome State Fault Refusal :=
  .next (Sys2Proof.Machine.loftPartitionDone d.val s)

/-- LOFT_FLUSH (R248). -/
def execLoftFlush (d : Fin 8) (s : State) : Host.Outcome State Fault Refusal :=
  .next (Sys2Proof.Machine.loftFlush d.val s)

/-- LOFT_FLUSH_DONE (R248). -/
def execLoftFlushDone (d : Fin 8) (s : State) : Host.Outcome State Fault Refusal :=
  .next (Sys2Proof.Machine.loftFlushDone d.val s)

/-- HBM_MODE_WRITE (R244). -/
def execHbmModeWrite (k : Fin 8) (mode : BitVec 2) (s : State) : Host.Outcome State Fault Refusal :=
  .next (Sys2Proof.Machine.hbmModeWrite k.val mode.toNat s)

/-- PATROL_SCRUB (R239). -/
def execPatrolScrub (t : ScrubTarget) (upsets : List Upset) (s : State) : Host.Outcome State Fault Refusal :=
  .next (Sys2Proof.Machine.patrolScrub t upsets s)

/-- HBM_TEMP_SAMPLE (R242). -/
def execHbmTempSample (k : Fin 8) (temp : Byte) (s : State) : Host.Outcome State Fault Refusal :=
  .next (Sys2Proof.Machine.hbmTempSample k.val temp.toNat s)

/-- HBM_HALT_TIMEOUT (R242). -/
def execHbmHaltTimeout (k : Fin 8) (s : State) : Host.Outcome State Fault Refusal :=
  .next (Sys2Proof.Machine.hbmHaltTimeout k.val s)

/-- HBM_TEMP_PEAK_CLR (R247). -/
def execHbmTempPeakClr (k : Fin 8) (s : State) : Host.Outcome State Fault Refusal :=
  .next (Sys2Proof.Machine.hbmTempPeakClr k.val s)

/-- HBM_TG_START (R244). -/
def execHbmTgStart (k : Fin 8) (s : State) : Host.Outcome State Fault Refusal :=
  .next (Sys2Proof.Machine.hbmTgStart k.val s)

/-- HBM_TG_STOP (R247). -/
def execHbmTgStop (k : Fin 8) (s : State) : Host.Outcome State Fault Refusal :=
  .next (Sys2Proof.Machine.hbmTgStop k.val s)

/-- HBM_TG_DONE (R245). -/
def execHbmTgDone (k : Fin 8) (pc : Fin 64) (s : State) : Host.Outcome State Fault Refusal :=
  .next (Sys2Proof.Machine.hbmTgDone k.val pc.val s)

end Sys2Proof.Machine
end

