-- ==== Sys2Proof/Machine/Islands.lean ====
section
/-!
DEFINITION. The end of a block reset (R421), and what a lost clock does (R420).
-/
namespace Sys2Proof.Machine

/-! ### Block resets (R421) -/

/-- A core has finished its work in flight: nothing of its queues is in flight, no lock is held, and no context is in an
instruction (R421, R463). -/
def coreQuiet (s : State) (n : Nat) : Bool :=
  let c := coreOf s n
  [Q.F, Q.B, Q.W, Q.X].all (fun q => ((c.queue q).live).all (fun e => decide (e.st ≠ .issued))) &&
    (locksHeld c).isEmpty && !c.ctxP.active && !c.ctxX.active

/-- A block has gone idle, as the table of R421 says what idle means. Every grain that a stack serves is served whole,
so the queues of its controller hold nothing but the runs of its traffic generators. -/
def blockQuiet (s : State) (k i : Nat) : Bool :=
  match k with
  | 0 => coreQuiet s i
  | 1 => (groomOf s i).gop.isNone && !(groomOf s i).loading
  | 2 => (List.range 64).all (fun pc => !(tgOf s i pc).busy)
  | 3 => (List.range 4).all (fun c => coreQuiet s (4 * i + c)) && decide (loftOf s i = .idle)
  | 4 => (portOf s i).sent.isEmpty
  | _ => (List.range 27).all (fun r => ringState s i r == 0)

/-- The islands of a block (R441). -/
def blockIslands (k i : Nat) : List Nat :=
  match k with
  | 0 => [i]
  | 1 | 2 => [40 + i]
  | 3 => (List.range 4).map (fun c => 4 * i + c) ++ [32 + i, 48 + i]
  | 4 => [portIsland i]
  | _ => [60]

/-- Step 3 of R421: the block is reset, and its islands keep the trims of the current generation. -/
def blockResetDo (k i : Nat) (s : State) : State :=
  let s := match k with
    | 0 => coreBlockReset .report i s
    | 1 => groomBlockReset i s
    | 2 => hbmBlockReset i s
    | 3 => dieBlockReset .report i s
    | 4 => portBlockReset i s
    | _ => cageLost i s
  (blockIslands k i).foldl (fun s j => trimFit j s) s

/-- Steps 3 and 4 of R421, with the result; what waited for a stack that was asked to go idle goes on. -/
def blockEnd (k i st : Nat) (code : W16) (s : State) : State :=
  let s := blockResetDo k i { s with boot := { s.boot with block := none } }
  let s := if code = 0 then s else record code (kindBlk k) i .report .none s
  let s := rfSet 0x3014 16 16 code.toNat (rfSet 0x3014 0 2 st s)
  if k = 2 then arrivalsGo s else s

/-- BLOCK_IDLE: the block reports idle, once it is, and is reset. -/
def blockIdle (s : State) : State :=
  match s.boot.block with
  | none => s
  | some (k, i) => if blockQuiet s k i then blockEnd k i 2 0 s else s

/-- BLOCK_IDLE_TIMEOUT: the block is reset hard. -/
def blockIdleTimeout (s : State) : State :=
  match s.boot.block with
  | none => s
  | some (k, i) => blockEnd k i 3 cRESET_HARD s

/-! ### A lost clock (R420, R441) -/

/-- The collective block is reset: its registers, entries, order pool and staging. -/
def collBlockReset (s : State) : State :=
  regsReset oColl (oColl + 0x1000) { s with fab := { s.fab with coll := [], order := [], staged := [], folds := [] } }

/-- The shadow engine is reset: the cut in progress fails, a restore ends, and what it was writing for the twin or
sending to it is gone. -/
def engineBlockReset (s : State) : State :=
  let s := if s.ckpt.restore.isSome then restartComplete cCLOCK_LOST { s with ckpt := { s.ckpt with restore := none } } else s
  let s := cutFail s
  { s with ckpt := { s.ckpt with incoming := [], serving := [] } }

/-- An island is reset (R420). A die-to-die interface holds nothing between commands. -/
def islandReset (i : Nat) (s : State) : State :=
  if i < 32 then coreBlockReset .restart i s
  else if i < 40 then loftBlockReset (i - 32) s
  else if i < 48 then groomBlockReset (i - 40) (hbmBlockReset (i - 40) s)
  else if i < 56 then s
  else if i < 60 then
    (List.range 6).foldl (fun s j =>
      let p := 6 * (i - 56) + j
      if portState s p = 0 then s else portBlockReset p (portDown p s)) s
  else if i = 60 then (List.range 12).foldl (fun s g => if cageEn s g then cageLost g s else s) s
  else if i = 62 then (let s := pcieReset s; { s with regs2 := [] })
  else if i = 63 then collBlockReset (engineBlockReset s)
  else s

/-- CLOCK_LOST (R420): clock-good falls, the island is reset and CLOCK_LOST is recorded; it stays in reset until
ISLAND_RELEASE. The idle request and its timeout pass inside this command (DESIGN CHOICE, assumption 110): the island,
without a clock, does nothing in that time. -/
def clockLost (i : Nat) (s : State) : State :=
  if isOut s i then
    (if i = 61 then resetEdge 3 s
     else
      let s := rfSet (if i < 32 then 0x3030 else 0x3034) (i % 32) 1 0 s
      let s : State := { s with boot := { s.boot with released := setDel s.boot.released i } }
      let s := islandReset i s
      let s := rfSet 0x3038 16 6 i (rfSet 0x3038 0 16 (rf s 0x3038 0 16 + 1) s)
      record cCLOCK_LOST .global 0 .restart (.num i) s)
  else s

end Sys2Proof.Machine
end

