-- ==== Sys2Proof/Machine/CmdReset.lean ====
section
/-!
DEFINITION. The commands of reset, boot and security (R410 to R430).
Each meaning answers a next state.
-/
namespace Sys2Proof.Machine

/-- POWER_ON_RESET (R410). -/
def execPowerOnReset (s : State) : Host.Outcome State Fault Refusal :=
  .next (Sys2Proof.Machine.powerOnReset s)

/-- VIN_UNDERVOLTAGE_RESET (R440). -/
def execVinUndervoltageReset (s : State) : Host.Outcome State Fault Refusal :=
  .next (vinReset s)

/-- RST_IN_N_RESET (R410). -/
def execRstInNReset (s : State) : Host.Outcome State Fault Refusal :=
  .next (rstInReset s)

/-- HOST_RESET (R436). -/
def execHostReset (key : Byte) (s : State) : Host.Outcome State Fault Refusal :=
  .next (hostAct 0x3004 8 (hostResetCmd key) s)

/-- WATCHDOG_RESET (R410). -/
def execWatchdogReset (s : State) : Host.Outcome State Fault Refusal :=
  .next (Sys2Proof.Machine.watchdogReset s)

/-- THERMAL_TRIP (R412). -/
def execThermalTrip (cause : TripCause) (s : State) : Host.Outcome State Fault Refusal :=
  .next (Sys2Proof.Machine.thermalTrip cause s)

/-- TWIN_RECOVER (R425). -/
def execTwinRecover (s : State) : Host.Outcome State Fault Refusal :=
  .next (Sys2Proof.Machine.twinRecover s)

/-- TRIM_LOAD_DONE (R413). -/
def execTrimLoadDone (segments : List (List Byte × W32)) (digest : List Byte) (s : State) : Host.Outcome State Fault Refusal :=
  .next (Sys2Proof.Machine.trimLoadDone segments digest s)

/-- RST_OUT_RELEASE (R415). -/
def execRstOutRelease (s : State) : Host.Outcome State Fault Refusal :=
  .next (Sys2Proof.Machine.rstOutRelease s)

/-- STRAP_LATCH (R416). -/
def execStrapLatch (st : Straps) (s : State) : Host.Outcome State Fault Refusal :=
  .next (Sys2Proof.Machine.strapLatch st s)

/-- ISLAND_RELEASE (R418). -/
def execIslandRelease (i : Fin 64) (s : State) : Host.Outcome State Fault Refusal :=
  .next (Sys2Proof.Machine.islandRelease i.val s)

/-- BOOT_IMAGE_FETCHED (R422). -/
def execBootImageFetched (img : Option SignedImage) (s : State) : Host.Outcome State Fault Refusal :=
  .next (Sys2Proof.Machine.bootImageFetched img s)

/-- CLOCK_LOST (R420). -/
def execClockLost (i : Fin 64) (s : State) : Host.Outcome State Fault Refusal :=
  .next (Sys2Proof.Machine.clockLost i.val s)

/-- BLOCK_RESET (R421). -/
def execBlockReset (kind : BitVec 3) (index : BitVec 5) (w : Writer) (s : State) : Host.Outcome State Fault Refusal :=
  .next (match w with
    | .host => hostAct 0x3010 31 (Sys2Proof.Machine.blockReset kind index) s
    | .boot => Sys2Proof.Machine.blockReset kind index s)

/-- BLOCK_IDLE (R421). -/
def execBlockIdle (s : State) : Host.Outcome State Fault Refusal :=
  .next (Sys2Proof.Machine.blockIdle s)

/-- BLOCK_IDLE_TIMEOUT (R421). -/
def execBlockIdleTimeout (s : State) : Host.Outcome State Fault Refusal :=
  .next (Sys2Proof.Machine.blockIdleTimeout s)

/-- SEC_SEAL (R428). -/
def execSecSeal (s : State) : Host.Outcome State Fault Refusal :=
  .next (Sys2Proof.Machine.secSeal s)

/-- SEAL_TIMEOUT (R429). -/
def execSealTimeout (s : State) : Host.Outcome State Fault Refusal :=
  .next (Sys2Proof.Machine.sealTimeout s)

/-- MAILBOX_GO (R459). -/
def execMailboxGo (s : State) : Host.Outcome State Fault Refusal :=
  .next (Sys2Proof.Machine.mailboxGo s)

/-- ATTEST (R427). -/
def execAttest (tag : W16) (nonce : List Byte) (addr : W64) (s : State) : Host.Outcome State Fault Refusal :=
  .next (runAs 0x0020 tag (fun e => decide ((e.drop 8).take 32 = nonce ∧ entryField e 40 8 = addr.toNat))
    (Sys2Proof.Machine.attest tag nonce addr) s)

/-- GROUP_REPORTED_READY (R419). -/
def execGroupReportedReady (g : GroupReport) (s : State) : Host.Outcome State Fault Refusal :=
  .next (groupReady g.group g.rows g.stalls s)

/-- THERMAL_TRIP_CLEAR (R412). -/
def execThermalTripClear (dies : List Byte) (hbms : List Byte) (s : State) : Host.Outcome State Fault Refusal :=
  .next (Sys2Proof.Machine.thermalTripClear dies hbms s)

end Sys2Proof.Machine
end

