-- ==== Sys2Proof/Machine/Dispatch.lean ====
section
/-!
DEFINITION. The dispatch: one arm for each command.
-/
namespace Sys2Proof.Machine

/-- A command acts on the state. -/
def exec (i : Instr) (s : State) : Host.Outcome State Fault Refusal :=
  match i with
  | .load tag img => Sys2Proof.Machine.execLoad tag img s
  | .stepCommit => Sys2Proof.Machine.execStepCommit s
  | .enq c x => Sys2Proof.Machine.execEnq c x s
  | .enqComplete c x => Sys2Proof.Machine.execEnqComplete c x s
  | .li c x => Sys2Proof.Machine.execLi c x s
  | .alu c x => Sys2Proof.Machine.execAlu c x s
  | .br c x => Sys2Proof.Machine.execBr c x s
  | .loop c x => Sys2Proof.Machine.execLoop c x s
  | .sumrd c x => Sys2Proof.Machine.execSumrd c x s
  | .sld c x => Sys2Proof.Machine.execSld c x s
  | .sst c x => Sys2Proof.Machine.execSst c x s
  | .dget c x => Sys2Proof.Machine.execDget c x s
  | .dset c x => Sys2Proof.Machine.execDset c x s
  | .bar c x => Sys2Proof.Machine.execBar c x s
  | .barRealign c => Sys2Proof.Machine.execBarRealign c s
  | .stop c x => Sys2Proof.Machine.execStop c x s
  | .sync c q j => Sys2Proof.Machine.execSync c q j s
  | .cwait c q j => Sys2Proof.Machine.execCwait c q j s
  | .creset c q j => Sys2Proof.Machine.execCreset c q j s
  | .carm c q j => Sys2Proof.Machine.execCarm c q j s
  | .copy c q j => Sys2Proof.Machine.execCopy c q j s
  | .copyComplete c barrow j => Sys2Proof.Machine.execCopyComplete c barrow j s
  | .tmul c q j => Sys2Proof.Machine.execTmul c q j s
  | .tmulEdgeDone c stall => Sys2Proof.Machine.execTmulEdgeDone c stall s
  | .tmulDrain c stall => Sys2Proof.Machine.execTmulDrain c stall s
  | .trg c q j => Sys2Proof.Machine.execTrg c q j s
  | .troughChainStart c => Sys2Proof.Machine.execTroughChainStart c s
  | .troughChainComplete c k => Sys2Proof.Machine.execTroughChainComplete c k s
  | .rflush c q j => Sys2Proof.Machine.execRflush c q j s
  | .rflushEffect c q => Sys2Proof.Machine.execRflushEffect c q s
  | .streamHang c => Sys2Proof.Machine.execStreamHang c s
  | .flushF c => Sys2Proof.Machine.execFlushF c s
  | .flushB c => Sys2Proof.Machine.execFlushB c s
  | .flushW c => Sys2Proof.Machine.execFlushW c s
  | .flushX c => Sys2Proof.Machine.execFlushX c s
  | .flushDone c q => Sys2Proof.Machine.execFlushDone c q s
  | .coreRun c v => Sys2Proof.Machine.execCoreRun c v s
  | .ostlerRunP c v => Sys2Proof.Machine.execOstlerRunP c v s
  | .ostlerRunX c v => Sys2Proof.Machine.execOstlerRunX c v s
  | .ostlerContextStopped c x => Sys2Proof.Machine.execOstlerContextStopped c x s
  | .lockPeakClr c => Sys2Proof.Machine.execLockPeakClr c s
  | .convStatClear c => Sys2Proof.Machine.execConvStatClear c s
  | .syncArm c counter value all => Sys2Proof.Machine.execSyncArm c counter value all s
  | .deviceEpochClose => Sys2Proof.Machine.execDeviceEpochClose s
  | .barrierJoinMsg rank req interval => Sys2Proof.Machine.execBarrierJoinMsg rank req interval s
  | .barrierCloseMsg shadow storage => Sys2Proof.Machine.execBarrierCloseMsg shadow storage s
  | .hitchOpen tag ranks limit => Sys2Proof.Machine.execHitchOpen tag ranks limit s
  | .hitchStage tag hitch rank action => Sys2Proof.Machine.execHitchStage tag hitch rank action s
  | .hitchCommit tag hitch => Sys2Proof.Machine.execHitchCommit tag hitch s
  | .hitchAbort tag hitch => Sys2Proof.Machine.execHitchAbort tag hitch s
  | .hitchQuery tag hitch => Sys2Proof.Machine.execHitchQuery tag hitch s
  | .hitchPrepare hitch coord limit actions => Sys2Proof.Machine.execHitchPrepare hitch coord limit actions s
  | .hitchPrepared hitch found => Sys2Proof.Machine.execHitchPrepared hitch found s
  | .hitchVote hitch rank cause => Sys2Proof.Machine.execHitchVote hitch rank cause s
  | .hitchPrepareTimeout hitch => Sys2Proof.Machine.execHitchPrepareTimeout hitch s
  | .hitchCommitted hitch => Sys2Proof.Machine.execHitchCommitted hitch s
  | .hitchAborted hitch => Sys2Proof.Machine.execHitchAborted hitch s
  | .hitchUndoDone hitch => Sys2Proof.Machine.execHitchUndoDone hitch s
  | .hitchAck hitch rank => Sys2Proof.Machine.execHitchAck hitch rank s
  | .hitchRelease hitch => Sys2Proof.Machine.execHitchRelease hitch s
  | .hitchDecisionTimeout hitch => Sys2Proof.Machine.execHitchDecisionTimeout hitch s
  | .gwait k => Sys2Proof.Machine.execGwait k s
  | .gskip k => Sys2Proof.Machine.execGskip k s
  | .gopMom1 k => Sys2Proof.Machine.execGopMom1 k s
  | .gopMom2 k => Sys2Proof.Machine.execGopMom2 k s
  | .gopApply k => Sys2Proof.Machine.execGopApply k s
  | .gopDecay k => Sys2Proof.Machine.execGopDecay k s
  | .gopSgd k => Sys2Proof.Machine.execGopSgd k s
  | .gopReanchor k => Sys2Proof.Machine.execGopReanchor k s
  | .gopCast k => Sys2Proof.Machine.execGopCast k s
  | .gopDone k => Sys2Proof.Machine.execGopDone k s
  | .groomPartialMsg holder block => Sys2Proof.Machine.execGroomPartialMsg holder block s
  | .groomVerdictMsg k block => Sys2Proof.Machine.execGroomVerdictMsg k block s
  | .reanchorAgree => Sys2Proof.Machine.execReanchorAgree s
  | .gsignal k => Sys2Proof.Machine.execGsignal k s
  | .gend k => Sys2Proof.Machine.execGend k s
  | .groomRun k v => Sys2Proof.Machine.execGroomRun k v s
  | .groomStopped k => Sys2Proof.Machine.execGroomStopped k s
  | .groomZeroCounts k => Sys2Proof.Machine.execGroomZeroCounts k s
  | .groomHang k w => Sys2Proof.Machine.execGroomHang k w s
  | .loftPartitionChange d v => Sys2Proof.Machine.execLoftPartitionChange d v s
  | .loftPartitionDone d => Sys2Proof.Machine.execLoftPartitionDone d s
  | .loftFlush d => Sys2Proof.Machine.execLoftFlush d s
  | .loftFlushDone d => Sys2Proof.Machine.execLoftFlushDone d s
  | .hbmModeWrite k mode => Sys2Proof.Machine.execHbmModeWrite k mode s
  | .patrolScrub t upsets => Sys2Proof.Machine.execPatrolScrub t upsets s
  | .hbmTempSample k temp => Sys2Proof.Machine.execHbmTempSample k temp s
  | .hbmHaltTimeout k => Sys2Proof.Machine.execHbmHaltTimeout k s
  | .hbmTempPeakClr k => Sys2Proof.Machine.execHbmTempPeakClr k s
  | .hbmTgStart k => Sys2Proof.Machine.execHbmTgStart k s
  | .hbmTgStop k => Sys2Proof.Machine.execHbmTgStop k s
  | .hbmTgDone k pc => Sys2Proof.Machine.execHbmTgDone k pc s
  | .blockReceive p b => Sys2Proof.Machine.execBlockReceive p b s
  | .linkAckTimeout p => Sys2Proof.Machine.execLinkAckTimeout p s
  | .blockPadTimeout p => Sys2Proof.Machine.execBlockPadTimeout p s
  | .flitReceive p vc => Sys2Proof.Machine.execFlitReceive p vc s
  | .noRouteTimeout src => Sys2Proof.Machine.execNoRouteTimeout src s
  | .e2eResponse src space cum bitmap fault => Sys2Proof.Machine.execE2eResponse src space cum bitmap fault s
  | .e2eResendTimeout dst space seq => Sys2Proof.Machine.execE2eResendTimeout dst space seq s
  | .deliveryLost dst space seq => Sys2Proof.Machine.execDeliveryLost dst space seq s
  | .busyRetry dst space seq => Sys2Proof.Machine.execBusyRetry dst space seq s
  | .laneShed p lane => Sys2Proof.Machine.execLaneShed p lane s
  | .laneBerWindow p lane errors bits => Sys2Proof.Machine.execLaneBerWindow p lane errors bits s
  | .laneShedResume p => Sys2Proof.Machine.execLaneShedResume p s
  | .portTrain p => Sys2Proof.Machine.execPortTrain p s
  | .portTrainDone p lanes seen => Sys2Proof.Machine.execPortTrainDone p lanes seen s
  | .oclFrameReceive g f => Sys2Proof.Machine.execOclFrameReceive g f s
  | .oclFrameSend g => Sys2Proof.Machine.execOclFrameSend g s
  | .cageLinkLost g => Sys2Proof.Machine.execCageLinkLost g s
  | .ringLoopTick g => Sys2Proof.Machine.execRingLoopTick g s
  | .toneCheck g ring r => Sys2Proof.Machine.execToneCheck g ring r s
  | .ringSearchDone g ring w => Sys2Proof.Machine.execRingSearchDone g ring w s
  | .cageEnable g v => Sys2Proof.Machine.execCageEnable g v s
  | .cageBringupSearched g rings spare decouple => Sys2Proof.Machine.execCageBringupSearched g rings spare decouple s
  | .ringLockAcquire g ring code r => Sys2Proof.Machine.execRingLockAcquire g ring code r s
  | .laserFadeCheck g laser rel => Sys2Proof.Machine.execLaserFadeCheck g laser rel s
  | .spareLocked g x => Sys2Proof.Machine.execSpareLocked g x s
  | .swapNotice p lane => Sys2Proof.Machine.execSwapNotice p lane s
  | .swapAck g => Sys2Proof.Machine.execSwapAck g s
  | .swapMaskExpire p lane => Sys2Proof.Machine.execSwapMaskExpire p lane s
  | .cageHoldOpen g v => Sys2Proof.Machine.execCageHoldOpen g v s
  | .bypassFault g => Sys2Proof.Machine.execBypassFault g s
  | .collEntryValidate entry core desc => Sys2Proof.Machine.execCollEntryValidate entry core desc s
  | .riskTick decay => Sys2Proof.Machine.execRiskTick decay s
  | .twinPairing haddr side feed => Sys2Proof.Machine.execTwinPairing haddr side feed s
  | .twinHeartbeat => Sys2Proof.Machine.execTwinHeartbeat s
  | .twinHeartbeatTimeout => Sys2Proof.Machine.execTwinHeartbeatTimeout s
  | .farrierLaneRepair p lane r => Sys2Proof.Machine.execFarrierLaneRepair p lane r s
  | .shadowStream => Sys2Proof.Machine.execShadowStream s
  | .shadowAck slot step => Sys2Proof.Machine.execShadowAck slot step s
  | .storageCkptDone => Sys2Proof.Machine.execStorageCkptDone s
  | .storageReadData index data => Sys2Proof.Machine.execStorageReadData index data s
  | .storageReadTimeout tag => Sys2Proof.Machine.execStorageReadTimeout tag s
  | .restartReport rank code => Sys2Proof.Machine.execRestartReport rank code s
  | .paddockStop code => Sys2Proof.Machine.execPaddockStop code s
  | .restart tag r => Sys2Proof.Machine.execRestart tag r s
  | .powerOnReset => Sys2Proof.Machine.execPowerOnReset s
  | .vinUndervoltageReset => Sys2Proof.Machine.execVinUndervoltageReset s
  | .railFault => Sys2Proof.Machine.execRailFault s
  | .rstInNReset => Sys2Proof.Machine.execRstInNReset s
  | .hostReset key => Sys2Proof.Machine.execHostReset key s
  | .watchdogReset => Sys2Proof.Machine.execWatchdogReset s
  | .thermalTrip cause => Sys2Proof.Machine.execThermalTrip cause s
  | .twinRecover => Sys2Proof.Machine.execTwinRecover s
  | .trimLoadDone segments digest => Sys2Proof.Machine.execTrimLoadDone segments digest s
  | .rstOutRelease => Sys2Proof.Machine.execRstOutRelease s
  | .strapLatch st => Sys2Proof.Machine.execStrapLatch st s
  | .islandRelease j => Sys2Proof.Machine.execIslandRelease j s
  | .bootImageFetched img => Sys2Proof.Machine.execBootImageFetched img s
  | .clockLost j => Sys2Proof.Machine.execClockLost j s
  | .blockReset kind index w => Sys2Proof.Machine.execBlockReset kind index w s
  | .blockIdle => Sys2Proof.Machine.execBlockIdle s
  | .blockIdleTimeout => Sys2Proof.Machine.execBlockIdleTimeout s
  | .secSeal => Sys2Proof.Machine.execSecSeal s
  | .sealTimeout => Sys2Proof.Machine.execSealTimeout s
  | .mailboxGo => Sys2Proof.Machine.execMailboxGo s
  | .attest tag nonce addr => Sys2Proof.Machine.execAttest tag nonce addr s
  | .tackSet tag t => Sys2Proof.Machine.execTackSet tag t s
  | .tackTargetWrite t => Sys2Proof.Machine.execTackTargetWrite t s
  | .tackIslandSwitch j => Sys2Proof.Machine.execTackIslandSwitch j s
  | .tackChangeDone => Sys2Proof.Machine.execTackChangeDone s
  | .powerCapTick avg1ms avg10us => Sys2Proof.Machine.execPowerCapTick avg1ms avg10us s
  | .powerLimitFail => Sys2Proof.Machine.execPowerLimitFail s
  | .dieHot d temp => Sys2Proof.Machine.execDieHot d temp s
  | .dieTempPeakClr d => Sys2Proof.Machine.execDieTempPeakClr d s
  | .pcieReset => Sys2Proof.Machine.execPcieReset s
  | .cmdDoorbell tail => Sys2Proof.Machine.execCmdDoorbell tail s
  | .cmdAccept entry => Sys2Proof.Machine.execCmdAccept entry s
  | .registerWrite bar off value w => Sys2Proof.Machine.execRegisterWrite bar off value w s
  | .copyLastByteRead c barrow => Sys2Proof.Machine.execCopyLastByteRead c barrow s
  | .cutStateRead k => Sys2Proof.Machine.execCutStateRead k s
  | .groupReportedReady g => Sys2Proof.Machine.execGroupReportedReady g s
  | .laneReacquire p lane => Sys2Proof.Machine.execLaneReacquire p lane s
  | .heaterCodesTimeout g => Sys2Proof.Machine.execHeaterCodesTimeout g s
  | .dieHotClear d temp => Sys2Proof.Machine.execDieHotClear d temp s
  | .thermalTripClear dies hbms => Sys2Proof.Machine.execThermalTripClear dies hbms s
  | .registerRead bar off => Sys2Proof.Machine.execRegisterRead bar off s

end Sys2Proof.Machine
end

