-- ==== Sys2Proof/Safety.lean ====
section
/-!
DEFINITION. The vocabulary of the statements: the parts of the state, which of them a command leaves
alone, and the invariants of the machine.
-/
namespace Sys2Proof.Machine

/-- The parts of the state. -/
inductive Part where
  | pending | free | hostRead | regs | regs2 | cfg | latches | mem | cores | grooms | exch | fab | hitch
  | cages | job | epoch | ckpt | boot | power | log | host | outbox
deriving DecidableEq, Repr

/-- Two states agree in a part. -/
def Part.same (p : Part) (s t : State) : Prop :=
  match p with
  | .pending => t.pending = s.pending
  | .free => t.free = s.free
  | .hostRead => t.hostRead = s.hostRead
  | .regs => t.regs = s.regs
  | .regs2 => t.regs2 = s.regs2
  | .cfg => t.cfg = s.cfg
  | .latches => t.latches = s.latches
  | .mem => t.mem = s.mem
  | .cores => t.cores = s.cores
  | .grooms => t.grooms = s.grooms
  | .exch => t.exch = s.exch
  | .fab => t.fab = s.fab
  | .hitch => t.hitch = s.hitch
  | .cages => t.cages = s.cages
  | .job => t.job = s.job
  | .epoch => t.epoch = s.epoch
  | .ckpt => t.ckpt = s.ckpt
  | .boot => t.boot = s.boot
  | .power => t.power = s.power
  | .log => t.log = s.log
  | .host => t.host = s.host
  | .outbox => t.outbox = s.outbox

/-- `t` differs from `s` in the parts listed at most. -/
def Keeps (changed : List Part) (s t : State) : Prop := ∀ p, p ∉ changed → p.same s t

/-- Every BAR0 register but those listed has the word it had. -/
def RegsKeep (offs : List Nat) (s t : State) : Prop := ∀ o, o ∉ offs → regGet t o = regGet s o

/-- Every BAR2 register but those listed has the word it had. -/
def Regs2Keep (offs : List Nat) (s t : State) : Prop := ∀ o, o ∉ offs → reg2Get t o = reg2Get s o

/-- Every core but core `n` is unchanged. -/
def CoresKeep (n : Nat) (s t : State) : Prop := ∀ m, m ≠ n → coreOf t m = coreOf s m

/-- Every Groom but Groom `k` is unchanged. -/
def GroomsKeep (k : Nat) (s t : State) : Prop := ∀ m, m ≠ k → groomOf t m = groomOf s m

/-- Every byte of memory outside `[a, a + n)` is unchanged. -/
def BytesKeep (a n : Nat) (s t : State) : Prop := ∀ x, ¬ (a ≤ x ∧ x < a + n) → memByte t x = memByte s x

/-! ### Instructions of a core -/

/-- A core after the header wait of a word has taken its signals (R274). -/
def waitCore (c : Core) (w : W128) : Core :=
  let h := hdrOf w
  if h.wamt = 0 then c
  else c.setCtr h.wctr.toNat { c.ctr h.wctr.toNat with c := BitVec.ofNat 12 ((c.ctr h.wctr.toNat).c.toNat - h.wamt.toNat) }

/-- A core after the signal of a word: the counter rises, unless it is poisoned (R273, R279). -/
def signalCore (c : Core) (w : W128) : Core :=
  let h := hdrOf w
  if h.samt = 0 ∨ (c.ctr h.sctr.toNat).poison.isSome then c
  else c.setCtr h.sctr.toNat
    { c.ctr h.sctr.toNat with c := BitVec.ofNat 12 ((c.ctr h.sctr.toNat).c.toNat + h.samt.toNat) }

/-- The signal of a word does not pass 4,095, or its counter is poisoned and it is dropped (R273, R279). -/
def signalFits (c : Core) (w : W128) : Prop :=
  (hdrOf w).samt = 0 ∨ (c.ctr (hdrOf w).sctr.toNat).poison.isSome = true ∨
    (c.ctr (hdrOf w).sctr.toNat).c.toNat + (hdrOf w).samt.toNat ≤ 4095

/-- The registers that a dropped signal writes (R279, R295). -/
def syncRegs (n : Nat) : List Nat := [oCore n + 0x1_0440, oCore n + 0x1_0448, oCore n + 0x1_0450]

/-- A context of a core that nothing asks to go idle stands and may run, with its header wait satisfied, at a legal word
of opcode `op` whose fields are `f` (R42, R80, R83, R113, R421). -/
def CtlAt (s : State) (n : Nat) (x : Ctx) (op : Nat) (f : CtlF) : Prop :=
  ctxStands s n x = true ∧ coreAsked s n = false ∧ ctxMayRun s n x = true ∧ opOf (ctxWord (coreOf s n) x) = op ∧
    (∃ i k, decodeNative .ostler (ctxWord (coreOf s n) x) = .ok i ∧ i.body = .ctl k f) ∧
    waitOf (coreOf s n) (ctxWord (coreOf s n) x) = .ok

/-- Core `n` of `t` is core `n` of `s` changed by `g`, with the header signal of `w` applied after, and
context `x` at `next`; beside it, only what a dropped signal reports changes. -/
def CtlEnds (s t : State) (n : Nat) (x : Ctx) (w : W128) (g : Core → Core) (next : BitVec 12) : Prop :=
  (let c := signalCore (g (coreOf s n)) w
   coreOf t n = c.setCtx x { c.ctx x with pc := next, enq := none, bar := none, dset := false }) ∧
    CoresKeep n s t ∧ RegsKeep (syncRegs n) s t ∧ Keeps [.cores, .regs, .free, .log] s t

/-- `CtlEnds` with the header wait taken first. -/
def CtlGives (s t : State) (n : Nat) (x : Ctx) (w : W128) (g : Core → Core) (next : BitVec 12) : Prop :=
  CtlEnds s t n x w (fun c => g (waitCore c w)) next

/-- The change of a context's scalar register (R113). -/
def regChange (x : Ctx) (r : BitVec 5) (v : W64) (c : Core) : Core := c.setCtx x (sSet r v (c.ctx x))

/-- The instruction at place `i` of a queue's window is `e`, an instruction of opcode `op`, and its header
wait is satisfied (R46, R47, R81). -/
def IssueAt (s : State) (n : Nat) (q : Q) (i op : Nat) (e : Ent) : Prop :=
  candidate s n q i op = some e ∧ waitOf (coreOf s n) e.word = .ok

/-- The registers that an issue counts in (R75). -/
def issueRegs (n : Nat) (q : Q) : List Nat := [oCore n + 0x090 + 4 * qNum q, oCore n + 0x0A0, oCore n + 0x40]

/-- The entry stands in its queue between those before and those after it; serial numbers do not repeat,
the oldest has not completed, for then it would have retired, and none after the entry has (R47, R48). -/
def Stands (c : Core) (q : Q) (before : List Ent) (e : Ent) (after : List Ent) : Prop :=
  (c.queue q).live = before ++ e :: after ∧ (∀ x ∈ before ++ after, x.sn ≠ e.sn) ∧
    (∀ x, before.head? = some x → x.st ≠ .done) ∧ ∀ x ∈ after, x.st ≠ .done

/-- An instruction that completes as it issues leaves core `n` as `c` is, with its queue gone on (R48, R93):
the oldest of its queue retires with its signal, and one that others are older than has completed, with
its signal held back. -/
def SyncGives (s t : State) (n : Nat) (q : Q) (before : List Ent) (e : Ent) (after : List Ent) (c : Core) : Prop :=
  coreOf t n =
    (if before = [] then (signalCore c e.word).setQueue q { c.queue q with live := after }
     else c.setQueue q { c.queue q with live := before ++ { e with st := .done, locks := [], descs := [] } :: after }) ∧
    CoresKeep n s t ∧ RegsKeep (issueRegs n q ++ syncRegs n) s t ∧ Keeps [.cores, .regs, .free, .log] s t

/-- A core whose scoreboard has granted a unit to a queue (R50). -/
def grantCore (q : Q) (u : UnitId) (k : Core) : Core :=
  if q = .X then k else { k with lastQ := tabSet 2 k.lastQ u.key (qNum q) }

/-- A read of the range meets no uncorrectable error (R221, R238). -/
def ReadsWell (s : State) (a n : Nat) : Prop := hbmUeIn s a n = none ∧ sramUeIn s a n = none

/-- The first byte that a copy reads. -/
def sourceAt (s : State) (n : Nat) (f : CopyF) : Nat :=
  let d := (coreOf s n).dsc f.sDesc
  if f.srck = 0 then mangerBase n + f.sOff else dBASE d + f.sFirst * blockBytes (dFMT d)

/-- The source of a copy reads well: its bytes, and the metadata words of a descriptor's blocks (R95). -/
def SourceWell (s : State) (n : Nat) (f : CopyF) : Prop :=
  let d := (coreOf s n).dsc f.sDesc
  ReadsWell s (sourceAt s n f) f.bytes ∧
    (f.srck = 1 → ReadsWell s (dMETA d + 8 * f.sFirst) (8 * nBlocks d f.bytes))

/-- The metadata that comes with the bytes of a copy: the sidecar entries of the granules of a Manger source
(R222), or the metadata words of a descriptor's blocks (R234). -/
def sourceMeta (s : State) (n : Nat) (f : CopyF) : CopyMeta :=
  let d := (coreOf s n).dsc f.sDesc
  if f.srck = 0 then ⟨false, 8192, f.sOff % 8192, (granules f.sOff f.bytes).map (fun g => sideWord (sideGet s n g))⟩
  else ⟨true, blockBytes (dFMT d), 0, (List.range (nBlocks d f.bytes)).map (fun i => metaRead s d (f.sFirst + i))⟩

/-- The flag that a copy carries (R193). -/
def sourceNf (s : State) (n : Nat) (f : CopyF) : Bool :=
  (decide (f.srck ≠ 0) && dNF ((coreOf s n).dsc f.sDesc)) || (sourceMeta s n f).units.any mNf

/-- Copy `x` has left the Barrows of core `n`, and Barrow `b` records OK (R62, R75). -/
def CopyLeaves (s u : State) (n b : Nat) (x : Copy) : Prop :=
  (∀ m, m < 4 → tabGet [] (coreOf u n).barrows m =
    (tabGet [] (coreOf s n).barrows m).filter (fun y => decide (¬ (y.q = x.q ∧ y.sn = x.sn)))) ∧
    rf u (oCore n + 0x1000 + 16 * b) 16 16 = 0

/-- The entry `e` of a queue of core `n` is in flight in `t`, with its header wait taken, its locks and
its descriptors; the core is otherwise `g` of what it was (R48, R52, R92). -/
def IssueGives (s t : State) (n : Nat) (q : Q) (e : Ent) (locks : List Lock) (descs : List Nat) (g : Core → Core) : Prop :=
  (let c := waitCore (g (coreOf s n)) e.word
   coreOf t n = c.setQueue q ((c.queue q).modEnt e.sn (fun x => { x with st := .issued, locks := locks, descs := descs }))) ∧
    CoresKeep n s t

/-! ### Host writes and the fault log -/

/-- A host write of `v` to the field of `w` bits at bit `lo` of BAR0 register `off` is served: the device is
sealed, a host window holds the register, and no hitch that is not DONE holds the field, unless the write
repeats its value (R287, R428, R461). -/
def HostWrites (s : State) (off lo w v : Nat) : Prop :=
  hostMay s off = true ∧ (objTaken s none (1, off, lo) = false ∨ rf s off lo w = v)

/-- A host write of the field at bit `lo` of BAR0 register `off` is served: the device is sealed, a host
window holds the register, and no hitch that is not DONE holds the field (R287, R428). -/
def HostServed (s : State) (off lo : Nat) : Prop :=
  hostMay s off = true ∧ objTaken s none (1, off, lo) = false

/-- The next entry of the fault log names a status, its block and its class (R388). -/
def Logged (s t : State) (code : W16) (blk : Blk) (idx : Nat) (cls : Machine.Class) : Prop :=
  t.log.next = (s.log.next + 1) % 1024 ∧
    ∃ e, tabGet none t.log.ring s.log.next = some e ∧ e.code = code ∧ e.blk = blk ∧ e.idx = idx ∧ e.cls = cls

/-- Field `lo`, `w` of register `off` reads `v` in `t`, and no other bit of a register differs but those
of the registers `others`. -/
def FieldGives (s t : State) (off lo w v : Nat) (others : List Nat) : Prop :=
  rf t off lo w = v % 2 ^ w ∧
    (∀ i, i < 32 → ¬ (lo ≤ i ∧ i < lo + w) → rf t off i 1 = rf s off i 1) ∧ RegsKeep (off :: others) s t

/-- The completion ring takes an entry for the command with this tag: it is in service with room, D3hot does not
suspend it, and the link has not gone down since the command was accepted (R451, R453, R457). -/
def CplReady (s : State) (tag : W16) : Prop :=
  (runDone tag s).1 = false ∧ ringOn s oCpl = true ∧ cplRoom s = true

/-- The device has accepted the entry of a command with this opcode, tag and operands, and its turn has come; the
command has begun in `b` (R454). -/
def Begins (op : Nat) (tag : W16) (args : List Byte → Bool) (s b : State) : Prop :=
  ∃ c, hostTurn op tag args s = some c ∧
    b = { s with host := { s.host with running := { c with begun := true } :: s.host.running.erase c } }

/-- A raised vector is sent, if MSI-X may send it, and pends otherwise (R456, R459). -/
def VectorOut (s t : State) (outs : List Out) (v : Nat) : Prop :=
  t.outbox = s.outbox ++ outs ++ (if msixOpen s v then [.msix v] else []) ∧
    (msixOpen s v = false → rf2 t 0x5000 v 1 = 1)

/-- The completion of a command, and its interrupt, are what `t` has sent beyond `s`, and the command is no longer in
execution (R454 to R456). -/
def Completed (s t : State) (tag status : W16) (cause : Nat) (hitch : W16) (result : Nat) : Prop :=
  VectorOut s t [.completion (cplBytes tag status cause hitch result (ringPhase s oCpl))] 0 ∧
    t.host.running = (runDone tag s).2.host.running

/-! ### Grooms and blocks -/

/-- The registers that count accesses to HBM and to the cache partitions, and the errors that reads meet (R221,
R238, R247, R248). -/
def accessRegs : List Nat :=
  (List.range 8).flatMap (fun d =>
    [0x010, 0x020, 0x024, 0x030, 0x034, 0x038, 0x03C, 0x040, 0x044].map (fun o => oDie d + o) ++
    [0x020, 0x030, 0x034, 0x038, 0x040, 0x044, 0x048, 0x04C].map (fun o => oHbm d + o))

/-- The dirty lines of a die's cache partition (R228). -/
def dirtyLines (s : State) (d : Nat) : List Line :=
  ((s.mem.cache.filter (fun e => decide (setKey d 0 ≤ e.1 ∧ e.1 < setKey (d + 1) 0))).flatMap (fun e => e.2)).filter
    (fun l => l.dirty)

/-- The words of the dirty lines of a die's partition that no read can correct (R221). -/
def lostWords (s : State) (d : Nat) : List Nat := (dirtyLines s d).flatMap (fun l => lineWords s d l s.mem.badSram)

/-- The dirty lines of a die's partition have been written back, and counted (R227, R229, R248), and where a word of
theirs cannot be corrected it is counted and reported (R221). -/
def WroteBack (s t : State) (d : Nat) : Prop :=
  reg64 t (oDie d + 0x040) = (reg64 s (oDie d + 0x040) + (dirtyLines s d).length) % 2 ^ 64 ∧
    reg64 t (oHbm d + 0x048) = (reg64 s (oHbm d + 0x048) + (dirtyLines s d).length) % 2 ^ 64 ∧
    (lostWords s d = [] →
      RegsKeep [oDie d + 0x008, oDie d + 0x040, oDie d + 0x044, oHbm d + 0x048, oHbm d + 0x04C] s t ∧ t.log = s.log) ∧
    ((∀ w ∈ lostWords s d, dieOf (w * 8) = d) →
      regGet t (oDie d + 0x024) = regGet s (oDie d + 0x024) + BitVec.ofNat 32 (lostWords s d).length ∧
      (lostWords s d ≠ [] → rf t (oDie d + 0x010) 1 1 = 1) ∧ RegsKeep ((oDie d + 0x008) :: accessRegs) s t)

/-- Groom `k` stands ready at a legal word of opcode `op`, with fields `b` (R80, R117, R252). -/
def GroomAt (s : State) (k op : Nat) (b : NI) : Prop :=
  groomReady s k = true ∧ opOf (groomWord s k) = op ∧ groomStatic k (groomWord s k) = .ok b

/-- Groom `k` of `t` is `g`, its PC is `pc`, and nothing else differs but the registers `others`. -/
def GroomGives (s t : State) (k : Nat) (g : Groom) (pc : Nat) (others : List Nat) : Prop :=
  groomOf t k = g ∧ GroomsKeep k s t ∧ FieldGives s t (oGroom k + 0x00C) 0 12 pc others ∧
    Keeps [.grooms, .regs, .log] s t

/-- Groom `k` has halted with a code at its PC: the fault register holds both, its event bit is set and the
fault is logged (R83, R270). -/
def GroomHalted (s t : State) (k : Nat) (code : W16) (cls : Machine.Class) : Prop :=
  (groomOf t k).halted = true ∧ (groomOf t k).gop = none ∧
    regGet t (oGroom k + 0x020) = BitVec.ofNat 32 (code.toNat + groomPc s k * 2 ^ 16) ∧
    rf t (oGroom k + 0x060) 0 1 = 1 ∧ Logged s t code .groom k cls

/-! ### Ports -/

/-- Port `p` of `t` is `q`; the other ports and the rest of the fabric are as in `s`. -/
def PortGives (s t : State) (p : Nat) (q : Port) : Prop :=
  portOf t p = q ∧ (∀ m, m ≠ p → portOf t m = portOf s m) ∧ t.fab = { s.fab with ports := t.fab.ports }

/-- The blocks that a port's resend buffer holds go out again, in order, and are counted (R303). -/
def Resent (s t : State) (p : Nat) : Prop :=
  (∃ bs : List Block, t.outbox = s.outbox ++ bs.map (fun b => Out.block p b) ∧
    bs.map (fun b => b.flits) = (portOf s p).sent.map (fun b => b.flits)) ∧
    regGet t (oPort p + 0x110) = regGet s (oPort p + 0x110) + BitVec.ofNat 32 (portOf s p).sent.length ∧
    (portOf t p).sent = (portOf s p).sent

/-! ### Invariants -/

/-- The invariant of memory: its bytes are in canonical form. -/
def MemInv (s : State) : Prop := Memory.wf s.mem.bytes

end Sys2Proof.Machine
end

