-- ==== Sys2Proof/WellFormed.lean ====
section
/-!
DEFINITION. When a command is well formed: its operands have the sizes and ranges that the spec gives
them. Numbers that an index type already bounds need no check.
-/
namespace Sys2Proof

/-- A rank of a paddock (R25, R454): at most 8,192 devices. -/
def rankWf (r : Nat) : Bool := decide (r < 8192)

/-- A sequence space (R320, R322): data, control, or one of the 1,024 groups. -/
def spaceWf (n : Nat) : Bool := decide (n < 1026)

/-- A flit carries one 256-byte grain (R300). -/
def flitWf (f : Flit) : Bool := decide (f.payload.length = 256)

/-- A block carries 16 flits (R301). -/
def blockWf (b : Block) : Bool := decide (b.flits.length = 16) && b.flits.all flitWf

/-- The object of an action lies in its space (R286, R454): BAR0 of 64 MiB, the routing entries of a
port or the injection table, the 24 rings of a cage that carry data, the eight grid positions, a tap
weight of at most 4,096. -/
def actionWf (a : Action) : Bool :=
  match a with
  | .regWrite off _ _ => decide (off.toNat < 2 ^ 26 ∧ off.toNat % 4 = 0)
  | .routeEdit port entry _ => decide ((port.toNat < 24 ∨ port = 0xFFFF) ∧ entry < 9216)
  | .laneAdd _ _ => true
  | .laneRemove _ _ => true
  | .retune _ ring pos weight => decide (ring.val < 24 ∧ (pos.toNat < 8 ∨ pos = 0xFF) ∧ weight.toNat ≤ 4096)
  | .streamStart off _ => decide (off.toNat < 2 ^ 26 ∧ off.toNat % 4 = 0)
  | .cut _ _ => true
  | .stepCommit => true

/-- A paddock shape has five cuts, and a position in each for each rank (R29). -/
def shapeWf (s : Shape) : Bool := decide (s.cuts.length = 5) && s.assign.all (fun l => decide (l.length = 5))

/-- A signed image has a 512-byte header, and a public key has 57 bytes (R422). -/
def signedWf (i : SignedImage) : Bool := decide (i.header.length = 512 ∧ i.key.length = 57)

/-- A program image: a signed image, a shape of five cuts, a batch schedule, legal tile operations and gathers that
name bindings of theirs, a stage, and templates whose actions are well formed (R23, R29, R35, R292, R369, R378, R422). -/
def imageWf (i : ProgramImage) : Bool :=
  signedWf i.signed && shapeWf i.shape && !i.batch.isEmpty && i.tiles.all (fun o => Machine.tileLegal o && Machine.opBound i o) && i.gathers.all (Machine.gatherBound i) &&
    i.stage.all Machine.stageWf && i.templates.all (fun t => t.actions.all (fun x => actionWf x.2))

/-- A reading of one tone check has the nine tones (R337). -/
def toneWf (r : ToneReading) : Bool := decide (r.amps.length = 9)

/-- A control frame has 44 monitor samples (R334). -/
def frameWf (f : OclFrame) : Bool := decide (f.samples.length = 44)

/-- A commissioning record names 9 lasers and 27 rings, with a 27 × 27 crosstalk matrix (R333). -/
def stoterWf (r : StoterRecord) : Bool :=
  decide (r.lasers.length = 9 ∧ r.coef.length = 27 ∧ r.tune.length = 27 ∧ r.cross.length = 27) &&
    r.cross.all (fun l => decide (l.length = 27))

/-- A search: a tone check with its nine tones for each candidate (R337, R341). -/
def sweepWf (w : RingSweep) : Bool := w.fine.all (fun x => toneWf x.2)

/-- A restart record names at most 8,192 devices (R454). -/
def recordWf (r : RestartRecord) : Bool := decide (r.ranks.length ≤ 8192)

/-- What a restart reads: for each rank one 4 KiB manifest, or none (R403), and an image or none. -/
def seenWf (r : RestartRecord) (x : RestartSeen) : Bool :=
  decide (x.manifests.length = r.ranks.length) && x.image.all imageWf &&
    x.manifests.all (fun m => match m with
      | none => true
      | some b => decide (b.length = 4096))

/-- A place of memory lies in its stack, Loft or Manger (R219): sectors of 32 bytes, words of 8. -/
def placeWf (p : MemPlace) : Bool :=
  match p with
  | .hbm _ sector => decide (sector < Machine.hbmTop / 8 / 32)
  | .loft _ word => decide (word < Machine.loftSize / 8)
  | .manger _ word => decide (word < Machine.mangerSize / 8)

/-- What the scrubber reads lies in its stack or Loft. -/
def scrubWf (t : ScrubTarget) : Bool :=
  match t with
  | .hbm k sector => placeWf (.hbm k sector)
  | .loft d word => placeWf (.loft d word)

/-- A register access lies in its BAR, 64 MiB or 1 MiB (R451), or in the 4 KiB of configuration space. -/
def barWf (b : Bar) (off : Nat) : Bool :=
  match b with
  | .bar0 => decide (off < 2 ^ 26)
  | .bar2 => decide (off < 2 ^ 20)
  | .cfg => decide (off < 4096)
  | .other => decide (off < 2 ^ 26)

/-- A command is well formed. -/
def Instr.wf (i : Instr) : Bool :=
  match i with
  | .load _ img => imageWf img
  | .hitchOpen _ ranks _ => decide (ranks.length ≤ 8192) && ranks.all rankWf
  | .hitchStage _ _ rank action => rankWf rank && actionWf action
  | .hitchPrepare _ coord _ actions => rankWf coord && decide (actions.length ≤ 4096) && actions.all (fun x => rankWf x.1 && actionWf x.2)
  | .hitchVote _ rank _ => rankWf rank
  | .hitchAck _ rank => rankWf rank
  | .barrierJoinMsg rank _ interval => rankWf rank && decide (interval < 256)
  | .groomPartialMsg _ block => decide (block < 2 ^ 31)
  | .groomVerdictMsg _ block => decide (block < 2 ^ 31)
  | .blockReceive _ b => blockWf b
  | .noRouteTimeout src => decide (src ≤ 24)
  | .e2eResponse src space _ bitmap _ => rankWf src && spaceWf space && bitmap.all (fun i => decide (i < 65536))
  | .e2eResendTimeout dst space _ => rankWf dst && spaceWf space
  | .deliveryLost dst space _ => rankWf dst && spaceWf space
  | .busyRetry dst space _ => rankWf dst && spaceWf space
  | .oclFrameReceive _ f => frameWf f.frame && f.record.all stoterWf
  | .toneCheck _ _ r => toneWf r
  | .ringSearchDone _ _ w => sweepWf w
  | .cageBringupSearched _ rings spare decouple =>
    decide (rings.length = 24 ∧ spare.length = 3 ∧ decouple.length = 27) && (rings ++ spare).all sweepWf && decouple.all (fun l => decide (l.length = 27))
  | .ringLockAcquire _ _ _ r => toneWf r
  | .spareLocked _ x => toneWf x.tone
  | .hitchPrepared _ found => found.locks.all (fun l => toneWf l.tone)
  | .patrolScrub t upsets => scrubWf t && upsets.all (fun u => placeWf u.place)
  | .riskTick decay => decay.all (fun d => decide (d ≤ 2 ^ 32))
  | .storageReadData _ data => decide (data.length = 256)
  | .restartReport rank _ => rankWf rank
  | .restart _ r => recordWf r.record && seenWf r.record r.seen
  | .thermalTrip (.die _ temp) => decide (temp < 256)
  | .bootImageFetched img => img.all signedWf
  | .attest _ nonce _ => decide (nonce.length = 32)
  | .cmdAccept entry => decide (entry.length = 64)
  | .registerWrite b off _ _ => barWf b off
  | .registerRead b off => barWf b off
  | .thermalTripClear dies hbms => decide (dies.length = 8 ∧ hbms.length = 8)
  | .stepCommit .. | .enq .. | .enqComplete .. | .li .. | .alu .. | .br .. | .loop .. | .sumrd .. | .sld .. | .sst ..
  | .dget .. | .dset .. | .bar .. | .barRealign .. | .stop .. | .sync .. | .cwait .. | .creset .. | .carm ..
  | .copy .. | .copyComplete .. | .tmul .. | .tmulEdgeDone .. | .tmulDrain .. | .trg .. | .troughChainStart ..
  | .troughChainComplete .. | .rflush .. | .rflushEffect .. | .streamHang .. | .flushF .. | .flushB .. | .flushW ..
  | .flushX .. | .flushDone .. | .coreRun .. | .ostlerRunP .. | .ostlerRunX .. | .ostlerContextStopped ..
  | .lockPeakClr .. | .convStatClear .. | .syncArm .. | .deviceEpochClose .. | .barrierCloseMsg .. | .hitchCommit ..
  | .hitchAbort .. | .hitchQuery .. | .hitchPrepareTimeout .. | .hitchCommitted ..
  | .hitchAborted .. | .hitchUndoDone .. | .hitchRelease .. | .hitchDecisionTimeout .. | .gwait .. | .gskip ..
  | .gopMom1 .. | .gopMom2 .. | .gopApply .. | .gopDecay .. | .gopSgd .. | .gopReanchor .. | .gopCast ..
  | .gopDone .. | .reanchorAgree .. | .gsignal .. | .gend .. | .groomRun .. | .groomStopped .. | .groomZeroCounts ..
  | .groomHang .. | .loftPartitionChange .. | .loftPartitionDone .. | .loftFlush .. | .loftFlushDone ..
  | .hbmModeWrite .. | .hbmTempSample .. | .hbmHaltTimeout .. | .hbmTempPeakClr .. | .hbmTgStart ..
  | .hbmTgStop .. | .hbmTgDone .. | .linkAckTimeout .. | .blockPadTimeout .. | .flitReceive .. | .laneShed ..
  | .laneBerWindow .. | .laneShedResume .. | .portTrain .. | .portTrainDone .. | .oclFrameSend .. | .cageLinkLost ..
  | .ringLoopTick .. | .cageEnable .. | .laserFadeCheck .. | .swapNotice .. | .swapAck .. | .swapMaskExpire ..
  | .cageHoldOpen .. | .bypassFault .. | .collEntryValidate .. | .twinPairing .. | .twinHeartbeat ..
  | .twinHeartbeatTimeout .. | .farrierLaneRepair .. | .shadowStream .. | .shadowAck .. | .storageCkptDone ..
  | .storageReadTimeout .. | .paddockStop .. | .powerOnReset .. | .vinUndervoltageReset .. | .railFault ..
  | .rstInNReset .. | .hostReset .. | .watchdogReset .. | .twinRecover .. | .trimLoadDone .. | .rstOutRelease ..
  | .strapLatch .. | .islandRelease .. | .clockLost .. | .blockReset .. | .blockIdle .. | .blockIdleTimeout ..
  | .secSeal .. | .sealTimeout .. | .mailboxGo .. | .tackSet .. | .tackTargetWrite .. | .tackIslandSwitch ..
  | .tackChangeDone .. | .powerCapTick .. | .powerLimitFail .. | .dieHot .. | .dieTempPeakClr .. | .pcieReset ..
  | .cmdDoorbell .. | .copyLastByteRead .. | .cutStateRead .. | .groupReportedReady .. | .laneReacquire ..
  | .heaterCodesTimeout .. | .dieHotClear .. => true

end Sys2Proof
end

