-- ==== Sys2Proof/Certificates/Slice0/Obligations.lean ====
section
/-!
DEFINITION. The statements for the provers. Those that say what a command does have the next state as
their conclusion, described through the accessors of the model and the frames of Sys2Proof/Safety.lean.
-/
open Sys2Proof Sys2Proof.Machine

/-- A step runs the command at the front of the queue on the state with the queue's rest, and an empty
queue idles (assumption 1: the idling is the model's choice). -/
def Obligations.StepRunsFrontCommand : Prop :=
  ∀ (c : Instr) (rest : List Instr) (s : State),
    (s.pending = c :: rest → step s = exec c { s with pending := rest }) ∧ (s.pending = [] → step s = .next s)

/-- Every step answers a next state, and takes exactly the front command off the queue: no command adds
to the queue, reorders it, or stops the device. That a command whose conditions do not hold answers the state as it was is
the model's choice (assumption 2), and so is that an empty queue idles (assumption 1). -/
def Obligations.StepTakesOneCommand : Prop :=
  ∀ s : State, ∃ t, step s = .next t ∧ t.pending = s.pending.tail

/-- The machine right after the power-on reset: memory is in canonical form and zero throughout, every sync
counter and completion count of a core is poisoned and every count of a Groom is 0 and not poisoned, nothing
runs, no job is loaded, the device is not sealed, every port is DOWN, and the rings are out of service (R270, R278,
R282, R295, R410, R428, R453). That memory reads zero before the first zeroing of R241 is the model's choice (assumption
71), and so is that no command waits (assumption 69). -/
def Obligations.ResetState : Prop :=
  MemInv State.reset ∧ (∀ a, memByte State.reset a = 0) ∧
    (∀ n i, ((coreOf State.reset n).ctr i).poison.isSome = true ∧ ((coreOf State.reset n).cc i).poison.isSome = true) ∧
    (∀ k i, tabGet gcntReset (groomOf State.reset k).counts i = ⟨0, none, false⟩) ∧ anyRun State.reset = false ∧
    State.reset.job.loaded = false ∧ isSealed State.reset = false ∧ State.reset.pending = [] ∧
    (∀ p, p < 24 → portState State.reset p = 0) ∧ (∀ r ∈ [oCmd, oCpl, oEvt], ringOn State.reset r = false) ∧
    (∀ n, n < 32 → ∀ q, ((coreOf State.reset n).queue q).live = [])

/-- The memory keeps its canonical form: addresses rise strictly and no listed byte is zero (R241). -/
def Obligations.StepKeepsMemoryForm : Prop :=
  ∀ s t : State, MemInv s → step s = .next t → MemInv t

/-- A read of memory after a write gives the bytes written, every other byte is as it was, every word of SRAM
that the write reaches, or that serves what it reaches, has a fresh code (R221, R225), and so has every
sector of a grain of HBM that it covers whole, and no other (R238). The hash of R231, bit by bit, and its
inverse: the grain of a stack's pseudo-channel with local index `u` lies at an address that hashes to that
pseudo-channel and index, so no two share a grain. -/
def Obligations.MemoryReadsAndPlaces : Prop :=
  (∀ (a : Nat) (l : List Byte) (s : State),
      memRead (memWrite a l s) a l.length = l ∧ BytesKeep a l.length s (memWrite a l s) ∧
        sramUeIn (memWrite a l s) a l.length = none ∧
        (∀ x, x ∈ (memWrite a l s).mem.badHbm ↔
          x ∈ s.mem.badHbm ∧ ¬ (a ≤ x / 8 * 256 ∧ x / 8 * 256 + 256 ≤ a + l.length)) ∧
        Keeps [.mem] s (memWrite a l s)) ∧
  ((∀ a, a < hbmTop → uOf a = a / 2 ^ 17 ∧ uOf a < 5242880 ∧ stackOf a = pcOf a / 64 ∧ pcOf a < 512 ∧
      ∀ i, i < 9 → (pcOf a).testBit i =
        ((a.testBit (8 + i) ^^ a.testBit (17 + i)) ^^ (a.testBit (26 + i) ^^ (decide (i < 5) && a.testBit (35 + i))))) ∧
    ∀ (k pc u : Nat), k < 8 → pc < 64 → u < 2 ^ 23 →
      pcOf (hbmAddr k pc u) = k * 64 + pc ∧ stackOf (hbmAddr k pc u) = k ∧ uOf (hbmAddr k pc u) = u ∧
        hbmAddr k pc u % 256 = 0)

/-- Decoding the encoding of a well-formed native instruction gives it back, in the place where its class is
legal, with every operand at every value (R76 to R117). Every word that decodes is the encoding of what it
decodes to, so no bit of an accepted word is ignored, and no accepted word has a second meaning (R76 to
R80). -/
def Obligations.NativeEncodingExact : Prop :=
  (∀ i : Native, nativeWf i = true → decodeNative (placeOf i.body) (encodeNative i) = .ok i) ∧
  (∀ (p : Place) (x : W128) (i : Native), decodeNative p x = .ok i → encodeNative i = x)

/-- Each class is legal only in its place (R79): sync, copy, tile, Trough and reduce in a queue, control in the
instruction RAM of the Ostler, Groom in a U program. A well-formed instruction decodes in the place of its class
and fails with OPCODE_ILLEGAL in every other one, as does any word whose opcode no class of the place has. -/
def Obligations.ClassesInTheirPlaces : Prop :=
  (∀ (i : Native) (p : Place), nativeWf i = true →
    decodeNative p (encodeNative i) =
      (if p = (match i.body with
        | .sync => .queue | .cwait _ _ => .queue | .creset _ => .queue | .carm _ _ => .queue
        | .copy _ => .queue | .tmul _ => .queue | .trg _ => .queue | .rflush _ => .queue
        | .ctl _ _ => .ostler
        | .gwait _ _ => .groom | .gskip _ => .groom | .gop _ => .groom | .gsignal _ => .groom | .gend => .groom)
       then .ok i else .error cOPCODE_ILLEGAL)) ∧
  ∀ (p : Place) (x : W128),
    (∀ i : Native, nativeWf i = true → placeOf i.body = p → opcodeOf i.body ≠ x.extractLsb' 120 8) →
    decodeNative p x = .error cOPCODE_ILLEGAL

/-- The lowering of a portable image (R35, R36, R118, R119, R131, R174, R378; how far a depth is spread is free, and
that its parts are even is the model's choice, assumption 39). The output tiles of an operation cover its rows and
columns, padded in the last tile row and column alone; its depths are taken once each, in the image's order for the
ordered class; the depth stays on one chain where it must, and its parts keep the limit of a chain; the slabs of a
chain are none longer than kmax and even in BF16; its TMULs are legal, take the k-steps of their part once each in
order, at the operands of their first k-step, with the chain code, mode and formats of the operation. The enqueue
order of a stage is that of its schedule. -/
def Obligations.LoweringKeepsTheOperation : Prop :=
  (∀ (o : TileOp) (heritage : Bool) (n : Nat), tileLegal o = true →
    let kk := tileKsteps o
    let parts := tileParts o heritage (Config.spread n)
    let raw : Bool := decide (1 < parts.length) || decide (o.rowZero ≠ [])
    let covers (size tiles : Nat) (pad : Nat → Nat) : Prop :=
      (∀ r, r < size → r / 128 < tiles) ∧ 128 * tiles = size + pad (tiles - 1) ∧ ∀ i, i + 1 < tiles → pad i = 0
    covers o.m (tileGrid o).1 (tilePadRows o) ∧ covers o.n (tileGrid o).2 (tilePadCols o) ∧
    (tileDepths o).Perm (List.range o.k) ∧ (o.ordered = false → tileDepths o = List.range o.k) ∧
    parts.sum = kk ∧ (tileOneChain o heritage = true → parts = [kk]) ∧
    (tileOneChain o heritage = false → ∀ p ∈ parts, 0 < p ∧ p ≤ 262144) ∧
    ∀ p k, parts[p]? = some k →
      let l := slabs o.ordered k
      let runs := partRuns o parts p
      l.sum = k ∧ l.length = ceilDiv k (kmax o.ordered) ∧
      (∀ x ∈ l, 0 < x ∧ x ≤ kmax o.ordered ∧ (o.ordered = true → x % 2 = 0)) ∧
      (o.ordered = false → runs.length = l.length) ∧
      runs.flatMap (fun r => List.range' r.1 r.2) =
        (if o.ordered then (tileDepths o).flatMap (fun d => [2 * d, 2 * d + 1]) else List.range' (parts.take p).sum k) ∧
      (∀ r ∈ runs, 0 < r.2 ∧ r.2 ≤ kmax o.ordered) ∧
      ∀ (pl : Plan) (ctr i j : Nat), (tileChain o parts pl ctr i j p).length = runs.length ∧
        ∀ q x, (tileChain o parts pl ctr i j p)[q]? = some x →
          ∃ f r, runs[q]? = some r ∧ x.body = .tmul f ∧ tmulOk f = true ∧ f.k.toNat = r.2 ∧ f.mode = o.mode ∧
            f.fmta = o.fmta ∧ f.fmtb = o.fmtb ∧ f.fmtc = (if raw then 7 else o.fmtc) ∧
            f.a = opndOf (pl.a + i * panelBytes o o.fmta) + BitVec.ofNat 19 (2 * r.1) ∧
            f.b = opndOf (pl.b + j * panelBytes o o.fmtb) + BitVec.ofNat 19 (2 * r.1) ∧
            f.chain.toNat = (if runs.length = 1 then 0 else if q = 0 then 1 else if q + 1 = runs.length then 3 else 2)) ∧
  ∀ (st : Stage) (split : Bool), stageWf st = true →
    let back (j : Nat) : List (Q × Nat) := (.B, j) :: if split then [(.W, j)] else []
    let lead := st.p - st.s - 1
    stageOrder st split =
      if st.alternating then
        (List.range (min st.m lead)).map (fun j => (.F, j)) ++
          (List.range st.m).flatMap (fun j => (if j + lead < st.m then [(.F, j + lead)] else []) ++ back j)
      else (List.range st.m).map (fun j => (.F, j)) ++ (List.range st.m).reverse.flatMap back

/-- The entry of a host command spells it: it has 64 bytes, is neither illegal nor void, carries the
command's tag, and reads back as the command with every operand (R453, R454). -/
def Obligations.CommandEntryRoundTrip : Prop :=
  ∀ (c : Instr) (e : List Byte), c.wf = true → commandEntry c = some e →
    e.length = 64 ∧ cmdIllegal e = false ∧ entryVoid e = false ∧ entryCommand e = some c

/-- Encoding what a code of an element format decodes to gives the code back, with nothing reported, for every
finite code of FP4, E4M3, E5M2, INT8, BF16 and AX16 at every anchor, but for −0 of a floating-point format,
which R155 makes +0 (R145 to R151, R157 to R160). -/
def Obligations.FormatsRoundTrip : Prop :=
  ∀ (f : Nat) (anchor : Int) (c : Nat) (d : Dy), f ≤ 5 → -128 ≤ anchor → anchor ≤ 127 → c < 2 ^ fmtBits f →
    (c ≠ 2 ^ (fmtBits f - 1) ∨ f = fINT8) → decode f anchor c = .fin d →
    encode f anchor (.fin d) = ⟨c, false, false⟩

/-- The encodings of FP4, E4M3, E5M2 and BF16 (R145 to R148, R150): the places of the sign, the exponent and the
fraction, the values they denote, the non-finite codes, the largest finite value and the canonical NaN. -/
def Obligations.FloatFormatsDecode : Prop :=
  ∀ anchor : Int,
    let val (d : Dy) : ℚ := (if d.neg then -1 else 1) * d.m * (2 : ℚ) ^ d.q
    let den (sgn e fr fb : Nat) (bias : Int) (d : Dy) : Prop :=
      d.neg = decide (sgn = 1) ∧
        val d = (-1) ^ sgn * (if e = 0 then (fr : ℚ) / 2 ^ fb * (2 : ℚ) ^ (1 - bias)
          else (1 + (fr : ℚ) / 2 ^ fb) * (2 : ℚ) ^ ((e : Int) - bias))
    (∀ c, c < 16 → ∃ d, decode fFP4 anchor c = .fin d ∧ den (c / 8) (c / 2 % 4) (c % 2) 1 1 d ∧
      d.neg = decide (8 ≤ c) ∧
      val d = (if c < 8 then 1 else -1) * ([0, 1 / 2, 1, 3 / 2, 2, 3, 4, 6] : List ℚ).getD (c % 8) 0) ∧
    (∀ c, c < 256 →
      if c = 0x7F ∨ c = 0xFF then decode fE4M3 anchor c = .nan
      else ∃ d, decode fE4M3 anchor c = .fin d ∧ den (c / 128) (c / 8 % 16) (c % 8) 3 7 d ∧ val d ≤ 448) ∧
    (∃ d, decode fE4M3 anchor 0x7E = .fin d ∧ val d = 448) ∧ (encode fE4M3 anchor .nan).code = 0x7F ∧
    (∀ c, c < 256 →
      if c / 4 % 32 = 0x1F then
        (if c % 4 = 0 then decode fE5M2 anchor c = .inf (decide (c / 128 = 1)) else decode fE5M2 anchor c = .nan)
      else ∃ d, decode fE5M2 anchor c = .fin d ∧ den (c / 128) (c / 4 % 32) (c % 4) 2 15 d ∧ val d ≤ 57344) ∧
    decode fE5M2 anchor 0x7C = .inf false ∧ decode fE5M2 anchor 0xFC = .inf true ∧
    (∃ d, decode fE5M2 anchor 0x7B = .fin d ∧ val d = 57344) ∧ (encode fE5M2 anchor .nan).code = 0x7F ∧
    (∀ c, c < 65536 →
      if c / 128 % 256 = 0xFF then
        (if c % 128 = 0 then decode fBF16 anchor c = .inf (decide (c / 32768 = 1)) else decode fBF16 anchor c = .nan)
      else ∃ d, decode fBF16 anchor c = .fin d ∧ den (c / 32768) (c / 128 % 256) (c % 128) 7 127 d) ∧
    decode fBF16 anchor 0x7F80 = .inf false ∧ decode fBF16 anchor 0xFF80 = .inf true ∧
    (encode fBF16 anchor .nan).code = 0x7FC0

/-- Conversion to INT8 (R160): the nearest integer, with ties away from zero, which saturates at the nearer end
outside −128 to 127; what rounds to zero is written as 0x00. -/
def Obligations.Int8Conversion : Prop :=
  ∀ (anchor : Int) (d : Dy),
    let v : ℚ := (if d.neg then -1 else 1) * d.m * (2 : ℚ) ^ d.q
    ∃ n : ℤ, |v - n| ≤ 1 / 2 ∧ (|v - n| = 1 / 2 → |v| < |(n : ℚ)|) ∧
      encode fINT8 anchor (.fin d) =
        ⟨ofSigned 8 (max (-128) (min 127 n)), decide (n < -128 ∨ 127 < n), false⟩ ∧
      (n = 0 → (encode fINT8 anchor (.fin d)).code = 0x00)

/-- LI, ALU, BR and LOOP complete (R83, R113). At a legal instruction whose header wait is satisfied and whose
signal fits, LI writes the sign-extended immediate, ALU its operation on the first scalar and the second or
the immediate, BR only PC, and LOOP the decremented scalar; PC takes the target or the next index, and
nothing else changes but what the header counts. A scalar register reads what was written; s0 reads as zero
and discards writes. -/
def Obligations.ScalarInstructionsComplete : Prop :=
  (∀ (c : Fin 32) (x : Ctx) (f : CtlF) (s : State),
      let w := ctxWord (coreOf s c.val) x
      let v := (coreOf s c.val).ctx x
      let target := f.imm.extractLsb' 0 12
      signalFits (waitCore (coreOf s c.val) w) w →
      (CtlAt s c.val x 0x81 f →
        ∃ t, exec (.li c x) s = .next t ∧
          CtlGives s t c.val x w (regChange x f.rd (f.imm.signExtend 64)) (v.pc + 1)) ∧
      (CtlAt s c.val x 0x82 f →
        ∃ t, exec (.alu c x) s = .next t ∧
          CtlGives s t c.val x w
            (regChange x f.rd (aluOp f.sub.toNat (sGet v f.ra)
              (if f.x.getLsbD 0 then f.imm.signExtend 64 else sGet v f.rb))) (v.pc + 1)) ∧
      (CtlAt s c.val x 0x83 f →
        ∃ t, exec (.br c x) s = .next t ∧
          CtlGives s t c.val x w (fun k => k)
            (if brCond f.sub.toNat (sGet v f.ra) (sGet v f.rb) then target else v.pc + 1)) ∧
      (CtlAt s c.val x 0x84 f →
        ∃ t, exec (.loop c x) s = .next t ∧
          CtlGives s t c.val x w (regChange x f.rd (sGet v f.rd - 1))
            (if f.rd ≠ 0 ∧ sGet v f.rd - 1 ≠ 0 then target else v.pc + 1))) ∧
  (∀ (v : CtxSt) (r q : BitVec 5) (a : W64),
      sGet (sSet r a v) q = if q = 0 then 0 else if q = r then a else sGet v q)

/-- SUMRD, DGET and DSET complete (R92, R112, R113). SUMRD reads a posted summary slot and empties it; DGET
reads a word of a descriptor; DSET writes one, at once where nothing in flight uses the descriptor, and else
takes its header wait and stands until nothing does. SLD and SST complete (R114). At an 8-byte aligned
address inside the Manger, SLD reads the eight bytes into its scalar, where its reads meet no uncorrectable
error, with the corrected errors counted, and SST stores its scalar there and nowhere else. -/
def Obligations.DescriptorAndMemoryInstructionsComplete : Prop :=
  (∀ (c : Fin 32) (x : Ctx) (f : CtlF) (s : State),
      let w := ctxWord (coreOf s c.val) x
      let v := (coreOf s c.val).ctx x
      signalFits (waitCore (coreOf s c.val) w) w →
      (∀ a, CtlAt s c.val x 0x85 f → tabGet none (coreOf s c.val).slots f.x.toNat = some a →
        ∃ t, exec (.sumrd c x) s = .next t ∧
          CtlGives s t c.val x w
            (fun k => regChange x f.rd a { k with slots := tabSet none k.slots f.x.toNat none }) (v.pc + 1)) ∧
      (CtlAt s c.val x 0x88 f →
        ∃ t, exec (.dget c x) s = .next t ∧
          CtlGives s t c.val x w
            (regChange x f.rd ((dWord ((coreOf s c.val).dsc f.x.toNat) f.sub.toNat).setWidth 64)) (v.pc + 1)) ∧
      (CtlAt s c.val x 0x89 f → descInUse s c.val f.x.toNat = false →
        ∃ t, exec (.dset c x) s = .next t ∧
          CtlGives s t c.val x w
            (fun k => k.setDsc f.x.toNat (dWordSet (k.dsc f.x.toNat) f.sub.toNat ((sGet v f.rb).setWidth 32))) (v.pc + 1)) ∧
      (CtlAt s c.val x 0x89 f → descInUse s c.val f.x.toNat = true →
        ∃ t, exec (.dset c x) s = .next t ∧
          (let k := waitCore (coreOf s c.val) w
           coreOf t c.val = k.setCtx x { k.ctx x with dset := true }) ∧
          CoresKeep c.val s t ∧ Keeps [.cores] s t) ∧
      (v.dset = true → ctxRun s c.val x = true → ctxMayRun s c.val x = true → bodyOf w = .ctl 0x9 f → f.x.toNat < 4096 →
        descInUse s c.val f.x.toNat = false → signalFits (coreOf s c.val) w →
        ∃ t, exec (.dset c x) s = .next t ∧
          CtlEnds s t c.val x w
            (fun k => k.setDsc f.x.toNat (dWordSet (k.dsc f.x.toNat) f.sub.toNat ((sGet v f.rb).setWidth 32))) (v.pc + 1))) ∧
  (∀ (c : Fin 32) (x : Ctx) (f : CtlF) (s : State),
      let w := ctxWord (coreOf s c.val) x
      let v := (coreOf s c.val).ctx x
      let a := (f.imm.signExtend 64 + sGet v f.ra).toNat
      let at8 := mangerBase c.val + a
      let stored := leBytes 8 (sGet v f.rb).toNat
      signalFits (waitCore (coreOf s c.val) w) w → a % 8 = 0 → a + 8 ≤ mangerSize →
      (CtlAt s c.val x 0x86 f → ReadsWell s at8 8 →
        ∃ t, exec (.sld c x) s = .next t ∧
          CtlGives (readCorrected at8 8 s) t c.val x w (regChange x f.rd (BitVec.ofNat 64 (leNat (memRead s at8 8))))
            (v.pc + 1)) ∧
      (CtlAt s c.val x 0x87 f →
        ∃ t, exec (.sst c x) s = .next t ∧ memRead t at8 8 = stored ∧ BytesKeep at8 8 s t ∧
          CtlGives (memWrite at8 stored s) t c.val x w (fun k => k) (v.pc + 1) ∧
          t.mem.sidecar = s.mem.sidecar))

/-- ENQ and ENQ_COMPLETE complete (R43, R80). A block that passes the checks enters its queue as far as it
has room; the instruction ends once its last word has entered, and waits otherwise, and goes on with what
its queue gains room for. -/
def Obligations.EnqueueCompletes : Prop :=
  ∀ (c : Fin 32) (x : Ctx) (f : CtlF) (occ : Nat) (s : State),
    let w := ctxWord (coreOf s c.val) x
    let v := (coreOf s c.val).ctx x
    let q := enqQueue f
    let a := (f.imm.signExtend 64 + sGet v f.ra).toNat
    let ws := blockWords s c.val a (enqCount f)
    let room := qRoom s c.val q
    let u := readCorrected (mangerBase c.val + a) (16 * enqCount f) s
    let put (q : Q) (l : List W128) (k : Core) : Core := k.setQueue q { k.queue q with
      live := (k.queue q).live ++ (l.zipIdx).map (fun p => ⟨(k.queue q).next + p.2, p.1, .waiting, [], []⟩),
      next := (k.queue q).next + l.length }
    (CtlAt s c.val x 0x80 f → enqRefused s c.val x q = false → a % 16 = 0 → a + 16 * enqCount f ≤ mangerSize →
      ReadsWell s (mangerBase c.val + a) (16 * enqCount f) →
      blockCheckN (x = .filler) (occLimit s c.val) v.chainOcc ws = .ok occ →
      (ws.length ≤ room → signalFits (waitCore (coreOf s c.val) w) w →
        ∃ t, exec (.enq c x) s = .next t ∧
          CtlGives u t c.val x w
            (fun k => (put q ws k).setCtx x { (put q ws k).ctx x with chainOcc := occ }) (v.pc + 1)) ∧
      (room < ws.length →
        ∃ t, exec (.enq c x) s = .next t ∧
          (let k := put q (ws.take room) (waitCore (coreOf s c.val) w)
           coreOf t c.val = k.setCtx x { k.ctx x with
             chainOcc := occ, enq := some ⟨q, ws.drop room, (hdrOf w).sctr.toNat, (hdrOf w).samt.toNat⟩ }) ∧
          CoresKeep c.val s t ∧ Keeps [.cores] u t)) ∧
    (∀ e : EnqSt, v.enq = some e → ctxMayRun s c.val x = true → e.rest.length ≤ qRoom s c.val e.q → signalFits (coreOf s c.val) w →
      ∃ t, exec (.enqComplete c x) s = .next t ∧ CtlEnds s t c.val x w (put e.q e.rest) (v.pc + 1)) ∧
    (∀ e : EnqSt, v.enq = some e → ctxMayRun s c.val x = true → qRoom s c.val e.q < e.rest.length →
      ∃ t, exec (.enqComplete c x) s = .next t ∧
        (let k := put e.q (e.rest.take (qRoom s c.val e.q)) (coreOf s c.val)
         coreOf t c.val = k.setCtx x { k.ctx x with enq := some { e with rest := e.rest.drop (qRoom s c.val e.q) } }) ∧
        CoresKeep c.val s t ∧ Keeps [.cores] s t)

/-- BAR and STOP complete (R113, R114, R277). BAR of the primary context takes its wait and stands until the
realignment (that it takes the wait when it begins is the model's choice, assumption 47: R274 takes it when
the context proceeds); kind 0 of the filler context completes once F, B and W are idle; STOP ends the
context with PC at the next index and its RUN bit at 0. BAR_REALIGN completes (R277, R283). With RUN_P at 1,
once F, B and W are idle and no marked counter stands below its rest value, every marked counter takes its
rest value; kind 1 joins the device epoch; kind 2 joins the step-end epoch, and the coordinator is told once
every core has; kind 0 completes with its signal. -/
def Obligations.BarAndStopComplete : Prop :=
  (∀ (c : Fin 32) (x : Ctx) (f : CtlF) (s : State),
      let w := ctxWord (coreOf s c.val) x
      let v := (coreOf s c.val).ctx x
      let run := oCore c.val + 0x060
      (x = .primary → CtlAt s c.val x 0x8A f →
        ∃ t, exec (.bar c x) s = .next t ∧
          (let k := waitCore (coreOf s c.val) w
           coreOf t c.val = k.setCtx x { k.ctx x with bar := some .waiting }) ∧
          CoresKeep c.val s t ∧ Keeps [.cores] s t) ∧
      (x = .filler → CtlAt s c.val x 0x8A f → f.sub = 0 → coreIdle (coreOf s c.val) = true →
        signalFits (waitCore (coreOf s c.val) w) w →
        ∃ t, exec (.bar c x) s = .next t ∧ CtlGives s t c.val x w (fun k => k) (v.pc + 1)) ∧
      (CtlAt s c.val x 0x8B f → signalFits (waitCore (coreOf s c.val) w) w →
        ∃ t, exec (.stop c x) s = .next t ∧
          (let k := signalCore (waitCore (coreOf s c.val) w) w
           coreOf t c.val = k.setCtx x { k.ctx x with pc := v.pc + 1, enq := none, bar := none, dset := false, active := false }) ∧
          rf t run (runBit x) 1 = 0 ∧ (∀ i, i < 32 → i ≠ runBit x → rf t run i 1 = rf s run i 1) ∧
          RegsKeep (run :: syncRegs c.val) s t ∧ CoresKeep c.val s t ∧ Keeps [.cores, .regs, .free, .log] s t)) ∧
  (∀ (c : Fin 32) (f : CtlF) (s : State),
      let k := coreOf s c.val
      let w := ctxWord k .primary
      let marked := markedCtrs s c.val
      let drift := [oCore c.val + 0x1_044C, oCore c.val + 0x1_0440, oCore c.val + 0x1_0448]
      let realigned (k' : Core) : Prop :=
        ∀ i, k'.ctr i = if i ∈ marked then { k.ctr i with c := (k.ctr i).r } else k.ctr i
      let stands (b : BarSt) (t : State) : Prop :=
        realigned (coreOf t c.val) ∧ (coreOf t c.val).ctxP = { k.ctxP with bar := some b } ∧
          (∀ q, (coreOf t c.val).queue q = k.queue q) ∧ CoresKeep c.val s t ∧ RegsKeep drift s t
      k.ctxP.bar = some .waiting → ctxRun s c.val .primary = true → coreIdle k = true → bodyOf w = .ctl 0xA f →
      (∀ i ∈ marked, (k.ctr i).r.toNat ≤ (k.ctr i).c.toNat) →
      (f.sub = 1 → ∃ t, exec (.barRealign c) s = .next t ∧ stands .device t) ∧
      (f.sub = 2 → ∃ u, stands .step u ∧
        exec (.barRealign c) s = .next
          (if allJoined u .step then
            sendRank 0 (.join (ownRank s) (rf s 0x4000 16 1 == 1) (effInterval s)) u else u)) ∧
      (f.sub = 0 → (∀ k', realigned k' → signalFits k' w) →
        ∃ u t, exec (.barRealign c) s = .next t ∧ CtlEnds u t c.val .primary w (fun k => k) (k.ctxP.pc + 1) ∧
          realigned (coreOf u c.val) ∧ (coreOf u c.val).ctxP = k.ctxP ∧
          (∀ q, (coreOf u c.val).queue q = k.queue q) ∧ CoresKeep c.val s u ∧ RegsKeep drift s u))

/-- SYNC, CWAIT, CRESET and CARM issue and complete (R47, R48, R93, R273 to R276, R281, R282), with older
instructions of their queue in flight or none. Beside the header's wait and signal SYNC and CWAIT change
nothing, CRESET sets its count to 0 without poison, and CARM sets count and rest value before its own wait
takes its signals. The signal of an instruction with older ones in flight is held back. A poisoned wait
wakes with ABANDONED (R279): SYNC at a poisoned counter halts its queue at that instruction and keeps the
instruction unissued. -/
def Obligations.SyncInstructionsComplete : Prop :=
  (∀ (c : Fin 32) (q : Q) (i : Fin 16) (before after : List Ent) (e : Ent) (s : State),
      let k := coreOf s c.val
      let w := e.word
      Stands k q before e after →
      (IssueAt s c.val q i.val 0x01 e → (before = [] → signalFits (waitCore k w) w) →
        ∃ t, exec (.sync c q i) s = .next t ∧ SyncGives s t c.val q before e after (waitCore k w)) ∧
      (∀ h g, IssueAt s c.val q i.val 0x02 e → bodyOf w = .cwait h g →
        (countOf s c.val h).poison = none → g.toNat ≤ (countOf s c.val h).n.toNat →
        (before = [] → signalFits (waitCore k w) w) →
        ∃ t, exec (.cwait c q i) s = .next t ∧ SyncGives s t c.val q before e after (waitCore k w)) ∧
      (∀ h, IssueAt s c.val q i.val 0x03 e → bodyOf w = .creset h → countHeld s c.val (handleIndex h) = false →
        (before = [] → signalFits (waitCore k w) w) →
        ∃ t, exec (.creset c q i) s = .next t ∧
          SyncGives s t c.val q before e after ((waitCore k w).setCc (handleIndex h) ⟨0, none, false⟩)) ∧
      (∀ r v, IssueAt s c.val q i.val 0x04 e → bodyOf w = .carm r v → counterHeld s c.val r.toNat = false →
        (before = [] → signalFits (waitCore (k.setCtr r.toNat ⟨v, v, none⟩) w) w) →
        ∃ t, exec (.carm c q i) s = .next t ∧
          SyncGives s t c.val q before e after (waitCore (k.setCtr r.toNat ⟨v, v, none⟩) w))) ∧
  (∀ (c : Fin 32) (q : Q) (i : Fin 16) (e : Ent) (p : Machine.Class) (s : State),
      candidate s c.val q i.val 0x01 = some e → waitOf (coreOf s c.val) e.word = .poisoned p →
      exec (.sync c q i) s = .next (haltWait c.val q e.sn cABANDONED p s))

/-- COPY issues, reads its last byte and completes (R50, R58, R62, R95, R97, R233). Granted a Barrow with room,
with its locks free and its checks passed, it is in flight there. The Barrow reads one copy at a time, the first
that it holds with bytes to read: that one takes the bytes and the metadata of its source, a remote copy's flits are
sent, and a source at HALT is waited for (that a copy reads with its last byte is the model's choice,
assumption 73). Its read lock goes with the last byte. A remote copy ends once it is acknowledged, and leaves the
Barrow. -/
def Obligations.CopyCompletes : Prop :=
  ∀ (c : Fin 32) (q : Q) (i : Fin 16) (e : Ent) (f : CopyF) (b : Fin 4) (s : State),
    let k := coreOf s c.val
    let held := tabGet [] k.barrows b.val
    let waiting : Copy := ⟨q, e.sn, freeSlot held, f, k.dsc f.sDesc, false, [], ⟨false, 1, 0, []⟩, false,
      srcCsum k f, k.dsc f.dDesc, false⟩
    let fetched (x : Copy) (r : SrcRead) : Copy :=
      { x with fetched := true, data := r.data, units := r.units, srcNf := r.nf }
    (IssueAt s c.val q i.val 0x10 e → bodyOf e.word = .copy f → barrowFor k f = some b.val →
      granted s c.val q (.barrow b.val) = true → locksFree k q e.sn (.copy f) = true → copyCheck s c.val f = none →
      ∃ t, exec (.copy c q i) s = .next t ∧
        IssueGives s t c.val q e (locksOf (.copy f)) (copyDescs f) (fun k =>
          { grantCore q (.barrow b.val) k with barrows := tabMod [] k.barrows b.val (fun l => l ++ [waiting]) }) ∧
        Keeps [.cores, .regs] s t) ∧
    (∀ x : Copy, held.find? (fun y => !y.readDone) = some x →
      let reads (t : State) : Prop :=
        ((coreOf t c.val).queue x.q).live = ((k.queue x.q).live.map (fun y =>
          if y.sn = x.sn then { y with locks := y.locks.filter (fun l => l.wr) } else y)) ∧ CoresKeep c.val s t
      (x.fetched = true →
        ∃ t, exec (.copyLastByteRead c b) s = .next t ∧ reads t ∧
          tabGet [] (coreOf t c.val).barrows b.val =
            held.map (fun y => if y.q = x.q ∧ y.sn = x.sn then { y with readDone := true } else y) ∧
          Keeps [.cores] s t) ∧
      (x.fetched = false → srcTouches (atHalt s) x.sdesc x.f = true →
        exec (.copyLastByteRead c b) s = .next s) ∧
      (x.fetched = false → srcTouches (atHalt s) x.sdesc x.f = false → srcTouches (inTest s) x.sdesc x.f = false →
        x.f.dstk ≠ 2 → x.sdesc = k.dsc x.f.sDesc → SourceWell s c.val x.f →
        let r : SrcRead := ⟨memRead s (sourceAt s c.val x.f) x.f.bytes, sourceMeta s c.val x.f, sourceNf s c.val x.f⟩
        ∃ t, exec (.copyLastByteRead c b) s = .next t ∧ reads t ∧
          tabGet [] (coreOf t c.val).barrows b.val = held.map (fun y =>
            if y.q = x.q ∧ y.sn = x.sn then { fetched x r with readDone := true } else y) ∧
          (∀ a, memByte t a = memByte s a) ∧ Keeps [.cores, .regs, .mem, .log] s t) ∧
      (x.fetched = false → srcTouches (atHalt s) x.sdesc x.f = false → srcTouches (inTest s) x.sdesc x.f = false →
        x.f.dstk = 2 → x.sdesc = k.dsc x.f.sDesc → SourceWell s c.val x.f →
        let r : SrcRead := ⟨memRead s (sourceAt s c.val x.f) x.f.bytes, sourceMeta s c.val x.f, sourceNf s c.val x.f⟩
        ∃ u, tabGet [] (coreOf u c.val).barrows b.val = held.map (fun y => if y.q = x.q ∧ y.sn = x.sn then fetched x r else y) ∧
          ((coreOf u c.val).queue x.q).live = (k.queue x.q).live ∧ CoresKeep c.val s u ∧
          (∀ a, memByte u a = memByte s a) ∧ Keeps [.cores, .regs, .mem, .log] s u ∧
          (let sent := copySend c.val x.q x.sn x.f x.csum b.val x.slot r u
           readingCopy sent c.val b.val = some (fetched x r) →
             exec (.copyLastByteRead c b) s = .next (copyReadDone c.val b.val (fetched x r) sent)))) ∧
    (∀ (j : Nat) (x : Copy), held[j]? = some x → x.readDone = true → x.f.dstk = 2 →
      copyUnacked s c.val x.q x.sn = false →
      ∃ u, exec (.copyComplete c b j) s = .next (complete c.val x.q x.sn u) ∧ CopyLeaves s u c.val b.val x ∧
        CoresKeep c.val s u ∧ Keeps [.cores, .regs] s u)

/-- COPY_COMPLETE delivers a local copy (R62, R97, R179, R193, R236, R237, R240). The bytes that its operation
makes of the old and the new ones stand at its destination, metadata words aside no other byte differs, a
tensor's descriptor takes the copy's flag and its count goes up by one, scale registers take the block's
exponents and tag, and the copy leaves its Barrow and completes. A destination at HALT is waited for. That a scale block
is checked and loaded as the copy completes is the model's choice (assumption 48). -/
def Obligations.CopyDeliveries : Prop :=
  ∀ (c : Fin 32) (b : Fin 4) (j : Nat) (x : Copy) (s : State),
    let k := coreOf s c.val
    let f := x.f
    let d := x.ddesc
    let n := x.data.length
    let made (a : Nat) : List Byte := (combine f.op.toNat (memRead s a n) x.data).1
    let ends (u : State) : Prop := exec (.copyComplete c b j) s = .next (complete c.val x.q x.sn u) ∧
      CopyLeaves s u c.val b.val x
    (tabGet [] k.barrows b.val)[j]? = some x → x.readDone = true → (x.csum = true → srcVerified x = true) →
    n = f.bytes →
    (f.dstk = 0 →
      let a := mangerBase c.val + f.dOff
      (combines f.op.toNat = true → ReadsWell s a n) →
      ∃ u, ends u ∧ memRead u a n = made a ∧ BytesKeep a n s u ∧ CoresKeep c.val s u ∧
        Keeps [.cores, .regs, .mem, .log] s u) ∧
    (f.dstk = 1 →
      let bb := blockBytes (dFMT d)
      let nb := ceilDiv n bb
      let a := dBASE d + f.dFirst * bb
      let m := dMETA d + 8 * f.dFirst
      let h := dCCOUNT d
      let v := k.cc (handleIndex h)
      (dstTouches (atHalt s) d f = true → exec (.copyComplete c b j) s = .next s) ∧
      (dstTouches (atHalt s) d f = false → dstTouches (inTest s) d f = false → overlap a n m (8 * nb) = false →
        (combines f.op.toNat = true → ReadsWell s a n ∧ ReadsWell s m (8 * nb)) →
        (combines f.op.toNat = false → n % bb ≠ 0 → ReadsWell s (m + 8 * (nb - 1)) 8) →
        (combines f.op.toNat = true → dCSUM d = 1 → ∀ i, i < nb →
          blockGood s d (f.dFirst + i) (blockData s d (f.dFirst + i)) = true) →
        ∃ u, ends u ∧ memRead u a n = made a ∧
          (∀ y, ¬ (a ≤ y ∧ y < a + n) → ¬ (m ≤ y ∧ y < m + 8 * nb) → memByte u y = memByte s y) ∧
          (handleHolder h = 0 → v.poison = none → v.n ≠ 0xFFFFFFFF →
            (coreOf u c.val).cc (handleIndex h) = { v with n := v.n + 1 } ∧ CoresKeep c.val s u) ∧
          (x.srcNf = true → dNF ((coreOf u c.val).dsc f.dDesc) = true))) ∧
    (f.dstk = 3 → scaleBlockOk f.scCol x.data = true →
      ∃ u, ends u ∧
        (let st := (coreOf u c.val).stall f.scStall
         let tag := BitVec.ofNat 16 (leNat ((x.data.drop 128).take 2))
         (∀ i, i < 128 → tabGet 0 (if f.scCol then st.colScale else st.rowScale) i = x.data.getD i 0) ∧
         (if f.scCol then st.colTag = tag else st.rowTag = tag) ∧
         (∀ m, m ≠ f.scStall → (coreOf u c.val).stall m = k.stall m)) ∧
        CoresKeep c.val s u ∧ Keeps [.cores, .regs] s u)

/-- TMUL issues to the stall that is granted to it, its last k-step enters the edge, and its tile drains (R50, R54,
R59, R103, R106, R128, R139). The tile stands in the stall's accumulator with its bytes of A and B multiplied in; a
SINGLE or CLOSE tile moves to the draining accumulators, and an OPEN or CONT completes; a drain whose tags match
writes C and nothing else of memory. -/
def Obligations.TileMultiplyCompletes : Prop :=
  ∀ (c : Fin 32) (q : Q) (i : Fin 16) (e : Ent) (f : TmulF) (m : Fin 8) (s : State),
    let k := coreOf s c.val
    let st := k.stall m.val
    let len := 128 * f.k.toNat
    let aAt := mangerBase c.val + opnd f.a
    let bAt := mangerBase c.val + opnd f.b
    let old := if f.chain.toNat ≤ 1 then none else st.act
    (IssueAt s c.val q i.val 0x20 e → bodyOf e.word = .tmul f →
      tmulChainFault (chainView (k.queue q) e.sn) f = none → tmulStall k q e.sn f = some m.val →
      tmulRangeFault f = none → locksFree k q e.sn (.tmul f) = true → granted s c.val q (.stall m.val) = true →
      ReadsWell s aAt len → ReadsWell s bAt len →
      ∃ t, exec (.tmul c q i) s = .next t ∧
        IssueGives s t c.val q e (tmulLocks st f).1 [] (fun k => (grantCore q (.stall m.val) k).setStall m.val { st with
          act := some (tileAfter s c.val q e.sn f old (memRead s aAt len) (memRead s bAt len)),
          busy := true, chainOpen := decide (f.chain = 1 ∨ f.chain = 2), cLock := (tmulLocks st f).2, mode := f.mode }) ∧
        (∀ a, memByte t a = memByte s a) ∧ Keeps [.cores, .regs, .mem, .log] s t) ∧
    (∀ x : Tile, st.act = some x → st.busy = true → (x.f.chain = 1 ∨ x.f.chain = 2) →
      ∃ t1, exec (.tmulEdgeDone c m) s = .next (complete c.val x.q x.sn t1) ∧
        (coreOf t1 c.val).stall m.val = { st with busy := false, act := if st.chainOpen then st.act else none } ∧
        CoresKeep c.val s t1 ∧ Keeps [.cores] s t1) ∧
    (∀ x : Tile, st.act = some x → st.busy = true → (x.f.chain = 0 ∨ x.f.chain = 3) →
      ∃ t, exec (.tmulEdgeDone c m) s = .next t ∧
        (coreOf t c.val).stall m.val = { st with busy := false, act := none, drains := st.drains ++ [x] } ∧
        ((coreOf t c.val).queue x.q).live = (k.queue x.q).live.map (fun y =>
          if y.sn = x.sn then { y with locks := y.locks.filter (fun l => l.wr) } else y) ∧
        CoresKeep c.val s t ∧ Keeps [.cores] s t) ∧
    (∀ (x : Tile) (l : List Tile), st.drains = x :: l → tagsMatch st x = true →
      ∃ t1, exec (.tmulDrain c m) s = .next (complete c.val x.q x.sn t1) ∧
        (coreOf t1 c.val).stall m.val = { st with drains := l } ∧
        BytesKeep (mangerBase c.val + opnd x.f.c) (unelems x.f.fmtc.toNat ((drainTile st x).map (fun y => y.code))).length s t1 ∧
        (∀ p, p < (unelems x.f.fmtc.toNat ((drainTile st x).map (fun y => y.code))).length →
          memByte t1 (mangerBase c.val + opnd x.f.c + p) =
            (unelems x.f.fmtc.toNat ((drainTile st x).map (fun y => y.code))).getD p 0) ∧
        CoresKeep c.val s t1 ∧ Keeps [.cores, .regs, .mem, .log] s t1)

/-- TRG joins the Trough chain of its queue, and a chain starts and completes (R50, R61, R203, R204, R208, R211,
R212). A closed chain starts with the accumulators as they stand, one that reads them back once nothing
older taps; a started chain whose streams meet no fault, once nothing older taps where it taps, has its
effects, leaves the Trough, and every member completes. RFLUSH issues when the reduction unit is granted to
it and its slot is empty, and takes effect once nothing older taps (R111, R112, R213): with POST it posts
the summary of its selection to its slot, with CLEAR it empties the queue's accumulators. -/
def Obligations.TroughAndReductionComplete : Prop :=
  (∀ (c : Fin 32) (q : Q) (i : Fin 16) (e : Ent) (f : TrgF) (s : State),
      let k := coreOf s c.val
      let tapsLeft (ch : Chain) : Bool := olderLeft (k.queue ch.q) (chainSn ch) (fun w => isTap w || opOf w == 0x40)
      (IssueAt s c.val q i.val 0x30 e → bodyOf e.word = .trg f → troughFree k q = true →
        olderTrg (k.queue q) e.sn = false → xFirst k q e.sn = .go → trgChainFault q (priorOf k q) f = none →
        locksFree k q e.sn (.trg f) = true → granted s c.val q .trough = true → trgCheck k f = none →
        ∃ t, exec (.trg c q i) s = .next t ∧
          IssueGives s t c.val q e (locksOf (.trg f)) (if f.op.toNat = 0x11 then [f.barg.toNat] else [])
            (fun k => memberJoin (grantCore q .trough k) q ⟨e.sn, f, k.dsc f.barg.toNat⟩) ∧
          Keeps [.cores, .regs] s t) ∧
      (∀ ch : Chain, k.chains.find? (fun y => y.started.isNone) = some ch → ch.closed = true →
        (chainReads ch = true → tapsLeft ch = false) →
        ∃ t, exec (.troughChainStart c) s = .next t ∧
          (coreOf t c.val).chains = k.chains.map (fun y =>
            if y.q = ch.q ∧ chainSn y = chainSn ch then { y with started := some (k.redSet ch.q) } else y) ∧
          CoresKeep c.val s t ∧ Keeps [.cores] s t) ∧
      (∀ (j : Nat) (ch : Chain) (r : RedSet), k.chains[j]? = some ch → ch.started = some r →
        (ch.members.any (fun y => tapsOf y.f != []) = true → tapsLeft ch = false) → chainFault s c.val ch.members = none →
        let outs := chainRun s c.val r [] ch.members
        let groups := ((ch.members.head?).map (fun y => y.f.count.toNat + 1)).getD 0
        ∃ t1, exec (.troughChainComplete c j) s = .next (ch.members.foldl (fun s y => complete c.val ch.q y.sn s) t1) ∧
          (coreOf t1 c.val).chains = k.chains.filter (fun y => decide (¬ (y.q = ch.q ∧ chainSn y = chainSn ch))) ∧
          (coreOf t1 c.val).redSet ch.q = outs.foldl (fun r o => tapMember r groups o) (k.redSet ch.q) ∧
          (∀ p, qNum p ≠ qNum ch.q → (coreOf t1 c.val).redSet p = k.redSet p) ∧
          reg64 t1 (oCore c.val + 0x8060) = (reg64 s (oCore c.val + 0x8060) + groups) % 2 ^ 64 ∧
          (∀ a, (∀ o ∈ outs, (o.m.f.d = 0 ∨ o.m.f.op.toNat = 0x10) → ¬ (mangerBase c.val + opnd o.m.f.dst ≤ a ∧
              a < mangerBase c.val + opnd o.m.f.dst + trgDstLen o.m.f)) → memByte t1 a = memByte s a) ∧
          CoresKeep c.val s t1 ∧ Keeps [.cores, .regs, .mem, .log] s t1)) ∧
  (∀ (c : Fin 32) (q : Q) (i : Fin 16) (e : Ent) (f : RflushF) (x : RflSt) (s : State),
      let k := coreOf s c.val
      let slot := x.f.slot.toNat
      (IssueAt s c.val q i.val 0x40 e → bodyOf e.word = .rflush f → (f.post = 1 → slotFree k f.slot.toNat = true) →
        granted s c.val q .reduction = true →
        ∃ t, exec (.rflush c q i) s = .next t ∧
          IssueGives s t c.val q e [] [] (fun k => { grantCore q .reduction k with rfl := k.rfl ++ [⟨q, e.sn, f⟩] }) ∧ Keeps [.cores, .regs] s t) ∧
      (k.rfl.find? (fun y => decide (y.q = q) && !olderLeft (k.queue q) y.sn (fun w => isTap w || opOf w == 0x40)) = some x →
        ∃ t1, exec (.rflushEffect c q) s = .next (complete c.val q x.sn t1) ∧
          (x.f.post = 1 → tabGet none (coreOf t1 c.val).slots slot = some (summary (k.redSet q) x.f.sel.toNat)) ∧
          (x.f.post ≠ 1 → (coreOf t1 c.val).slots = k.slots) ∧
          (coreOf t1 c.val).redSet q = (if x.f.clear = 1 then redReset else k.redSet q) ∧
          (∀ r, r ≠ q → (coreOf t1 c.val).redSet r = k.redSet r) ∧
          CoresKeep c.val s t1 ∧ Keeps [.cores] s t1))

/-- The four flushes and FLUSH_DONE complete (R72, R192, R205, R217, R218, R278). A served flush of a queue that
is halted, or of a stopped core, releases the queue's Trough chains and the chains it holds on stalls, and
keeps of the queue what is in flight outside them; with RUN at 0 the counters that the discarded signals
name are poisoned. A flushing queue with nothing in flight becomes idle. -/
def Obligations.FlushesComplete : Prop :=
  ∀ (c : Fin 32) (q : Q) (s : State),
    let k := coreOf s c.val
    let ctrl := oCore c.val + 0x004
    let gives (q : Q) (t : State) : Prop := ∃ t1,
      ((coreOf t1 c.val).queue q = { k.queue q with
        live := (k.queue q).live.filter (fun e => decide (e.st = .issued ∧ e.sn ∉ chainMembers k q)),
        mode := .flushing, chains := [] }) ∧
      (coreOf t1 c.val).chains = k.chains.filter (fun ch => decide (ch.q ≠ q)) ∧
      (∀ i, i < 8 → (coreOf t1 c.val).stall i = flushStall q (k.stall i) ∧
        (stallOpenFor k q i = true → rf t1 (oStall c.val i + 0x010) 3 1 = 1)) ∧
      (∀ r, r ≠ q → (coreOf t1 c.val).queue r = k.queue r) ∧ (coreOf t1 c.val).sync = k.sync ∧
      CoresKeep c.val s t1 ∧ Keeps [.cores, .regs, .log] s t1 ∧
      t = if rf s ctrl 0 1 = 0 then
          settle c.val (((k.queue q).live.filter (fun e => decide (e.st ≠ .failed))).foldl
            (fun u e => poisonSignal c.val .report u e.word) t1)
        else t1
    (HostServed s ctrl 8 → flushOk s c.val .F = true → ∃ t, exec (.flushF c) s = .next t ∧ gives .F t) ∧
    (HostServed s ctrl 9 → flushOk s c.val .B = true → ∃ t, exec (.flushB c) s = .next t ∧ gives .B t) ∧
    (HostServed s ctrl 10 → flushOk s c.val .W = true → ∃ t, exec (.flushW c) s = .next t ∧ gives .W t) ∧
    (HostServed s ctrl 11 → flushOk s c.val .X = true → ∃ t, exec (.flushX c) s = .next t ∧ gives .X t) ∧
    ((k.queue q).mode = .flushing → (k.queue q).inflight = [] →
      ∃ t, (coreOf t c.val).queue q = { k.queue q with live := [], mode := .normal, cls := .report, chains := [] } ∧
        (∀ r, r ≠ q → (coreOf t c.val).queue r = k.queue r) ∧ CoresKeep c.val s t ∧ Keeps [.cores] s t ∧
        exec (.flushDone c q) s = .next (if rf s ctrl 0 1 = 0 then
          settle c.val ((k.queue q).unissued.foldl (fun u e => poisonSignal c.val .report u e.word) t) else t))

/-- The RUN bits take a served write (R75, R432, R463): the bit reads what was written, a context whose bit is
set becomes active, where the PC of a stopped one is its entry point (the model's reading, assumption 84),
and nothing else changes. A context whose bit is 0 stops at its boundary: one that stands at a BAR gives its
wait back and leaves it, and the device epoch breaks where the primary context stops. The statistics of a
core and its sync unit complete (R73, R75, R197, R295). PEAK takes the locks in use, the conversion counts
go to zero, a hang is logged and raised, and SYNC_ARM arms one counter, or every counter and every
completion count, of a stopped core. -/
def Obligations.CoreControlCompletes : Prop :=
  (∀ (c : Fin 32) (x : Ctx) (v : Bool) (s : State),
      let ctrl := oCore c.val + 0x004
      let octl := oCore c.val + 0x060
      let st := (coreOf s c.val).ctx x
      let sets (v : CtxSt) : CtxSt := { v with active := true, entry := if v.active then v.entry else v.pc }
      (HostWrites s ctrl 0 1 (b2n v) → restRefuses s (rf s ctrl 0 1 == 1) v = false →
        ∃ t, exec (.coreRun c v) s = .next t ∧ FieldGives s t ctrl 0 1 (b2n v) [] ∧ Keeps [.regs] s t) ∧
      (HostWrites s octl 0 1 (b2n v) → restRefuses s (ctxRun s c.val .primary) v = false →
        ∃ t, exec (.ostlerRunP c v) s = .next t ∧ FieldGives s t octl 0 1 (b2n v) [] ∧
          (coreOf t c.val).ctxP = (if v then sets (coreOf s c.val).ctxP else (coreOf s c.val).ctxP) ∧
          (coreOf t c.val).ctxX = (coreOf s c.val).ctxX ∧ CoresKeep c.val s t ∧ Keeps [.cores, .regs] s t) ∧
      (HostWrites s octl 1 1 (b2n v) → restRefuses s (ctxRun s c.val .filler) v = false →
        ∃ t, exec (.ostlerRunX c v) s = .next t ∧ FieldGives s t octl 1 1 (b2n v) [] ∧
          (coreOf t c.val).ctxX = (if v then sets (coreOf s c.val).ctxX else (coreOf s c.val).ctxX) ∧
          (coreOf t c.val).ctxP = (coreOf s c.val).ctxP ∧ CoresKeep c.val s t ∧ Keeps [.cores, .regs] s t) ∧
      (st.active = true → ctxRun s c.val x = false → st.enq = none → st.dset = false →
        (st.bar = none ∨ st.bar = some .step) →
        ∃ t1, exec (.ostlerContextStopped c x) s = .next (if x = .primary then breakDevice .report t1 else t1) ∧
          coreOf t1 c.val = (coreOf s c.val).setCtx x { st with active := false } ∧
          CoresKeep c.val s t1 ∧ Keeps [.cores] s t1) ∧
      (st.active = true → ctxRun s c.val x = false → st.enq = none → st.dset = false →
        (st.bar = some .waiting ∨ st.bar = some .device) →
        ∃ t1, exec (.ostlerContextStopped c x) s = .next (if x = .primary then breakDevice .report t1 else t1) ∧
          coreOf t1 c.val = (let k := coreOf (giveBack c.val (ctxWord (coreOf s c.val) x) s) c.val
            k.setCtx x { st with active := false, bar := none }) ∧
          CoresKeep c.val s t1 ∧ Keeps [.cores] s t1) ∧
      (st.active = true → ctxRun s c.val x = false → st.enq = none → st.dset = false → st.bar = none →
        (x = .filler ∨ ∀ m, m < 32 → (coreOf s m).ctxP.bar ≠ some .device) →
        ∃ t, exec (.ostlerContextStopped c x) s = .next t ∧
          coreOf t c.val = (coreOf s c.val).setCtx x { st with active := false } ∧
          CoresKeep c.val s t ∧ Keeps [.cores] s t)) ∧
  (∀ (c : Fin 32) (ctr : Fin 256) (value : BitVec 12) (s : State),
      let k := coreOf s c.val
      let conv := oCore c.val + 0x8F00
      let arm := oCore c.val + 0x1_0400
      (HostServed s (oCore c.val + 0x040) 31 →
        ∃ t, exec (.lockPeakClr c) s = .next t ∧
          FieldGives s t (oCore c.val + 0x040) 16 11 (locksHeld k).length [] ∧ Keeps [.regs] s t) ∧
      (HostServed s conv 1 →
        ∃ t, exec (.convStatClear c) s = .next t ∧
          (∀ o ∈ [0x08, 0x0C, 0x10, 0x14, 0x18, 0x1C], regGet t (conv + o) = 0) ∧
          RegsKeep ([0x08, 0x0C, 0x10, 0x14, 0x18, 0x1C].map (fun o => conv + o)) s t ∧ Keeps [.regs] s t) ∧
      (rf s (oCore c.val + 0x044) 0 20 ≠ 0 → (∃ q, q ≠ Q.X ∧ qStateNum (k.queue q) = 1) →
        (∀ q, q ≠ Q.X → busyInflight k q = []) →
        ∃ t, exec (.streamHang c) s = .next t ∧ Logged s t cSTREAM_HANG .core c.val .report ∧
          FieldGives s t (oCore c.val + 0x050) 4 1 1 [] ∧
          (∀ m, coreOf t m = if m = c.val ∧ rf s (oCore c.val + 0x054) 4 1 = 1 then
            { k with events := k.events ||| 16 } else coreOf s m) ∧ Keeps [.cores, .regs, .log] s t) ∧
      (HostServed s arm 31 → coreRunAny s c.val = false →
        (∃ t, exec (.syncArm c ctr value false) s = .next t ∧
          coreOf t c.val = k.setCtr ctr.val ⟨value, value, none⟩ ∧ CoresKeep c.val s t ∧ RegsKeep [arm] s t ∧
          Keeps [.cores, .regs] s t) ∧
        (∃ t, exec (.syncArm c ctr value true) s = .next t ∧
          (∀ i, i < 256 → (coreOf t c.val).ctr i = ⟨value, value, none⟩) ∧
          (∀ i, i < 512 → (coreOf t c.val).cc i = ⟨0, none, false⟩) ∧ CoresKeep c.val s t ∧ RegsKeep [arm] s t ∧
          Keeps [.cores, .regs] s t)))

/-- The device epoch and the step-end epoch close (R283). Where every core has joined and every signal fits,
each primary context proceeds past its BAR; a device epoch advances the epoch number of every core, and
templates run after it; the coordinator gathers joins, and the last one closes the epoch on every device,
unless a restart-class event has broken it: a broken epoch neither closes nor lets its contexts proceed
(R284). STEP_COMMIT completes (R18, R19, R23, R186, R283, R294). Once the paddock epoch has closed and every
hitch of the device is DONE, the step goes up by one, the cursor by the step's samples, every device epoch
number to zero, and every descriptor takes its step update; a commit that carries no cut changes nothing
else. -/
def Obligations.EpochsCloseAndStepsCommit : Prop :=
  (∀ (s : State),
      let past (t : State) : Prop := ∀ n, n < 32 →
        let w := ctxWord (coreOf s n) .primary
        let k := signalCore (coreOf s n) w
        coreOf t n = k.setCtx .primary { k.ctxP with pc := k.ctxP.pc + 1, enq := none, bar := none, dset := false }
      let fits : Prop := ∀ n, n < 32 → signalFits (coreOf s n) (ctxWord (coreOf s n) .primary)
      (allJoined s .device = true → fits →
        ∃ u, exec .deviceEpochClose s = .next (templatesRun u) ∧ past u ∧
          (∀ n, n < 32 → regGet u (oCore n + 0x1_0460) = regGet s (oCore n + 0x1_0460) + 1) ∧
          Keeps [.cores, .regs, .free, .log] s u) ∧
      (∀ sh st : Bool, epochBroken s = true → exec (.barrierCloseMsg sh st) s = .next s) ∧
      (∀ sh st : Bool, allJoined s .step = true → s.epoch.closed = none → epochBroken s = false → fits →
        ∃ t, exec (.barrierCloseMsg sh st) s = .next t ∧ past t ∧ t.epoch = { s.epoch with closed := some (sh, st) } ∧
          Keeps [.cores, .regs, .free, .log, .epoch] s t) ∧
      (∀ (rank interval : Nat) (req : Bool), ownRank s = 0 → rank < devices s → rank ∉ s.epoch.joined →
        ((setAdd s.epoch.joined rank).length < devices s ∨ epochBroken s = true →
          ∃ t, exec (.barrierJoinMsg rank req interval) s = .next t ∧
            t.epoch = { s.epoch with joined := setAdd s.epoch.joined rank, req := s.epoch.req || req, interval := min s.epoch.interval interval } ∧
            Keeps [.epoch] s t) ∧
        (devices s ≤ (setAdd s.epoch.joined rank).length → epochBroken s = false →
          ∃ sh st u, exec (.barrierJoinMsg rank req interval) s = .next (sendAll (.close sh st) u) ∧
            (sh = true → (s.epoch.req || req) = true ∧ rf s 0x4008 0 1 = 1) ∧ (st = true → rf s 0x4014 12 1 = 1) ∧
            u.epoch = { s.epoch with joined := [], req := false, interval := 255, sent := true } ∧
            Keeps [.free, .epoch] s u))) ∧
  (∀ (sh st : Bool) (s : State), s.epoch.closed = some (sh, st) → hitchCount s = 0 →
      ∃ t, exec .stepCommit s = .next t ∧
        reg64 t 0x0010 = (reg64 s 0x0010 + 1) % 2 ^ 64 ∧
        reg64 t 0x0018 = (reg64 s 0x0018 + (batchOf s.job.batch (reg64 s 0x0010)).toNat) % 2 ^ 64 ∧
        (∀ n, n < 32 → regGet t (oCore n + 0x1_0460) = 0) ∧
        (∀ n, n < 32 → (coreOf t n).desc =
          ((coreOf s n).desc.map (fun e => (e.1, descStep e.2))).filter (fun e => decide (e.2 ≠ descReset))) ∧
        t.epoch = { s.epoch with closed := none, sent := false } ∧ t.job = { s.job with opened := [] } ∧
        (sh = false → st = false →
          RegsKeep ([0x0010, 0x0014, 0x0018, 0x001C] ++ (List.range 32).map (fun n => oCore n + 0x1_0460)) s t ∧
          Keeps [.regs, .cores, .epoch, .job] s t))

/-- HITCH_OPEN and HITCH_STAGE complete (R285, R287, R292, R454). In their turn, an open hitch gets the next
number and its participants; an action that this device's state does not refuse goes to the end of its
rank's list, and so does one for another rank that takes it, which this device's state does not show (a free
value, assumption 24); each completes with OK and the number. HITCH_COMMIT, HITCH_ABORT and HITCH_QUERY
complete (R285, R288, R290, R292, R454, R455). In their turn, a commit of an open hitch with actions sends
PREPARE to its participants, where this device's rank is their lowest, and hands the hitch to the lowest
rank else; an open hitch aborts to DONE with cause 5, a preparing one by a decision sent to every
participant, or by the coordinator that it was handed to, on whose decision the abort waits; a query answers
the state and the cause. -/
def Obligations.HitchHostCommandsComplete : Prop :=
  (∀ (tag num : W16) (ranks : List Nat) (limit rank : Nat) (a : Action) (h : HitchC) (s b : State), CplReady b tag →
      (Begins 0x0001 tag (fun e => decide (entryField e 16 2 = ranks.length ∧ entryField e 18 2 = limit)) s b →
        ranks ≠ [] → ranks.Nodup → (∀ r ∈ ranks, r < devices s) → limit ≤ 1000 → (ownRank s ∈ ranks → hitchCount s < 4) →
        ∃ t, exec (.hitchOpen tag ranks limit) s = .next t ∧
          t.hitch.coord = s.hitch.coord.filter (fun x => decide (x.num ≠ s.hitch.next)) ++
            [⟨s.hitch.next, ranks, if limit = 0 then 100 else limit, [], .opened, 0, false, [], [], .host, none, []⟩] ∧
          t.hitch.next = s.hitch.next + 1 ∧ t.hitch.part = s.hitch.part ∧
          Completed b t tag cOK 0 s.hitch.next 0 ∧ Keeps [.hitch, .host, .regs2, .outbox] s t) ∧
      (Begins 0x0002 tag (fun e => decide (entryNum e = some num ∧ entryField e 10 2 = rank ∧ entryAction e = some a)) s b →
        coordOf s num = some h → h.st = .opened → h.src = .host → rank ∈ h.ranks → (actsOf h rank).length < 4096 →
        (∀ x ∈ actsOf h rank, objOf x ≠ objOf a) → actionKind a = true →
        let takes (t : State) : Prop := coordOf t num = some { h with acts := h.acts ++ [(rank, a)] } ∧
          t.hitch.part = s.hitch.part ∧ Completed b t tag cOK 0 num 0
        (rank = ownRank s → objTaken s (some num) (objOf a) = false →
          actionOk s (actsOf h rank) h.acts false a = true →
          ∃ t, exec (.hitchStage tag num rank a) s = .next t ∧ takes t ∧ Keeps [.hitch, .host, .regs2, .outbox] s t) ∧
        (rank ≠ ownRank s →
          ∃ t, exec (.hitchStage tag num rank a) s = .next t ∧ (othersTake s = true → takes t) ∧
            (othersTake s = false → t.hitch = s.hitch) ∧
            Keeps [.free, .hitch, .host, .regs, .regs2, .log, .outbox] s t))) ∧
  (∀ (tag num : W16) (h : HitchC) (s b : State), coordOf s num = some h →
      let begins (op : Nat) : Prop := Begins op tag (fun e => decide (entryNum e = some num)) s b
      (begins 0x0003 → h.st = .opened → h.acts ≠ [] →
        ∃ u, exec (.hitchCommit tag num) s = .next
            (if coordinates s h.ranks = true then
              h.ranks.foldl (fun u r => sendRank r (.prepare num h.limit h.acts) u) u
            else match h.ranks.min? with
              | some r => sendRank r (.hitch num h.limit h.ranks h.acts) u
              | none => u) ∧
          coordOf u num = some { h with tag := some tag, st := .preparing } ∧ Keeps [.hitch] b u) ∧
      (begins 0x0004 → h.st = .opened → CplReady b tag →
        ∃ t, exec (.hitchAbort tag num) s = .next t ∧ coordOf t num = some { h with st := .done, cause := 5 } ∧
          Completed b t tag cOK 0 num 0 ∧ Keeps [.hitch, .host, .regs2, .outbox] s t) ∧
      (begins 0x0004 → h.st = .aborted → CplReady b tag →
        ∃ t, exec (.hitchAbort tag num) s = .next t ∧ Completed b t tag cOK 0 num 0 ∧
          Keeps [.host, .regs2, .outbox] s t) ∧
      (begins 0x0004 → h.st = .preparing → coordinates s h.ranks = true →
        ∃ u, exec (.hitchAbort tag num) s = .next (h.ranks.foldl (fun u r => sendRank r (.decision num false) u) u) ∧
          coordOf u num = some { h with st := .aborted, cause := 5, timedOut := false, aborts := [] } ∧
          Logged s u cHITCH_ABORTED .global 0 .report ∧ Keeps [.hitch, .host, .regs, .regs2, .log, .outbox] s u) ∧
      (∀ r, begins 0x0004 → h.st = .preparing → h.ranks.min? = some r → r ≠ ownRank s →
        ∃ u, exec (.hitchAbort tag num) s = .next (sendRank r (.abort num) u) ∧
          coordOf u num = some { h with aborts := h.aborts ++ [tag] } ∧ Keeps [.hitch] b u) ∧
      (begins 0x0005 → CplReady b tag →
        ∃ t, exec (.hitchQuery tag num) s = .next t ∧ Completed b t tag cOK h.cause num h.st.code ∧
          Keeps [.host, .regs2, .outbox] s t))

/-- PREPARE and its outcome at the participant (R285, R287, R288, R289, R308, R327, R349, R352, R357). A PREPARE
of actions that nothing refuses is recorded and holds the ports of its lane actions; one of them that is
refused, by the state that the actions before it leave, brings a vote to abort with cause 1. A PREPARE of
this very device is a hitch handed over to it, which it coordinates (assumption 23). Once nothing it waits
for is left, rings that waited move and the vote goes to the coordinator: cause 2 for a ring that is not
confirmed, cause 3 for lanes that are not trained or too few, else READY, and an added lane counts as
trained. A participant applies, or returns to its previous state (R286, R289, R290, R291). A committed
decision applies every action, the lane sets together, the stream starts last, and acknowledges; an aborted
one, or none within its bound, undoes the preparation, and once every return is confirmed the ring words are
back and the objects free; a ring that failed its confirmation is then handled as a mislock (R357). One that
aborts on its own account acknowledges nothing. A decision is also what the record of a hitch handed over
follows (assumption 23). -/
def Obligations.HitchParticipantCompletes : Prop :=
  (∀ (num : W16) (coord limit : Nat) (all : List (Nat × Action)) (locks : List RingLock)
        (trained : List (Fin 24 × Fin 8)) (h : HitchP) (s : State),
      let acts := all.filterMap (fun x => if x.1 = ownRank s then some x.2 else none)
      let others := s.hitch.part.map (fun x => x.num) ++
        (s.hitch.coord.filter (fun x => decide (x.st ≠ .done ∧ x.num ≠ num ∧ ownRank s ∈ x.ranks))).map (fun x => x.num)
      (partOf s num = none → handedOver s num coord all = false → others.dedup.length < 4 → acts.length ≤ 4096 →
        (∀ a ∈ acts, objTaken s (some num) (objOf a) = false) → actsOk s acts all = true →
        ∃ t x, exec (.hitchPrepare num coord limit all) s = .next t ∧ partOf t num = some x ∧
          x.coord = coord ∧ x.limit = limit ∧ x.acts = acts ∧ x.st = .preparing ∧ x.lone = false ∧ x.bad = [] ∧
          (∀ p l, Action.laneAdd p l ∈ acts ∨ Action.laneRemove p l ∈ acts → num ∈ (portOf t p.val).held) ∧
          t.hitch.coord = s.hitch.coord ∧ Keeps [.hitch, .fab, .free, .regs] s t) ∧
      (partOf s num = none → handedOver s num coord all = false →
        (∃ a ∈ acts, objTaken s (some num) (objOf a) = true) ∨ actsOk s acts all = false →
        ∃ u x, exec (.hitchPrepare num coord limit all) s = .next (sendRank coord (.vote num 1) u) ∧
          partOf u num = some x ∧ x.acts = [] ∧ x.st = .voted ∧ Keeps [.hitch] s u) ∧
      (partOf s num = none → handedOver s num coord all = true →
        let ranks := (ownRank s :: all.map (fun x => x.1)).dedup
        ∃ u, exec (.hitchPrepare num coord limit all) s =
            .next (ranks.foldl (fun u r => sendRank r (.prepare num limit all) u) u) ∧
          u.hitch = { s.hitch with coord := s.hitch.coord ++
            [⟨num, ranks, limit, all, .preparing, 0, false, [], [], .host, none, []⟩] } ∧ Keeps [.hitch] s u) ∧
      (partOf s num = some h → h.st = .preparing → h.acts.any (ringWaits s) = false →
        let v := ringsGo h s
        let cause := if mislockFound v h.acts = true ∨ h.acts.all (ringConfirmed v locks) = false then 2
          else if lanesTrained v h trained = false then 3 else 0
        ∃ u x, exec (.hitchPrepared num ⟨locks, trained⟩) s = .next (sendRank h.coord (.vote num cause) u) ∧
          partOf u num = some x ∧ x.st = .voted ∧ x.acts = h.acts ∧
          x.bad = (h.acts.filter (fun a => !ringConfirmed v locks a)).filterMap retuneKey ∧
          ((∀ a ∈ h.acts, ∀ k, retuneKey a = some k → ∃ y ∈ h.saved, y.1 = k) → v = s ∧ x.saved = h.saved) ∧
          (∀ p l, cause = 0 → Action.laneAdd p l ∈ h.acts → l.val ∈ (portOf u p.val).trained) ∧
          (cause ≠ 0 → Keeps [.hitch] v u) ∧ Keeps [.hitch, .fab, .free, .regs] s u)) ∧
  (∀ (num : W16) (h : HitchP) (s : State), partOf s num = some h →
      (h.st = .voted →
        let s1 := lanesTake h.acts s ((h.acts.filter (fun a => !isStart a)).foldl applyOne s)
        let edited := h.acts.filterMap (fun a => match a with
          | .routeEdit p e _ => if p = 0xFFFF then some e else none
          | _ => none)
        exec (.hitchCommitted num) s = .next (sendRank h.coord (.ack num) (coordFollow num .committed (partPut { h with st := .applied }
          ((h.acts.filter isStart).foldl applyOne (resendEdited edited s1)))))) ∧
      (∀ (p : W16) (e : Nat) (v : W32) (x j : Nat),
        let q := if p = 0xFFFF then 24 else p.toNat
        rtEntry (applyOne s (.routeEdit p e v)) q e = (v &&& 0xBFFFFFFF#32).toNat ∧
          (x * 16384 + j ≠ q * 16384 + e → rtEntry (applyOne s (.routeEdit p e v)) x j = rtEntry s x j)) ∧
      (h.st = .preparing ∨ h.st = .voted →
        (∃ t, exec (.hitchAborted num) s = .next t ∧ partOf t num = some { h with st := .undoing, lone := false } ∧
          (coordOf s num = none → Keeps [.hitch, .fab] s t) ∧ Keeps [.hitch, .fab, .free, .host, .regs2, .outbox] s t) ∧
        (∃ t, exec (.hitchDecisionTimeout num) s = .next t ∧ partOf t num = some { h with st := .undoing, lone := true } ∧
          (Config.freeNat s.free % 2 = 0 → Keeps [.hitch, .fab, .free] s t) ∧
          Keeps [.hitch, .fab, .free, .host, .regs, .regs2, .log, .outbox] s t)) ∧
      (h.st = .undoing →
        ∃ u, (let v := h.bad.foldl (fun v x => mislock (x / 32) (x % 32) v) u
            exec (.hitchUndoDone num) s = .next (reopen h (if h.lone then v else sendRank h.coord (.ack num) v))) ∧
          ((h.saved.map (fun x => x.1)).Nodup → ∀ x ∈ h.saved, regGet u (oRing (x.1 / 32) (x.1 % 32)) = x.2) ∧
          RegsKeep (h.saved.map (fun x => oRing (x.1 / 32) (x.1 % 32))) s u ∧ Keeps [.regs] s u))

/-- The coordinator decides (R285, R288, R290, R292). The last READY of every participant commits; any other vote, or the
prepare limit, aborts with a logged status; either decision goes to every participant, and host aborts that waited for
it complete. The record of a hitch that another device coordinates follows what it hears, and no limit of its own
ends it (assumption 23). -/
def Obligations.HitchCoordinatorDecides : Prop :=
  ∀ (num : W16) (rank : Nat) (cause : Fin 8) (h : HitchC) (s : State), coordOf s num = some h → h.st = .preparing →
    (rank ∈ h.ranks → cause = 0 → (∃ r ∈ h.ranks, r ∉ setAdd h.votes rank) →
      ∃ t, exec (.hitchVote num rank cause) s = .next t ∧ coordOf t num = some { h with votes := setAdd h.votes rank } ∧
        Keeps [.hitch] s t) ∧
    (rank ∈ h.ranks → cause = 0 → (∀ r ∈ h.ranks, r ∈ setAdd h.votes rank) →
      ∃ u, exec (.hitchVote num rank cause) s = .next
          (if coordinates s h.ranks = true then h.ranks.foldl (fun u r => sendRank r (.decision num true) u) u else u) ∧
        coordOf u num = some { h with votes := setAdd h.votes rank, st := .committed, aborts := [] } ∧
        (h.aborts = [] → Keeps [.hitch] s u) ∧ Keeps [.hitch, .host, .regs, .regs2, .log, .outbox] s u) ∧
    (rank ∈ h.ranks → cause ≠ 0 → coordinates s h.ranks = true →
      ∃ u, exec (.hitchVote num rank cause) s = .next (h.ranks.foldl (fun u r => sendRank r (.decision num false) u) u) ∧
        coordOf u num = some { h with st := .aborted, cause := cause.val, timedOut := false, aborts := [] } ∧
        Logged s u cHITCH_ABORTED .global 0 .report ∧ Keeps [.hitch, .host, .regs, .regs2, .log, .outbox] s u) ∧
    (rank ∈ h.ranks → cause ≠ 0 → coordinates s h.ranks = false →
      ∃ t, exec (.hitchVote num rank cause) s = .next t ∧
        coordOf t num = some { h with st := .aborted, cause := cause.val, timedOut := decide (cause = 4), aborts := [] } ∧
        (h.aborts = [] → Keeps [.hitch] s t) ∧ Keeps [.hitch, .host, .regs2, .outbox] s t) ∧
    (coordinates s h.ranks = true →
      ∃ u, exec (.hitchPrepareTimeout num) s = .next (h.ranks.foldl (fun u r => sendRank r (.decision num false) u) u) ∧
        coordOf u num = some { h with st := .aborted, cause := 4, timedOut := true, aborts := [] } ∧
        Logged s u cHITCH_TIMEOUT .global 0 .report ∧ Keeps [.hitch, .host, .regs, .regs2, .log, .outbox] s u) ∧
    (coordinates s h.ranks = false → exec (.hitchPrepareTimeout num) s = .next s)

/-- A hitch ends (R289, R290, R292, R308, R309). The last acknowledgement brings the coordinator's record to DONE,
after a release to every participant if it was committed, and lane adds that waited are staged; a released
participant drops its record and reopens the ports that no other hitch holds (R289). -/
def Obligations.HitchEnds : Prop :=
  ∀ (num : W16) (rank : Nat) (h : HitchC) (g : HitchP) (s : State),
    (coordOf s num = some h → h.st = .committed ∨ h.st = .aborted → rank ∈ h.ranks →
      (∃ r ∈ h.ranks, r ∉ setAdd h.acks rank) →
      ∃ t, exec (.hitchAck num rank) s = .next t ∧ coordOf t num = some { h with acks := setAdd h.acks rank } ∧
        Keeps [.hitch] s t) ∧
    (coordOf s num = some h → h.st = .aborted → rank ∈ h.ranks → (∀ r ∈ h.ranks, r ∈ setAdd h.acks rank) →
      ∃ u, exec (.hitchAck num rank) s = .next (laneAddRetry u) ∧
        coordOf u num = some { h with acks := setAdd h.acks rank, st := .done, tag := none, aborts := [] } ∧
        Keeps [.hitch, .host, .regs2, .outbox] s u) ∧
    (coordOf s num = some h → h.st = .committed → rank ∈ h.ranks → (∀ r ∈ h.ranks, r ∈ setAdd h.acks rank) →
      exec (.hitchAck num rank) s = .next (laneAddRetry (hitchDone { h with acks := setAdd h.acks rank }
        (if coordinates s h.ranks = true then h.ranks.foldl (fun u r => sendRank r (.release num) u) s else s)))) ∧
    (partOf s num = some g → g.st = .applied →
      ∃ u, exec (.hitchRelease num) s = .next (pumpAll ((lanePorts g.acts).foldl
          (fun u p => if portState u p = 2 then linkResend p u else u)
          (laneAddRetry (pumpAll (retryStuck (releaseHeld (swapsResume u))))))) ∧
        partOf u num = none ∧
        (∀ p l, Action.laneAdd p l ∈ g.acts ∨ Action.laneRemove p l ∈ g.acts → num ∉ (portOf u p.val).held) ∧
        (∀ p x, x ≠ num → (x ∈ (portOf u p).held ↔ x ∈ (portOf s p).held)) ∧
        (coordOf s num = none → Keeps [.hitch, .fab] s u) ∧ Keeps [.hitch, .fab, .host, .regs, .regs2, .log, .outbox] s u)

/-- GWAIT, GSIGNAL and GEND complete (R116, R252 to R254, R266). GWAIT takes its threshold from its count;
GSIGNAL adds one; GEND ends the section, goes back to ENTRY and loads the coefficients, and a cut of the
section freezes the Groom's state there. A GSIGNAL before the section's GSKIP faults. The coefficients of a
section (R228, R238, R244, R257). Where the table of the section in force lies in HBM, in no stack under
test and free of uncorrectable errors, loading it gives the Groom its 256 words; one in a stack at HALT is
waited for (R243). -/
def Obligations.GroomInstructionsComplete : Prop :=
  (∀ (k : Fin 8) (s : State),
      let g := groomOf s k.val
      let pc := groomPc s k.val + 1
      let cnt (h : BitVec 16) := tabGet gcntReset g.counts (handleIndex h)
      let put (h : BitVec 16) (v : CCount) := tabSet gcntReset g.counts (handleIndex h) v
      let o := oGroom k.val
      (∀ h v, GroomAt s k.val 0xC0 (.gwait h v) → (cnt h).poison = none → v.toNat ≤ (cnt h).n.toNat →
        ∃ t, exec (.gwait k) s = .next t ∧
          GroomGives s t k.val { g with counts := put h { cnt h with n := (cnt h).n - v } } pc []) ∧
      (∀ h, GroomAt s k.val 0xC3 (.gsignal h) → g.skipDone = true → (cnt h).poison = none → (cnt h).n ≠ 0xFFFFFFFF →
        ∃ t, exec (.gsignal k) s = .next t ∧
          GroomGives s t k.val { g with counts := put h { cnt h with n := (cnt h).n + 1 } } pc []) ∧
      (∀ h, GroomAt s k.val 0xC3 (.gsignal h) → g.skipDone = false →
        ∃ t, exec (.gsignal k) s = .next t ∧ GroomHalted s t k.val cSTATE_REFUSED .stop) ∧
      (GroomAt s k.val 0xC4 .gend → (∀ c, s.ckpt.cut = some c → c.step.toNat ≠ groomSection s k.val ∨ k.val ∈ c.frozen) →
        ∃ u, exec (.gend k) s = .next (coefLoad k.val u) ∧
          reg64 u (o + 0x018) = (groomSection s k.val + 1) % 2 ^ 64 ∧
          GroomGives s u k.val { g with skip := false, skipDone := false, ngop := 0 } (rf s (o + 0x010) 0 12)
            [o + 0x018, o + 0x01C]) ∧
      (∀ c, GroomAt s k.val 0xC4 .gend → s.ckpt.cut = some c → c.step.toNat = groomSection s k.val → k.val ∉ c.frozen →
        ∃ u, exec (.gend k) s = .next (coefLoad k.val u) ∧
          reg64 u (o + 0x018) = (groomSection s k.val + 1) % 2 ^ 64 ∧
          groomOf u k.val = { g with skip := false, skipDone := false, ngop := 0, cutWait := true } ∧
          FieldGives s u (o + 0x00C) 0 12 (rf s (o + 0x010) 0 12) [o + 0x018, o + 0x01C] ∧ GroomsKeep k.val s u ∧
          u.ckpt.cut = some { c with frozen := setAdd c.frozen k.val, groomDesc := tabSet [] c.groomDesc k.val g.desc } ∧
          Keeps [.grooms, .regs, .ckpt] s u)) ∧
  (∀ (k : Fin 8) (s : State),
      let g := groomOf s k.val
      let a := coefAddr s k.val
      let t := coefLoad k.val s
      regGet s (oGroom k.val + 0x038) ≠ 0 → a + 1024 ≤ hbmTop →
      (touchesHalt s a 1024 = true → groomOf t k.val = { g with loading := true } ∧ GroomsKeep k.val s t ∧
        Keeps [.grooms] s t) ∧
      (touchesHalt s a 1024 = false → touchesTest s a 1024 = false → ReadsWell s a 1024 →
        (∀ i, i < 256 → tabGet 0 (groomOf t k.val).coef i = BitVec.ofNat 32 (leNat (memRead s (a + 4 * i) 4))) ∧
        groomOf t k.val = { g with coef := (groomOf t k.val).coef, loading := false } ∧
        GroomsKeep k.val s t ∧ t.mem.bytes = s.mem.bytes ∧
        RegsKeep (accessRegs ++ [oGroom k.val + 0x070, oGroom k.val + 0x074]) s t ∧ Keeps [.grooms, .mem, .regs, .log] s t))

/-- The seven GOPs begin (R117, R253, R265, R266). A GOP of a section that is skipped ends at once; any other
one whose checks pass takes its descriptors as they stand, and its blocks follow, once no cut has yet to
read the Groom's state. A GOP before the section's GSKIP faults. GOP_DONE and REANCHOR_AGREE complete (R261,
R263, R267). A finished GOP goes on to the next index, and a REANCHOR that moves its anchor writes it to D0
and raises the event. Grooms that agree on the operand of a REANCHOR take it together; where their anchors
or bases differ all eight halt. -/
def Obligations.GroomOperationsComplete : Prop :=
  (∀ (k : Fin 8) (f : GopF) (s : State),
      let g := groomOf s k.val
      let ds := gopDescs g f
      GroomAt s k.val 0xC2 (.gop f) →
      ∀ p ∈ [(1, Instr.gopMom1 k), (2, Instr.gopMom2 k), (3, Instr.gopApply k), (4, Instr.gopDecay k),
        (5, Instr.gopSgd k), (6, Instr.gopReanchor k), (7, Instr.gopCast k)], f.op.toNat = p.1 →
      (g.skipDone = true → g.skip = true →
        ∃ t, exec p.2 s = .next t ∧
          GroomGives s t k.val { g with gop := none, ngop := g.ngop + 1 } (groomPc s k.val + 1) []) ∧
      (g.skipDone = true → g.skip = false → g.cutWait = false → gopCheck s k.val f = none →
        ∃ t, exec p.2 s = .next t ∧
          groomOf t k.val = { g with gop := some ⟨f, ds.getD 0 0, ds.getD 1 0, ds.getD 2 0, false, none⟩ } ∧
          GroomsKeep k.val s t ∧ Keeps [.grooms] s t) ∧
      (g.skipDone = true → g.skip = false → g.cutWait = true → exec p.2 s = .next s) ∧
      (g.skipDone = false → ∃ t, exec p.2 s = .next t ∧ GroomHalted s t k.val cSTATE_REFUSED .stop)) ∧
  (∀ (k : Fin 8) (st : GopSt) (s : State),
      let g := groomOf s k.val
      let gops (n : Nat) : Option GopSt := (groomOf s n).gop
      let atReanchor : Prop := ∀ n, n < 8 → ∃ x, gops n = some x ∧ x.f.op.toNat = 6 ∧ x.agreed = false ∧
        x.f.d0 = st.f.d0
      (g.gop = some st → gopFinished s k.val st = true → (st.f.op.toNat ≠ 6 ∨ gopStill st = true) →
        ∃ t, exec (.gopDone k) s = .next t ∧ groomOf t k.val = { g with gop := none, ngop := g.ngop + 1 } ∧
          FieldGives s t (oGroom k.val + 0x00C) 0 12 (groomPc s k.val + 1) [] ∧ GroomsKeep k.val s t ∧
          Keeps [.grooms, .regs, .exch] s t) ∧
      (∀ a, g.gop = some st → gopFinished s k.val st = true → st.f.op.toNat = 6 → st.anchor = some a → a ≠ dANCHOR st.d0 →
        ∃ t, exec (.gopDone k) s = .next t ∧
          (let d := dSet (tabGet descReset g.desc st.f.d0.toNat) 200 8 (ofSigned 8 a)
           groomOf t k.val = { g with gop := none, ngop := g.ngop + 1, desc := tabSet descReset g.desc st.f.d0.toNat d }) ∧
          rf t (oGroom k.val + 0x060) 3 1 = 1 ∧
          FieldGives s t (oGroom k.val + 0x00C) 0 12 (groomPc s k.val + 1) [oGroom k.val + 0x060] ∧
          GroomsKeep k.val s t ∧ Keeps [.grooms, .regs, .exch, .log] s t) ∧
      (gops 0 = some st → atReanchor →
        (∀ n x, n < 8 → gops n = some x → dBASE x.d0 = dBASE st.d0 ∧ dANCHOR x.d0 = dANCHOR st.d0) →
        ∃ t, exec .reanchorAgree s = .next t ∧
          (∀ n, n < 8 → groomOf t n = { groomOf s n with gop := (gops n).map (fun x => { x with agreed := true }) }) ∧
          (∀ n, 8 ≤ n → groomOf t n = groomOf s n) ∧ Keeps [.grooms] s t) ∧
      (gops 0 = some st → atReanchor →
        (∃ n x, n < 8 ∧ gops n = some x ∧ (dBASE x.d0 ≠ dBASE st.d0 ∨ dANCHOR x.d0 ≠ dANCHOR st.d0)) →
        ∃ t, exec .reanchorAgree s = .next t ∧
          (∀ n, n < 8 → (groomOf t n).halted = true ∧ (groomOf t n).gop = none ∧
            regGet t (oGroom n + 0x020) = BitVec.ofNat 32 (cANCHOR_SPLIT.toNat + groomPc s n * 2 ^ 16)) ∧
          t.mem = s.mem))

/-- The exchange of a block (R243, R251, R262 to R265, R269). A holder's report joins its partials, and the grains it
has read, to the block's record; the last one brings the keeper's verdict, where the keeper executes the
GOP too. A holder that learns OK writes its own grains with the results of the operation, and the last of
them the block's metadata; a failed verdict, once the blocks before are written, halts it with its code. -/
def Obligations.GroomExchangeCompletes : Prop :=
  ∀ (k : Fin 8) (b : Nat) (st : GopSt) (e : Exch) (s : State),
    let key := exchKey s k.val b
    let first := st.f.first.toNat
    let js := grainsAt st.d0 b k.val
    let addr (d : Dsc) (j : Nat) := blkAddr d b + 256 * j
    let word (d : Dsc) := dMETA d + 8 * b
    let keeper := keeperOf st.d0 b
    let reads := gopReads st
    let counts := [0x070, 0x074, 0x078, 0x07C].map (fun o => oGroom k.val + o)
    let all (l : List Nat) : Prop := ∀ h ∈ holdersOf st.d0 b, h ∈ l
    (groomOf s k.val).gop = some st → sameGop st e = true → first ≤ b →
    b < first + st.f.nblk.toNat →
    ((exchOf s key = some e ∨
        exchOf s key = none ∧ e = ⟨st.f, st.d0, st.d1, st.d2, [], 0, 0, 0, false, false, [], none, [], false⟩) →
      k.val ∈ holdersOf st.d0 b → k.val ∉ e.from_ → (st.f.op.toNat = 6 → st.agreed = true) → atHalt s k.val = false →
      ∃ t e', exec (.groomPartialMsg k b) s = .next t ∧ exchOf t key = some e' ∧
        e'.from_ = setAdd e.from_ k.val ∧ e'.wrote = e.wrote ∧
        (∀ p ∈ reads, dCSUM p.2 = 1 → [e'.part0, e'.part1, e'.part2].getD p.1 0 =
          [e.part0, e.part1, e.part2].getD p.1 0 ^^^
            partialOf (metaLo (metaRead s p.2 b)) (js.map (fun j => (j, memRead s (addr p.2 j) 256)))) ∧
        (∀ p ∈ reads, ∀ j ∈ js, tabGet [] e'.held (128 * p.1 + j) = memRead s (addr p.2 j) 256) ∧
        ((∀ p ∈ reads, ∀ j ∈ js, ReadsWell s (addr p.2 j) 256) → e'.ue = e.ue) ∧
        ((∃ p ∈ reads, ∃ j ∈ js, ¬ ReadsWell s (addr p.2 j) 256) → e'.ue = true) ∧
        (¬ all e'.from_ ∨ e.verdict ≠ none ∨ partner s k.val keeper st = false ∨ atHalt s keeper = true →
          e'.verdict = e.verdict) ∧
        (all e'.from_ → e.verdict = none → partner s k.val keeper st = true → atHalt s keeper = false →
          (∀ p ∈ wordsRead st, ReadsWell s (word p.2) 8) → e'.verdict = some (verdictOf s st e' false b)) ∧
        (∀ x, x ≠ key → exchOf t x = exchOf s x) ∧ t.mem.bytes = s.mem.bytes ∧
        (st.f.op.toNat ≠ 6 → t.grooms = s.grooms) ∧
        RegsKeep (accessRegs ++ counts) s t ∧ Keeps [.exch, .mem, .regs, .grooms, .log] s t) ∧
    (exchOf s key = some e → passedAll s st (exchKey s k.val 0) first (b - first) = true → e.verdict = some cOK →
      k.val ∈ holdersOf st.d0 b → k.val ∉ e.wrote → (st.f.op.toNat = 6 → st.anchor ≠ none) →
      atHalt s k.val = false → atHalt s keeper = false →
      let wrote (t : State) : Prop := (∃ e', exchOf t key = some e' ∧ e'.wrote = setAdd e.wrote k.val) ∧ t.grooms = s.grooms
      let last : Prop := all (setAdd e.wrote k.val) ∧ partner s k.val keeper st = true
      (gopStill st = true → ∃ t, exec (.groomVerdictMsg k b) s = .next t ∧ wrote t ∧ t.mem.bytes = s.mem.bytes ∧
        RegsKeep counts s t ∧ Keeps [.exch, .regs] s t) ∧
      (gopStill st = false → ¬ last →
        ∃ t, exec (.groomVerdictMsg k b) s = .next t ∧ wrote t ∧
          (∀ j ∈ js, memRead t (addr st.d0 j) 256 = (grainAfter s k.val st b j).1) ∧
          (∀ a, (∀ j ∈ js, ¬ (addr st.d0 j ≤ a ∧ a < addr st.d0 j + 256)) → memByte t a = memByte s a) ∧
          RegsKeep (accessRegs ++ counts) s t ∧ Keeps [.exch, .mem, .regs] s t) ∧
      (gopStill st = false → last → overlap (blkAddr st.d0 b) 32768 (word st.d0) 8 = false →
        let sat : Bool := e.sat || js.any (fun j => (grainAfter s k.val st b j).2)
        ∃ t check, exec (.groomVerdictMsg k b) s = .next t ∧ wrote t ∧
          (∀ j ∈ js, memRead t (addr st.d0 j) 256 = (grainAfter s k.val st b j).1) ∧
          metaRead t st.d0 b = metaWord (dTAG st.d0) sat false (dFMT st.d0) check ∧
          (dCSUM st.d0 = 1 → check = checkOf (memRead t (blkAddr st.d0 b) 32768)
            (metaLo (metaWord (dTAG st.d0) sat false (dFMT st.d0) 0))) ∧
          (∀ a, (∀ j ∈ js, ¬ (addr st.d0 j ≤ a ∧ a < addr st.d0 j + 256)) →
            ¬ (word st.d0 ≤ a ∧ a < word st.d0 + 8) → memByte t a = memByte s a) ∧
          RegsKeep (accessRegs ++ counts ++ [oGroom keeper + 0x060]) s t ∧ Keeps [.exch, .mem, .regs, .log] s t)) ∧
    (∀ v, exchOf s key = some e → passedAll s st (exchKey s k.val 0) first (b - first) = true → e.verdict = some v → v ≠ cOK →
      (st.f.op.toNat = 6 ∨ partDone s k.val st (b - first) = true) →
      ∃ t, exec (.groomVerdictMsg k b) s = .next t ∧ GroomHalted s t k.val v (faultClass false v) ∧
        t.mem = s.mem ∧ GroomsKeep k.val s t)

/-- RUN, the stop, the counts and the watchdog of a Groom complete (R254, R268, R270, R282, R432). RUN takes
what is written, and its rise makes the Groom active with its coefficients loaded; a Groom with RUN at 0
stops at its boundary; ZERO_COUNTS clears every count of a stopped Groom; a wait past the limit is reported
and goes on. -/
def Obligations.GroomServiceCommandsComplete : Prop :=
  ∀ (k : Fin 8) (v : Bool) (w : GroomWait) (s : State),
    let g := groomOf s k.val
    let ctrl := oGroom k.val + 0x004
    let run := groomRunBit s k.val
    let held : Bool := match w with
      | .gwait => gwaitHeld s k.val
      | .exchange => exchHeld s k.val
    (HostWrites s ctrl 0 1 (b2n v) → (v = false ∨ run = true) →
      ∃ t, exec (.groomRun k v) s = .next t ∧ FieldGives s t ctrl 0 1 (b2n v) [] ∧ Keeps [.regs] s t) ∧
    (HostWrites s ctrl 0 1 1 → v = true → run = false → tackNow s ≠ 3 →
      ∃ u, exec (.groomRun k v) s = .next (coefLoad k.val u) ∧ FieldGives s u ctrl 0 1 1 [] ∧
        groomOf u k.val = { g with active := true, halted := false } ∧ GroomsKeep k.val s u ∧
        Keeps [.grooms, .regs] s u) ∧
    (run = false → g.active = true → g.gop = none →
      ∃ t, exec (.groomStopped k) s = .next t ∧ groomOf t k.val = { g with active := false, loading := false } ∧
        GroomsKeep k.val s t ∧ RegsKeep [oGroom k.val + 0x080] s t ∧ Keeps [.grooms, .regs, .free] s t) ∧
    (HostServed s ctrl 1 → run = false →
      ∃ t, exec (.groomZeroCounts k) s = .next t ∧
        (∀ i, tabGet gcntReset (groomOf t k.val).counts i = ⟨0, none, false⟩) ∧
        groomOf t k.val = { g with counts := (groomOf t k.val).counts } ∧
        GroomsKeep k.val s t ∧ Keeps [.grooms] s t) ∧
    (held = true →
      rf s (oGroom k.val + 0x03C) 0 20 ≠ 0 →
      ∃ t, exec (.groomHang k w) s = .next t ∧ Logged s t cSTREAM_HANG .groom k.val .report ∧
        FieldGives s t (oGroom k.val + 0x060) 4 1 1 [] ∧ Keeps [.regs, .log] s t)

/-- LOFT_PARTITION_CHANGE and LOFT_PARTITION_DONE complete (R227, R229, R233). An accepted write stands in PART
with BUSY at 1; when it is done the dirty lines have been written back, every line is gone, the new size is
in force, scratch that the cache gave up reads zero, and the arrivals that waited go on. It waits while the
stack serves no grain. LOFT_FLUSH and LOFT_FLUSH_DONE complete (R248): an idle die begins a flush, with BUSY
at 1, and when it is done every dirty line has been written back and stays valid; a flush in progress goes
on, and waits while the stack is at HALT (R233). -/
def Obligations.LoftPartitionsAndFlushesComplete : Prop :=
  (∀ (d : Fin 8) (v : BitVec 5) (n : Nat) (s : State),
      let stat := oDie d.val + 0x008
      let old := cacheNow s d.val
      let top := loftBase d.val + loftSize
      (HostWrites s (oDie d.val + 0x004) 0 5 v.toNat → loftRefused s d.val v.toNat = false →
        ∃ t, exec (.loftPartitionChange d v) s = .next t ∧ loftOf t d.val = .change v.toNat ∧
          (∀ e, e ≠ d.val → loftOf t e = loftOf s e) ∧ rf t (oDie d.val + 0x004) 0 5 = v.toNat ∧
          FieldGives s t stat 8 1 1 [oDie d.val + 0x004] ∧ t.mem = { s.mem with loft := t.mem.loft } ∧
          Keeps [.mem, .regs] s t) ∧
      (loftOf s d.val = .change n → atHalt s d.val = true → exec (.loftPartitionDone d) s = .next s) ∧
      (loftOf s d.val = .change n → atHalt s d.val = false →
        ∃ t, exec (.loftPartitionDone d) s = .next (arrivalsGo t) ∧ loftOf t d.val = .idle ∧ cacheNow t d.val = n % 32 ∧
          rf t stat 8 1 = 0 ∧ WroteBack s t d.val ∧
          (∀ key, setKey d.val 0 ≤ key → key < setKey (d.val + 1) 0 → tabGet [] t.mem.cache key = []) ∧
          (∀ key, ¬ (setKey d.val 0 ≤ key ∧ key < setKey (d.val + 1) 0) →
            tabGet [] t.mem.cache key = tabGet [] s.mem.cache key) ∧
          (∀ a, memByte t a =
            if n < old ∧ top - old * 0x800_0000 ≤ a ∧ a < top - old * 0x800_0000 + (old - n) * 0x800_0000 then 0
            else memByte s a) ∧ Keeps [.mem, .regs, .log] s t)) ∧
  (∀ (d : Fin 8) (s : State),
      let stat := oDie d.val + 0x008
      (HostServed s (oDie d.val + 0x00C) 0 → loftOf s d.val = .idle →
        ∃ t, exec (.loftFlush d) s = .next t ∧ loftOf t d.val = .flush ∧ FieldGives s t stat 8 1 1 [] ∧
          t.mem = { s.mem with loft := t.mem.loft } ∧ Keeps [.mem, .regs] s t) ∧
      (HostServed s (oDie d.val + 0x00C) 0 → loftOf s d.val ≠ .idle → exec (.loftFlush d) s = .next s) ∧
      (loftOf s d.val = .flush → atHalt s d.val = true → exec (.loftFlushDone d) s = .next s) ∧
      (loftOf s d.val = .flush → atHalt s d.val = false →
        ∃ t, exec (.loftFlushDone d) s = .next t ∧ loftOf t d.val = .idle ∧ rf t stat 8 1 = 0 ∧
          WroteBack s t d.val ∧
          (∀ key, tabGet [] t.mem.cache key =
            if setKey d.val 0 ≤ key ∧ key < setKey (d.val + 1) 0 then
              (tabGet [] s.mem.cache key).map (fun l => { l with dirty := false })
            else tabGet [] s.mem.cache key) ∧
          t.mem = { s.mem with
            loft := t.mem.loft, cache := t.mem.cache, badHbm := t.mem.badHbm, poison := t.mem.poison, softHbm := t.mem.softHbm } ∧
          Keeps [.mem, .regs, .log] s t))

/-- HBM_MODE_WRITE, HBM_TEMP_SAMPLE and HBM_TEMP_PEAK_CLR complete (R242, R244, R247). A mode that is not
refused is requested and in force at once; a reading stands in NOW, raises PEAK, and sets the thermal level
with its hysteresis; the counts of slowed cycles go on; arrivals that waited for a stack at HALT go on when
it leaves that level (R243); the peak takes NOW. PATROL_SCRUB completes (R221, R228, R233, R238, R239, R244,
R389). Bits of memory that flip make a sector or a word correctable or uncorrectable. A scrub read that
corrects one counts it, raises the event, adds to the risk and leaves it good; an uncorrectable one is left
poisoned, counted and raised; a clean one counts no error. Every sector of the stack is read, also one whose
grain the cache holds (assumption 88). The scrubber of a stack stands still while SCRUB_EN is 0 or the stack
is in TEST or serves no grain; that of a Loft never does (assumption 100). -/
def Obligations.StacksAndScrubComplete : Prop :=
  (∀ (k : Fin 8) (mode : BitVec 2) (temp : Byte) (s : State),
      let ctrl := oHbm k.val + 0x004
      let stat := oHbm k.val + 0x008
      let o := oHbm k.val + 0x010
      let old := rf s stat 3 2
      let new := thermLevel s k.val old temp.toNat
      (HostWrites s ctrl 0 2 mode.toNat → hbmModeRefused s k.val mode.toNat = false →
        ∃ t, exec (.hbmModeWrite k mode) s = .next t ∧ FieldGives s t ctrl 0 2 mode.toNat [stat] ∧
          FieldGives s t stat 0 2 mode.toNat [ctrl] ∧ Keeps [.regs] s t) ∧
      (∃ t, exec (.hbmTempSample k temp) s = .next (if old = 3 ∧ new < 3 then arrivalsGo t else t) ∧
        rf t o 0 8 = temp.toNat ∧
        rf t o 8 8 = max (rf s o 8 8) temp.toNat ∧
        (∀ v, 1 ≤ v → v ≤ 3 → thermLimit s k.val v ≤ temp.toNat → v ≤ new ∧ (old < v → rf t (oHbm k.val + 0x020) (v + 1) 1 = 1)) ∧
        FieldGives s t stat 3 2 new [o, oHbm k.val + 0x020, oHbm k.val + 0x050, oDie k.val + 0x010, oDie k.val + 0x050] ∧
        Keeps [.regs, .free, .log] s t) ∧
      (HostServed s o 31 →
        ∃ t, exec (.hbmTempPeakClr k) s = .next t ∧ FieldGives s t o 8 8 (rf s o 0 8) [] ∧ Keeps [.regs] s t)) ∧
  (∀ (k : Fin 8) (i : Nat) (l : List Upset) (s : State),
      let x := sectorOf k.val i
      let o := oHbm k.val
      let w := loftBase k.val / 8 + i
      let die := oDie k.val
      let u := l.foldl (fun s y => upsetDo y s) s
      let hbm : Instr := .patrolScrub (.hbm k i) l
      let loft : Instr := .patrolScrub (.loft k i) l
      let en := rf u (o + 0x004) 2 1 = 1 ∧ inTest u k.val = false ∧ atHalt u k.val = false
      let reads (t : State) : Prop := reg64 t (o + 0x040) = (reg64 u (o + 0x040) + 1) % 2 ^ 64
      (i < 64 * 5242880 * 8 →
        (upsetDo ⟨.hbm k i, .corrected⟩ s).mem = { s.mem with softHbm := setAdd s.mem.softHbm x } ∧
        (upsetDo ⟨.hbm k i, .uncorrectable⟩ s).mem =
          { s.mem with softHbm := setDel s.mem.softHbm x, badHbm := setAdd s.mem.badHbm x }) ∧
      (i < loftSize / 8 →
        (upsetDo ⟨.loft k i, .corrected⟩ s).mem = { s.mem with softSram := setAdd s.mem.softSram w } ∧
        (upsetDo ⟨.loft k i, .uncorrectable⟩ s).mem =
          { s.mem with softSram := setDel s.mem.softSram w, badSram := setAdd s.mem.badSram w }) ∧
      (i < 64 * 5242880 * 8 → en →
        (x ∉ u.mem.badHbm → x ∈ u.mem.softHbm → u.mem.softHbm.Nodup →
          ∃ t, exec hbm s = .next t ∧ regGet t (o + 0x030) = regGet u (o + 0x030) + 1 ∧ rf t (o + 0x020) 0 1 = 1 ∧
            reads t ∧ t.log.terms = u.log.terms ++ [(16, 0)] ∧ t.mem.softHbm = setDel u.mem.softHbm x ∧ t.mem.bytes = u.mem.bytes ∧
            RegsKeep accessRegs u t ∧ Keeps [.regs, .mem, .log] u t) ∧
        (x ∈ u.mem.badHbm →
          ∃ t, exec hbm s = .next t ∧ regGet t (o + 0x034) = regGet u (o + 0x034) + 1 ∧ rf t (o + 0x020) 1 1 = 1 ∧
            t.mem.badHbm = setAdd u.mem.badHbm x ∧ t.mem.poison = setAdd u.mem.poison x ∧ t.mem.bytes = u.mem.bytes ∧
            reads t ∧ t.log.terms = u.log.terms ++ [(16384, 0)] ∧
            RegsKeep accessRegs u t ∧ Keeps [.regs, .mem, .log] u t) ∧
        (x ∉ u.mem.badHbm → x ∉ u.mem.softHbm →
          ∃ t, exec hbm s = .next t ∧ regGet t (o + 0x030) = regGet u (o + 0x030) ∧
            regGet t (o + 0x034) = regGet u (o + 0x034) ∧ reads t ∧ t.log = u.log ∧ t.mem.bytes = u.mem.bytes ∧
            t.mem.badHbm = u.mem.badHbm ∧ RegsKeep accessRegs u t ∧ Keeps [.regs, .mem] u t)) ∧
      (¬ en → exec hbm s = .next u) ∧
      (i < loftSize / 8 →
        (w ∉ u.mem.badSram → w ∈ u.mem.softSram → u.mem.softSram.Nodup →
          ∃ t, exec loft s = .next t ∧ regGet t (die + 0x020) = regGet u (die + 0x020) + 1 ∧ rf t (die + 0x010) 0 1 = 1 ∧
            t.log.terms = u.log.terms ++ [(8, 0)] ∧ t.mem = { u.mem with softSram := setDel u.mem.softSram w } ∧
            RegsKeep [die + 0x020, die + 0x010] u t ∧ Keeps [.regs, .mem, .log] u t) ∧
        (w ∈ u.mem.badSram →
          ∃ t, exec loft s = .next t ∧ regGet t (die + 0x024) = regGet u (die + 0x024) + 1 ∧ rf t (die + 0x010) 1 1 = 1 ∧
            t.mem = u.mem ∧
            RegsKeep [die + 0x024, die + 0x010] u t ∧ Keeps [.regs, .mem, .log] u t) ∧
        (w ∉ u.mem.badSram → w ∉ u.mem.softSram → exec loft s = .next u)))

/-- The traffic generators complete (R233, R244, R245, R247). START clears the selected generator's reports and
sets it busy, STOP marks it; a whole pass that writes gives every grain of the range its words and nothing
else, and a pass of reads that match counts no error; a loop goes on, and a stopped pass ends after some of its grains. -/
def Obligations.TrafficGeneratorsComplete : Prop :=
  ∀ (k : Fin 8) (pc : Fin 64) (s : State),
    let sel := tgSel s k.val
    let g := tgOf s k.val sel
    let h := tgOf s k.val pc.val
    let o := oHbm k.val
    let ends : TrafGen := if h.loop then { h with passes := h.passes + 1 }
      else { h with busy := false, stopping := false, done := true, passes := h.passes + 1 }
    let at_ (i : Nat) := hbmAddr k.val pc.val (h.base.toNat + i)
    let words (i : Nat) := (tgGrain h.pattern (h.base.toNat + i)
      ((fun x => (tgGrain h.pattern 0 x).1)^[i] h.seed.toNat)).2.flatMap (fun w => leBytes 4 w)
    let others (t : State) : Prop := ∀ a b, (a, b) ≠ (k.val, pc.val) → b < 64 → tgOf t a b = tgOf s a b
    let wrote (m : Nat) (t : State) : Prop := (∀ i, i < m → memRead t (at_ i) 256 = words i) ∧
      ∀ a, (∀ i, i < m → ¬ (at_ i ≤ a ∧ a < at_ i + 256)) → memByte t a = memByte s a
    (HostServed s (o + 0x104) 0 → tgRefused s k.val g = false →
      ∃ t, exec (.hbmTgStart k) s = .next t ∧
        (let r : TrafGen := ⟨g.op, g.pattern, g.loop, g.base, g.len, g.seed, true, false, false, false, 0, 0, 0, 0⟩
         t.mem = { s.mem with tg := tabSet tgReset s.mem.tg (k.val * 64 + sel) r }) ∧ Keeps [.mem] s t) ∧
    (HostServed s (o + 0x104) 1 → g.busy = true →
      ∃ t, exec (.hbmTgStop k) s = .next t ∧
        t.mem = { s.mem with tg := tabSet tgReset s.mem.tg (k.val * 64 + sel) { g with stopping := true } } ∧
        Keeps [.mem] s t) ∧
    (HostServed s (o + 0x104) 1 → g.busy = false → exec (.hbmTgStop k) s = .next s) ∧
    (h.busy = true → atHalt s k.val = true → exec (.hbmTgDone k pc) s = .next s) ∧
    (h.base.toNat + h.len.toNat ≤ 5242880 → h.busy = true → atHalt s k.val = false → h.stopping = false →
      ((h.op = 0 ∨ h.op = 2) →
        ∃ t, exec (.hbmTgDone k pc) s = .next t ∧ tgOf t k.val pc.val = ends ∧ others t ∧ wrote h.len.toNat t ∧
          reg64 t (o + 0x048) = (reg64 s (o + 0x048) + h.len.toNat) % 2 ^ 64 ∧
          reg64 t (o + 0x040) = (reg64 s (o + 0x040) + (if h.op = 2 then h.len.toNat else 0)) % 2 ^ 64 ∧
          (h.loop = false → rf t (o + 0x020) 5 1 = 1) ∧
          RegsKeep [o + 0x040, o + 0x044, o + 0x048, o + 0x04C, o + 0x020] s t ∧ Keeps [.mem, .regs, .log] s t) ∧
      (h.op = 1 → (∀ i, i < h.len.toNat → memRead s (at_ i) 256 = words i ∧ ReadsWell s (at_ i) 256) →
        ∃ t, exec (.hbmTgDone k pc) s = .next t ∧ tgOf t k.val pc.val = ends ∧ others t ∧
          t.mem.bytes = s.mem.bytes ∧ reg64 t (o + 0x040) = (reg64 s (o + 0x040) + h.len.toNat) % 2 ^ 64 ∧
          (h.loop = false → rf t (o + 0x020) 5 1 = 1) ∧ RegsKeep accessRegs s t ∧ Keeps [.mem, .regs, .log] s t)) ∧
    (h.base.toNat + h.len.toNat ≤ 5242880 → h.busy = true → atHalt s k.val = false → h.stopping = true → h.op = 0 →
      ∃ t m, m ≤ h.len.toNat ∧ exec (.hbmTgDone k pc) s = .next t ∧ wrote m t ∧ others t ∧
        tgOf t k.val pc.val = { h with busy := false, stopping := false, done := true, passes := if m = h.len.toNat then h.passes + 1 else h.passes } ∧
        rf t (o + 0x020) 5 1 = 1 ∧ RegsKeep [o + 0x048, o + 0x04C, o + 0x020] s t ∧ Keeps [.free, .mem, .regs, .log] s t)

/-- BLOCK_RECEIVE completes (R299, R301, R303, R304, R306, R307, R350). A whole block in sequence gives the port
its flits but the idle ones, takes its acknowledgement and its credits, and is counted; NAK in it brings a
resend, and lanes that its LANES no longer names leave service here too. Any other block is dropped and NAK
is owed. A block of a broadcast arrives on a TAP lane: what has no buffer is dropped and counted, and a
failed one is discarded. The recovery link carries no blocks of flits (R423). LINK_ACK_TIMEOUT and
BLOCK_PAD_TIMEOUT complete (R301, R303, R304, R350). The first sends every unacknowledged block again; the
second sends the flits at hand in one block padded with idle flits, with the credits that the port owes, and
keeps it until it is acknowledged. On a SOURCE lane the flits of a broadcast go out alike. -/
def Obligations.BlocksComeAndGo : Prop :=
  (∀ (p : Fin 24) (b : Block) (s : State),
      let q := portOf s p.val
      let t := b.tail.toNat
      let o := oPort p.val
      let whole : Prop := blockCheckOk b = true ∧ b.fecOk = true
      let good : Prop := whole ∧ bits t 48 16 = q.expect
      let got := b.flits.filter (fun f => fKind f != 0)
      let lanes := bits t 10 8
      let m := portActive s p.val &&& lanes
      let after : Port := { q with
        rx := q.rx ++ got, expect := (q.expect + 1) % 65536, sent := ackBlocks q.sent (bits t 32 16), unret := tabMod 0 q.unret (bits t 28 2) (fun x => x - bits t 18 10) }
      let counted (u : State) : Prop := reg64 u (o + 0x108) = (reg64 s (o + 0x108) + 1) % 2 ^ 64
      (tapLane s p.val lanes = none → linkPort s p.val = true → exec (.blockReceive p b) s = .next s) ∧
      (tapLane s p.val lanes = none → linkPort s p.val = false → (portState s p.val = 2 ∨ portState s p.val = 3) →
        (good → lanes = 0 ∨ m = portActive s p.val →
          ∃ u, exec (.blockReceive p b) s = .next (pump p.val (if bits t 31 1 = 1 then linkResend p.val u else u)) ∧
            PortGives s u p.val after ∧ counted u ∧ RegsKeep [o + 0x108, o + 0x10C] s u ∧ Keeps [.fab, .regs] s u) ∧
        (good → lanes ≠ 0 → m ≠ portActive s p.val → minLanes s p.val ≤ maskCount m →
          ∃ u, exec (.blockReceive p b) s = .next (pump p.val (if bits t 31 1 = 1 then linkResend p.val u else u)) ∧
            PortGives s u p.val after ∧ counted u ∧ portActive u p.val = m ∧ rf u (o + 0x010) 12 4 = maskCount m ∧
            portState u p.val = portState s p.val ∧ RegsKeep [o + 0x010, o + 0x108, o + 0x10C] s u ∧ Keeps [.fab, .regs] s u) ∧
        (good → lanes ≠ 0 → m ≠ portActive s p.val → maskCount m < minLanes s p.val →
          ∃ u, exec (.blockReceive p b) s = .next u ∧ portState u p.val = 0 ∧ (portOf u p.val).out = true ∧
            (portOf u p.val).rx = after.rx ∧ (portOf u p.val).sent = [] ∧ (portOf u p.val).tx = [] ∧ counted u ∧
            rf u (o + 0x020) 1 1 = 1 ∧ Logged s u cPORT_DOWN .port p.val .masked) ∧
        (¬ good →
          ∃ u, exec (.blockReceive p b) s = .next u ∧ PortGives s u p.val { q with nak := true } ∧
            regGet u (o + 0x114) = regGet s (o + 0x114) + (if blockCheckOk b then 0 else 1) ∧
            RegsKeep ((o + 0x114) :: (if b.fecOk then [] else [o + 0x11C])) s u ∧ Keeps [.fab, .regs, .free] s u)) ∧
      (∀ c j, cageOf s p.val = some c → tapLane s p.val lanes = some j →
        let room := 4096 - (q.rx.length + q.tap.length)
        (whole → laneQuar s p.val j = false →
          ∃ u, exec (.blockReceive p b) s = .next u ∧ PortGives s u p.val { q with tap := q.tap ++ got.take room } ∧
            counted u ∧ regGet u (oCage c + 0x414) = regGet s (oCage c + 0x414) + BitVec.ofNat 32 (got.length - room) ∧
            RegsKeep [o + 0x108, o + 0x10C, oCage c + 0x414] s u ∧ Keeps [.fab, .regs] s u) ∧
        (¬ whole ∨ laneQuar s p.val j = true → exec (.blockReceive p b) s = .next s))) ∧
  (∀ (p : Fin 24) (s : State),
      let q := portOf s p.val
      let r := pickFlits 16 q.unret (txOrder q.tx)
      let pad (l : List Flit) : List Flit := l ++ List.replicate (16 - l.length) idleFlit
      let o := oPort p.val
      let v := oweVc q.owed
      let cr := min 1023 (tabGet 0 q.owed v)
      let source : Option Nat := (cageOf s p.val).bind (fun c => (List.range 8).find? (fun j => roleOf s c j == 2))
      let counted (t : State) (n : Nat) : Prop := reg64 t (o + 0x100) = (reg64 s (o + 0x100) + n) % 2 ^ 64
      (portState s p.val = 2 → q.sent ≠ [] →
        ∃ t, exec (.linkAckTimeout p) s = .next t ∧ Resent s t p.val ∧ (∀ m, m ≠ p.val → portOf t m = portOf s m) ∧
          RegsKeep [o + 0x110] s t ∧ Keeps [.fab, .regs, .outbox] s t) ∧
      (mayBlock s p.val = true →
        ∃ t b bc, exec (.blockPadTimeout p) s = .next t ∧ t.outbox = s.outbox ++ bc ++ [.block p.val b] ∧
          (∀ x ∈ bc, ∃ j y, x = Out.bcast p.val j y) ∧ b.flits = pad r.1 ∧ bits b.tail.toNat 18 10 = cr ∧
          bits b.tail.toNat 28 2 = v ∧
          (portOf t p.val).tx = r.2.1 ∧ (portOf t p.val).unret = r.2.2 ∧
          (portOf t p.val).sent = q.sent ++ [⟨q.next, pad r.1, v, cr⟩] ∧ (portOf t p.val).next = (q.next + 1) % 65536 ∧
          (portOf t p.val).owed = tabMod 0 q.owed v (fun x => x - cr) ∧
          (portOf t p.val).rx = q.rx ∧ (∀ m, m ≠ p.val → portOf t m = portOf s m) ∧
          counted t (1 + bc.length) ∧ RegsKeep [o + 0x100, o + 0x104] s t ∧ Keeps [.fab, .regs, .outbox] s t) ∧
      (∀ j, mayBlock s p.val = false → source = some j → laneQuar s p.val j = false → q.btx ≠ [] →
        ∃ t b, exec (.blockPadTimeout p) s = .next t ∧ t.outbox = s.outbox ++ [.bcast p.val j b] ∧
          b.flits = pad (q.btx.take 16) ∧ bits b.tail.toNat 10 8 = 2 ^ j ∧ bits b.tail.toNat 18 10 = 0 ∧
          bits b.tail.toNat 31 17 = 0 ∧
          PortGives s t p.val { q with btx := q.btx.drop 16, bnext := (q.bnext + 1) % 65536 } ∧ counted t 1 ∧
          RegsKeep [o + 0x100, o + 0x104] s t ∧ Keeps [.fab, .regs, .outbox] s t))

/-- FLIT_RECEIVE completes (R304, R305, R313 to R316, R320, R350, R351). The oldest flit of a channel leaves the
port's buffer; one that came over the link gives a credit back. A flit whose phase ends here goes on in
phase 1 on channel 1; one for this device is delivered, one for another goes to the best candidate port or
waits for one, one for a group goes to every port of its entry, a SOURCE lane's in its place, and one that
may not be accepted is discarded. A group that this device may not forward to is delivered here alone; no
port that is DOWN takes a copy. A group flit that is resent on channel 1 keeps its phase (assumption 22).
NO_ROUTE_TIMEOUT completes (R316): the oldest flit that waits at a source is discarded and counted, and its
port raises the event. -/
def Obligations.FlitsMoveOn : Prop :=
  (∀ (p : Fin 24) (vc : Fin 4) (f : Flit) (x : Nat) (s : State),
      let q := portOf s p.val
      let link := q.rx.find? (fun f => fVc f == vc)
      let here : Bool := decide (fPh f = 0 ∧ fVc f = 0 ∧ fMid f = haddr s)
      let g := if here then hSet (hSet f 84 1 1) 124 2 1 else f
      let e := rtEntry s p.val (lookupOf g)
      let taken : Port := if link.isSome then
        { q with rx := q.rx.erase f, owed := tabMod 0 q.owed vc.val (fun n => n + 1) } else { q with tap := q.tap.erase f }
      let base (m : Nat) : Port := if m = p.val then taken else portOf s m
      let o := oPort p.val
      let one : Prop := fKind f ≠ 2 ∨ fPh g = 0
      let may : Prop := if fKind f = 2 then
        groupMembers s (fDst f) ≠ [] ∧ ∀ h ∈ groupMembers s (fDst f), member s h = true else member s (fDst f) = true
      let toMe : Prop := bits e 31 1 = 1 ∧ bits e 24 1 = 1
      let lanes := (List.range 24).flatMap (fun m => [oPort m + 0x100, oPort m + 0x104])
      link.or (q.tap.find? (fun f => fVc f == vc)) = some f →
      (one → fKind f ≠ 2 ∨ may → member s (fSrc f) = true → toMe →
        ∃ u, exec (.flitReceive p vc) s = .next (shadowEnds (pumpAll (deliver g u))) ∧ PortGives s u p.val taken ∧
          Keeps [.fab] s u) ∧
      (fKind f = 2 → ¬ may → member s (fSrc f) = true → toMe →
        ∃ u, exec (.flitReceive p vc) s = .next (pumpAll (deliver g u)) ∧ PortGives s u p.val taken ∧ Keeps [.fab] s u) ∧
      (one → member s (fSrc f) = true → may → bits e 31 1 = 1 → bits e 24 1 = 0 → bestPort s e (fVc g) = some x →
        ∃ u, exec (.flitReceive p vc) s = .next (shadowEnds (pumpAll u)) ∧
          portOf u x = { base x with tx := (portOf s x).tx ++ [g] } ∧ (∀ m, m ≠ x → portOf u m = base m) ∧
          regGet u (o + 0x124) = regGet s (o + 0x124) + 1 ∧ RegsKeep [o + 0x124] s u ∧ Keeps [.fab, .regs] s u) ∧
      (member s (fSrc f) = true → may → bits e 31 1 = 0 ∨ (one ∧ bits e 24 1 = 0 ∧ bestPort s e (fVc g) = none) →
        ∃ u, exec (.flitReceive p vc) s = .next (shadowEnds (pumpAll u)) ∧ u.fab.stuck = s.fab.stuck ++ [(p.val, g)] ∧
          (∀ m, portOf u m = base m) ∧ Keeps [.fab] s u) ∧
      (¬ one → member s (fSrc f) = true → may → bits e 31 1 = 1 →
        ∃ u, exec (.flitReceive p vc) s = .next (shadowEnds (pumpAll (if bits e 24 1 = 1 then deliver g u else u))) ∧
          (∀ m, m < 24 → bits e m 1 = 0 → portOf u m = base m) ∧
          (∀ m, m < 24 → bits e m 1 = 1 → bcastLane s m (fDst f) = none →
            portOf u m = if portState s m = 0 then base m else { base m with tx := (base m).tx ++ [g] }) ∧
          (∀ m j, m < 24 → bits e m 1 = 1 → bcastLane s m (fDst f) = some j → (base m).btx.length < 15 →
            portOf u m = if portState s m = 0 ∨ laneQuar s m j = true then base m else { base m with btx := (base m).btx ++ [g] }) ∧
          regGet u (o + 0x124) = regGet s (o + 0x124) + (if bits e 0 24 = 0 then 0 else 1) ∧
          RegsKeep ((o + 0x124) :: lanes) s u ∧ Keeps [.fab, .regs, .outbox] s u) ∧
      (member s (fSrc f) = false ∨ (¬ may ∧ ¬ toMe) →
        ∃ u, exec (.flitReceive p vc) s = .next u ∧ PortGives s u p.val taken ∧
          regGet u (oCommon + 0x04C) = regGet s (oCommon + 0x04C) + 1 ∧ rf u (o + 0x020) 4 1 = 1 ∧
          Logged s u cPADDOCK_REJECT .port p.val .masked ∧
          RegsKeep [oCommon + 0x04C, o + 0x020] s u ∧ Keeps [.fab, .regs, .log] s u)) ∧
  (∀ (src : Nat) (e : Nat × Flit) (s : State), s.fab.stuck.find? (fun e => e.1 == src) = some e →
      ∃ u, exec (.noRouteTimeout src) s = .next u ∧ u.fab = { s.fab with stuck := s.fab.stuck.erase e } ∧
        regGet u (oCommon + 0x050) = regGet s (oCommon + 0x050) + 1 ∧
        (src < 24 → rf u (oPort src + 0x020) 5 1 = 1) ∧
        RegsKeep ((oCommon + 0x050) :: (if src < 24 then [oPort src + 0x020] else [])) s u ∧
        Keeps [.fab, .regs, .log] s u)

/-- E2E_RESPONSE, E2E_RESEND_TIMEOUT, BUSY_RETRY and DELIVERY_LOST complete (R82, R100, R320 to R323, R364, R399). A
response releases what it acknowledges, and a fault in it halts the copy that sent the flit, also one acknowledged before,
or fails the cut's shadow; a timer or a refusal sends a held flit again and counts it; a flit given up leaves its space,
and its copy faults with DELIVERY_LOST; a cut's flit given up fails its shadow or its image. -/
def Obligations.EndToEndCommandsComplete : Prop :=
  ∀ (dst space : Nat) (cum seq : W16) (bitmap : List Nat) (code : W16) (u : Unacked) (s : State),
    let k := txKey dst space
    let tx := txOf s k
    let cut := tx.held.filterMap (ackOne dst cum.toNat bitmap)
    let past := tx.held.filterMap (fun u =>
      if (ackOne dst cum.toNat bitmap u).isNone then u.owner.map (fun o => (u.seq, o)) else none) ++ tx.past
    let owns (o : Nat × Q × Nat) : Prop := match tx.held.find? (fun u => decide (u.seq = seq.toNat)) with
      | some w => w.owner = some o
      | none => (tx.past.find? (fun x => decide (x.1 = seq.toNat))).map (fun x => x.2) = some o
    let fails (v : State) : State :=
      if tx.held.any (fun u => decide (u.seq = seq.toNat) && isCut s u.flit) then shadowFail v else v
    let found := tx.held.find? (fun u => decide (u.seq = seq.toNat)) = some u
    let puts (v : State) (tx' : E2eTx) : Prop :=
      txOf v k = tx' ∧ (∀ j, j ≠ k → txOf v j = txOf s j) ∧ v.fab = { s.fab with tx := v.fab.tx } ∧ Keeps [.fab] s v
    let less (p : Flit → Bool) : E2eTx :=
      { tx with held := tx.held.filter (fun v => !p v.flit), waiting := tx.waiting.filter (fun v => !p v.flit) }
    (∃ v, exec (.e2eResponse dst space cum bitmap none) s = .next (pumpAll (drainAll v)) ∧
      puts v { tx with held := cut, past := past }) ∧
    (∀ n q sn, owns (n, q, sn) → entIssued s n q sn = true →
      ∃ v, exec (.e2eResponse dst space cum bitmap (some (seq, code))) s =
          .next (fails (pumpAll (drainAll (copyFault n q sn code v)))) ∧ puts v { tx with held := cut, past := past }) ∧
    ((∀ n q sn, owns (n, q, sn) → entIssued s n q sn = false) →
      ∃ v, exec (.e2eResponse dst space cum bitmap (some (seq, code))) s = .next (fails (pumpAll (drainAll v))) ∧
        puts v { tx with held := cut, past := past }) ∧
    (found → ∀ r ∈ [(Instr.e2eResendTimeout dst space seq, oCommon + 0x040), (.busyRetry dst space seq, oCommon + 0x048)],
      ∃ v, exec r.1 s = .next (pumpAll (resendOne u v)) ∧ regGet v r.2 = regGet s r.2 + 1 ∧ RegsKeep [r.2] s v ∧
        Keeps [.regs] s v) ∧
    (found → isCut s u.flit = false → isStorage s u.flit = false → u.owner = none →
      ∃ v, exec (.deliveryLost dst space seq) s = .next v ∧ txOf v k = { tx with held := tx.held.erase u } ∧
        (∀ j, j ≠ k → txOf v j = txOf s j) ∧ Logged s v cDELIVERY_LOST .global 0 .restart ∧
        Keeps [.fab, .regs, .regs2, .log, .host, .outbox] s v) ∧
    (∀ n q sn, found → isCut s u.flit = false → isStorage s u.flit = false → u.owner = some (n, q, sn) → entIssued s n q sn = true →
      ∃ v, exec (.deliveryLost dst space seq) s = .next (copyFault n q sn cDELIVERY_LOST v) ∧
        copyUnacked v n q sn = false ∧ Keeps [.fab] s v) ∧
    (found → isCut s u.flit = true →
      ∃ v, exec (.deliveryLost dst space seq) s = .next (shadowFail v) ∧ puts v (less (isShadow s))) ∧
    (∀ c, found → isStorage s u.flit = true → fKind u.flit = 1 → s.ckpt.cut = some c →
      (c.shadow = true → ∃ v, exec (.deliveryLost dst space seq) s = .next v ∧ txOf v k = less (isStorage s) ∧
        v.ckpt = { s.ckpt with cut := some { c with storage := false } } ∧
        Logged s v cSHADOW_FAILED .global 0 .report) ∧
      (c.shadow = false → ∃ v, exec (.deliveryLost dst space seq) s = .next (cutFail v) ∧ puts v (less (isStorage s))))

/-- LANE_SHED, LANE_REACQUIRE, SWAP_MASK_EXPIRE, LANE_BER_WINDOW and LANE_SHED_RESUME complete (R306, R307,
R328, R345, R347, R354). A shed lane leaves the active mask, is counted and logged, and its port goes QUIET,
or DOWN below MIN_LANES, or stays HELD; under a swap mask a dark lane is only noted, and is shed when the
mask expires on it. A window adds its symbol errors; above LANE_SHED_EXP it sheds the lane, and above
SWAP_BER_EXP it asks for the spare. A lane shed of a port that is DOWN already leaves its mask alone.
FARRIER_LANE_REPAIR completes (R392, R394, R408). A retrained lane, or one moved to the port's spare, joins
its port by a hitch, and its adds are counted; from the fourth on an add may fall in the hour of the three
before, and the lane is then out until the next restart; a channel that is bad leaves the lane out until a
reset, with the port's spare in place; a port whose spare is in use reports that it is exhausted; a lane in
service, or one that is out, stays as it is. -/
def Obligations.LanesShedAndAreRepaired : Prop :=
  (∀ (p : Fin 24) (lane : Fin 8) (errors n symbols : Nat) (s : State),
      let q := portOf s p.val
      let o := oPort p.val
      let m := portActive s p.val - 2 ^ lane.val
      let masked := lane.val ∈ q.masks
      let live := laneActive s p.val lane.val = true
      let up := live ∧ portState s p.val ≠ 0 ∧ portState s p.val ≠ 4 ∧ minLanes s p.val ≤ maskCount m
      let swaps (g : Nat) : Prop := n < errors * 10 ^ rf s (oCage g + 0x010) 16 4
      let cool : Prop := ∀ g, cageOf s p.val = some g → ¬ swaps g
      let sheds : Prop := n < errors * 10 ^ rf s (o + 0x014) 8 4 ∧ ¬ masked
      let serr (t : State) : Prop :=
        regGet t (o + 0x200 + 4 * lane.val) = regGet s (o + 0x200 + 4 * lane.val) + BitVec.ofNat 32 symbols ∧
          RegsKeep [o + 0x200 + 4 * lane.val] s t ∧ Keeps [.regs] s t
      let shed (s t : State) (st : Nat) : Prop :=
        portState t p.val = st ∧ portActive t p.val = m ∧ rf t (o + 0x010) 12 4 = maskCount m ∧
          regGet t (o + 0x128) = regGet s (o + 0x128) + 1 ∧ rf t (o + 0x020) 0 1 = 1 ∧
          Logged s t cLANE_SHED .port p.val .masked
      (¬ masked → up →
        ∃ t, exec (.laneShed p lane) s = .next t ∧ shed s t 3 ∧ RegsKeep [o + 0x010, o + 0x128, o + 0x020] s t ∧
          Keeps [.regs, .log] s t) ∧
      (¬ masked → live → portState s p.val = 4 →
        ∃ t, exec (.laneShed p lane) s = .next t ∧ shed s t 4 ∧ t.fab = s.fab) ∧
      (¬ masked → live → portState s p.val ≠ 0 → portState s p.val ≠ 4 →
        maskCount m < minLanes s p.val →
        ∃ t, exec (.laneShed p lane) s = .next t ∧ portState t p.val = 0 ∧ portActive t p.val = m ∧
          rf t (o + 0x020) 1 1 = 1 ∧ (portOf t p.val).out = true ∧ (portOf t p.val).sent = [] ∧ (portOf t p.val).tx = []) ∧
      (¬ masked → live → portState s p.val = 0 →
        ∃ t, exec (.laneShed p lane) s = .next t ∧ portActive t p.val = m ∧ rf t (o + 0x010) 12 4 = maskCount m ∧
          portState t p.val = 0 ∧ RegsKeep [o + 0x010] s t ∧ Keeps [.regs] s t) ∧
      (masked → ∃ t, exec (.laneShed p lane) s = .next t ∧
        PortGives s t p.val { q with dark := setAdd q.dark lane.val } ∧ Keeps [.fab] s t) ∧
      (∃ t, exec (.laneReacquire p lane) s = .next t ∧
        PortGives s t p.val { q with dark := setDel q.dark lane.val } ∧ Keeps [.fab] s t) ∧
      (masked → lane.val ∉ q.dark → ∃ t, exec (.swapMaskExpire p lane) s = .next t ∧
        PortGives s t p.val { q with masks := setDel q.masks lane.val, dark := setDel q.dark lane.val } ∧ Keeps [.fab] s t) ∧
      (masked → lane.val ∈ q.dark → up → ∃ t, exec (.swapMaskExpire p lane) s = .next t ∧ shed s t 3) ∧
      (live → cool → ¬ sheds → ∃ t, exec (.laneBerWindow p lane ⟨errors, symbols⟩ n) s = .next t ∧
        ∃ u, serr u ∧ t = (match cageOf s p.val with
          | some g => swapOver g (16 + lane.val) u
          | none => u)) ∧
      (cool → sheds → up →
        ∃ t, exec (.laneBerWindow p lane ⟨errors, symbols⟩ n) s = .next t ∧ shed s t 3 ∧ t.fab = s.fab) ∧
      (∀ g, live → cageOf s p.val = some g → swaps g → ¬ sheds →
        ∃ u, exec (.laneBerWindow p lane ⟨errors, symbols⟩ n) s = .next (swapCondition g (laserAt u g lane.val) lane.val (16 + lane.val) u) ∧ serr u) ∧
      (portState s p.val = 3 →
        ∃ u, exec (.laneShedResume p) s = .next (pumpAll (retryStuck (linkResend p.val u))) ∧
          FieldGives s u (o + 0x010) 0 3 2 [o + 0x12C] ∧ Keeps [.regs, .free] s u)) ∧
  (∀ (p : Fin 24) (lane : Fin 8) (r : RepairResult) (s : State),
      let q := portOf s p.val
      let n := tabGet 0 q.adds lane.val
      let counted : Port := { q with adds := tabSet 0 q.adds lane.val (n + 1) }
      let rested : Prop := laneActive s p.val lane.val = true ∨ lane.val ∈ q.barred ∨ lane.val ∈ q.broken
      let fourth : Prop := 3 ≤ n ∧ Config.freeNat s.free % 2 = 0
      let spent (t : State) : Prop := t.boot = { s.boot with exhausted := true } ∧
        Logged s t cSPARE_EXHAUSTED .port p.val .report ∧ rf t 0x4060 3 1 = 1
      (rested → exec (.farrierLaneRepair p lane r) s = .next s) ∧
      (¬ rested → fourth →
        ∃ t, exec (.farrierLaneRepair p lane r) s = .next t ∧
          PortGives s t p.val { q with barred := setAdd q.barred lane.val } ∧ Keeps [.fab, .free] s t) ∧
      (¬ rested → ¬ fourth →
        (∃ u, exec (.farrierLaneRepair p lane .retrained) s = .next (laneAddHitch p.val [lane.val] u) ∧
          PortGives s u p.val counted ∧ Keeps [.fab, .free] s u) ∧
        (rf s 0x404C p.val 1 = 0 →
          ∃ u, exec (.farrierLaneRepair p lane .spareSwitched) s = .next (laneAddHitch p.val [lane.val] u) ∧
            PortGives s u p.val counted ∧ FieldGives s u 0x404C p.val 1 1 [] ∧ Keeps [.fab, .regs, .free] s u) ∧
        (rf s 0x404C p.val 1 = 1 →
          ∃ t, exec (.farrierLaneRepair p lane .spareSwitched) s = .next t ∧ spent t ∧ t.fab = s.fab) ∧
        (rf s 0x404C p.val 1 = 0 →
          ∃ t, exec (.farrierLaneRepair p lane .channel) s = .next t ∧
            PortGives s t p.val { q with broken := setAdd q.broken lane.val } ∧ FieldGives s t 0x404C p.val 1 1 [] ∧
            Keeps [.fab, .regs, .free] s t) ∧
        (rf s 0x404C p.val 1 = 1 →
          ∃ t, exec (.farrierLaneRepair p lane .channel) s = .next t ∧
            PortGives s t p.val { q with broken := setAdd q.broken lane.val } ∧ spent t)))

/-- PORT_TRAIN and PORT_TRAIN_DONE complete (R298, R307, R310, R331, R344, R354). A port whose conditions hold starts
to train, under a plan that was legal at the release. With the identity that the plan expects it comes UP on the
lanes that trained, those in LINK and not quarantined where it is optical, is HELD where its cage
has no LINK lane, and goes DOWN below MIN_LANES; any other identity is a wire mismatch. A twin port that comes UP sends
the pairing flit and offers the boot images (R395, R424; that it offers them then is the model's choice, assumption
108). A port of the recovery link trains at fixed settings (R423). -/
def Obligations.PortsTrain : Prop :=
  ∀ (p : Fin 24) (lanes : Byte) (seen : W32) (s : State),
    let o := oPort p.val
    let m := laneMask s p.val (lanes.toNat &&& rf s (o + 0x014) 0 8)
    let match_ : Prop := seen &&& 0x8003FFFF#32 = regGet s (o + 0x008)
    let done (t : State) (v : Nat) : Prop := portState t p.val = v ∧ portActive t p.val = m ∧
      rf t (o + 0x010) 12 4 = maskCount m ∧ regGet t (o + 0x00C) = seen &&& 0x8003FFFF#32 ∧
      (portOf t p.val).tx = [] ∧ (portOf t p.val).sent = [] ∧ (portOf t p.val).unret = [] ∧
      (∀ x, x ≠ p.val → portOf t x = portOf s x)
    let link := linkPort s p.val
    (portState s p.val = 0 → (portOf s p.val).out = false → mayTrain s p.val = true ∨ link = true →
      ∃ t, exec (.portTrain p) s = .next t ∧ FieldGives s t (o + 0x010) 0 3 1 [] ∧ Keeps [.regs] s t) ∧
    (portState s p.val = 1 → link = true → lanes = 0 →
      ∃ t, exec (.portTrainDone p lanes seen) s = .next t ∧ FieldGives s t (o + 0x010) 0 3 0 [] ∧ Keeps [.regs] s t) ∧
    (portState s p.val = 1 → link = true → lanes ≠ 0 →
      ∃ t, exec (.portTrainDone p lanes seen) s = .next t ∧ portState t p.val = 2 ∧ portActive t p.val = lanes.toNat ∧
        rf t (o + 0x010) 12 4 = maskCount lanes.toNat ∧ RegsKeep [o + 0x010] s t ∧ Keeps [.regs] s t) ∧
    (portState s p.val = 1 → link = false → match_ → cageHasLink s p.val = true → minLanes s p.val ≤ maskCount m →
      ∃ u, exec (.portTrainDone p lanes seen) s =
          .next (pumpAll (retryStuck (imagesOffer p.val (pairingSend p.val u)))) ∧ done u 2 ∧
        rf u (o + 0x020) 2 1 = 1 ∧ RegsKeep [o + 0x00C, o + 0x010, o + 0x020] s u ∧ Keeps [.regs, .fab, .log] s u) ∧
    (portState s p.val = 1 → link = false → match_ → cageHasLink s p.val = false →
      ∃ t, exec (.portTrainDone p lanes seen) s = .next t ∧ done t 4 ∧ RegsKeep [o + 0x00C, o + 0x010] s t ∧
        Keeps [.regs, .fab] s t) ∧
    (portState s p.val = 1 → link = false → match_ → cageHasLink s p.val = true → maskCount m < minLanes s p.val →
      ∃ t, exec (.portTrainDone p lanes seen) s = .next t ∧ done t 0 ∧ (portOf t p.val).out = true ∧
        rf t (o + 0x020) 1 1 = 1 ∧ Logged s t cPORT_DOWN .port p.val .masked ∧
        RegsKeep [o + 0x00C, o + 0x010, o + 0x020] s t ∧ Keeps [.regs, .fab, .log] s t) ∧
    (portState s p.val = 1 → link = false → ¬ match_ →
      ∃ t, exec (.portTrainDone p lanes seen) s = .next t ∧ portState t p.val = 0 ∧ portActive t p.val = 0 ∧
        (portOf t p.val).out = true ∧ rf t (o + 0x020) 3 1 = 1 ∧ Logged s t cWIRE_MISMATCH .port p.val .masked ∧
        RegsKeep [o + 0x00C, o + 0x010, o + 0x020] s t ∧ Keeps [.regs, .fab, .log] s t)

/-- OCL_FRAME_RECEIVE, OCL_FRAME_SEND, CAGE_LINK_LOST and HEATER_CODES_TIMEOUT complete (R333 to R335, R338, R342,
R355, R357, R358, R419). A frame whose CRC fails is counted and dropped. Any other one trains the link, for the first
time in a boot with what the board record gives for the cage (free, assumption 106) applied; it is shown in the cage's
registers, its monitor channels as means, and begins the bring-up of an enabled cage that is off, which goes on once
the record is read, with the lasers on and a spare in service where it was. A frame sent carries the codes, with their
dithers (assumption 104), and the lasers in force. Losing the link stops the heartbeat, quarantines the rings and
takes the port down; the codes go on until the bypass is closed, or for 1 ms. -/
def Obligations.CageFramesComplete : Prop :=
  ∀ (g : Fin 12) (f : OclFrame) (rec : Option StoterRecord) (spare : Option (Fin 4 × Fin 8)) (s : State),
    let c := cageSt s g.val
    let o := oCage g.val
    let stat := o + 0x008
    let s0 := boardApply g.val s
    let c0 := cageSt s0 g.val
    let may : Prop := cageEn s0 g.val = true ∧ 60 ∈ s.boot.released ∧ asked s 5 g.val = false
    let st := if cageState s0 g.val = 0 then 1 else cageState s0 g.val
    let h := (f.samples :: c.hist).take 1000
    let closed : Prop := Config.statusBypass f.status = false ∧ c0.beat = false
    let shown := [stat, o + 0x028, o + 0x410] ++ (List.range 44).map (fun i => o + 0x200 + 4 * i)
    let heaters := heaterWords s g.val
    let lasers := (List.range 9).map (fun l => tabGet 0 c.lasers l)
    let others (t : State) : Prop := ∀ h, h ≠ g.val → cageSt t h = cageSt s h
    (oclGood f = false →
      ∃ t, exec (.oclFrameReceive g ⟨f, rec, spare⟩) s = .next t ∧ regGet t (o + 0x40C) = regGet s (o + 0x40C) + 1 ∧
        regGet t (o + 0x410) = regGet s (o + 0x410) + 1 ∧ RegsKeep [o + 0x40C, o + 0x410] s t ∧ Keeps [.regs] s t) ∧
    (rf s stat 9 1 = 1 ∨ 60 ∉ s.boot.released ∨ g.val ∈ s.boot.cagesSet → s0 = s) ∧
    (∀ im, rf s stat 9 1 = 0 → 60 ∈ s.boot.released → g.val ∉ s.boot.cagesSet → s.boot.images[2]? = some im →
      g.val ∈ s0.boot.cagesSet ∧ ((Config.boardCage im.body g.val).getLsbD 0 = true → cageEn s0 g.val = true)) ∧
    (oclGood f = true →
      ∃ t, exec (.oclFrameReceive g ⟨f, rec, spare⟩) s = .next t ∧
        rf t (o + 0x028) 0 16 = (Config.statusTemp f.status).toNat ∧
        rf t stat 3 1 = b2n (Config.statusBypass f.status) ∧ rf t stat 9 1 = 1 ∧ (cageSt t g.val).seqRx = f.seq ∧
        (cageSt t g.val).hist = h ∧
        (∀ i, i < 44 → regGet t (o + 0x200 + 4 * i) = BitVec.ofNat 32 (monMean h 20 i + monMean h 1000 i * 2 ^ 16)) ∧
        (∀ r, r < 27 → ringState s0 g.val r = 0 → tabGet 0 (cageSt t g.val).parked r = (f.samples.getD r 0).toNat) ∧
        (closed → (cageSt t g.val).codesOn = false) ∧
        (¬ may → cageState t g.val = cageState s0 g.val) ∧
        (may → rec = none ∨ st ≠ 1 → cageState t g.val = st) ∧
        (∀ r, may → st = 1 → rec = some r → recordGood r = true →
          cageState t g.val = 2 ∧ (cageSt t g.val).record = some r ∧ (cageSt t g.val).beat = false ∧
          (¬ closed → (cageSt t g.val).codesOn = (c0.codesOn || c0.beat)) ∧
          (∀ l, l < 8 → laserPos s0 g.val l ≠ 0xE → (∀ j, spare = some (2, j) → j.val ≠ l) →
            laserPos t g.val l = l ∧ tabGet 0 (cageSt t g.val).lasers l = laserWord l) ∧
          ∀ q j, spare = some (q, j) → spareState t g.val = q.val ∧ rf t stat 6 3 = j.val ∧
            (q = 2 → laserPos t g.val j.val = 0xE ∧ laserPos t g.val 8 = j.val ∧
              tabGet 0 (cageSt t g.val).lasers 8 = laserWord j.val)) ∧
        (∀ r, may → st = 1 → rec = some r → recordGood r = false →
          cageState t g.val = 4 ∧ rf t (o + 0x020) 7 1 = 1 ∧ Logged s0 t cSTOTER_INVALID .cage g.val .masked) ∧
        (¬ may ∨ rec = none ∨ st ≠ 1 → (cageSt t g.val).lasers = c0.lasers ∧
          (¬ closed → (cageSt t g.val).codesOn = c0.codesOn) ∧ RegsKeep shown s0 t) ∧
        others t ∧ Keeps [.regs, .cages, .log, .free] s0 t) ∧
    (cageEn s g.val = true ∨ c.codesOn = true ∨ c.beat = true →
      ∃ t cmd, exec (.oclFrameSend g) s = .next t ∧ heaters.length = 28 ∧
        (cageEn s g.val = true → (∀ r, r < 27 →
            heaters.getD r 0 = codeShift (rf s (oRing g.val r) 0 14) (ditherOf s g.val r)) ∧
          heaters.getD 27 0 = codeShift c.spareCode (ditherOf s g.val 27)) ∧
        (cageEn s g.val = false → ∀ r, r < 28 → heaters.getD r 0 = c.keep.getD r 0) ∧
        t.outbox = s.outbox ++ [.frame g.val c.seqTx heaters lasers cmd (crc32c (oclTxBytes c.seqTx heaters lasers cmd))] ∧
        cageSt t g.val = { c with seqTx := c.seqTx + 1 } ∧ others t ∧ Keeps [.cages, .outbox, .free] s t) ∧
    (cageEn s g.val = true → rf s stat 9 1 = 1 →
      ∃ t n, exec (.cageLinkLost g) s = .next t ∧ n ≤ 100 ∧
        regGet t (o + 0x410) = regGet s (o + 0x410) + BitVec.ofNat 32 n ∧ (cageSt t g.val).beat = false ∧
        (cageSt t g.val).codesOn = (c.codesOn || c.beat) ∧ (cageSt t g.val).quar = List.range 8 ∧
        (cageSt t g.val).swap = .none ∧ (c.swap ≠ .none → spareState t g.val = 0 ∧ laserPos t g.val 8 = 8) ∧
        cageState t g.val = 0 ∧
        rf t stat 9 1 = 0 ∧ rf t (o + 0x020) 5 1 = 1 ∧ (∀ r ∈ assignedRings s g.val, ringState t g.val r = 4) ∧
        (∀ p, portOfCage s g.val = some p → portState t p = 0 ∧ portActive t p = 0) ∧
        (portOfCage s g.val = none → Logged s t cCAGE_LINK_LOST .cage g.val .masked) ∧ others t) ∧
    (c.beat = false →
      ∃ t, exec (.heaterCodesTimeout g) s = .next t ∧ cageSt t g.val = { c with codesOn := false } ∧
        others t ∧ Keeps [.cages] s t)

/-- The checks of a ring complete (R337 to R339, R341 to R344, R357). The loop moves only the heater codes of the
parked and locked rings, by their rows of the decoupling matrix, and for a locked locker the spare laser's; a tone
check notes the strongest tone, and a second bad check in a row quarantines the ring, and its lane where it carries
one; a search gives the ring the lowest code that carries its tone, and gives the ring up where there is none, in a
recovery after three failures; a ring that carries no lane is parked from there; a ring whose tone appears locks, in a
recovery once its identity frame confirms it, and its lane returns once every ring of its position is locked. -/
def Obligations.RingChecksComplete : Prop :=
  ∀ (g : Fin 12) (ring : Fin 27) (x : ToneReading) (w : RingSweep) (code : BitVec 14) (s : State),
    let c := cageSt s g.val
    let r := ring.val
    let o := oCage g.val
    let exp := expectedTone s g.val r
    let lane := ringLane s g.val r
    let st := ringState s g.val r
    let locker := ringState s g.val 24 = 3
    let wanted := (List.range 27).map (fun q => if q = 24 ∧ locker then 0 else wantedShift s g.val q)
    let serves := ringServes s g.val r
    let bt := if tonePass exp x then 0 else tabGet 0 c.badTone r + 1
    let bf := match x.frame with
      | some y => if frameOk s g.val r y then 0 else tabGet 0 c.badFrame r + 1
      | none => tabGet 0 c.badFrame r
    let pick := assigned (sweepFound r (ringTune s g.val r) w) exp (fun k => st != 4 || nearCalib s g.val r 400000 k)
    let sure : Prop := tonePass exp x = true ∧ (r < 8 ∨ nearCalib s g.val r 50000 code.toNat = true)
    let locking : Prop := (st = 1 ∨ st = 2) ∧ c.searched = true ∧ ringMoved s g.val r = false
    let toned (t : State) : Prop := ∀ y, (sweepFound r (ringTune s g.val r) w).getLast? = some y →
      rf t (oRing g.val r) 17 4 = strongest y.2 % 16
    let others (t : State) : Prop := (∀ h, h ≠ g.val → cageSt t h = cageSt s h) ∧
      ∀ q, q < 27 → q ≠ r → regGet t (oRing g.val q) = regGet s (oRing g.val q)
    let noLock (t : State) : Prop :=
      ringState t g.val r = 5 ∧ Logged s t cRING_NO_LOCK .cage g.val .masked ∧ rf t (o + 0x020) 1 1 = 1
    let again (t : State) : Prop :=
      tabGet 0 (cageSt t g.val).fails r = tabGet 0 c.fails r + 1 ∧ others t ∧
        (tabGet 0 c.fails r < 2 → ringState t g.val r = 4) ∧ (2 ≤ tabGet 0 c.fails r → noLock t)
    ((cageState s g.val = 2 ∨ cageState s g.val = 3) → c.searched = true →
      ∃ t, exec (.ringLoopTick g) s = .next t ∧ (∀ q, ringState t g.val q = ringState s g.val q) ∧
        (∀ q, q < 27 → (ringState s g.val q = 0 ∨ ringState s g.val q = 3) →
          rf t (oRing g.val q) 0 14 = codeShift (rf s (oRing g.val q) 0 14) (heaterShift s g.val q wanted)) ∧
        (∀ q, q < 27 → ringState s g.val q ≠ 0 → ringState s g.val q ≠ 3 →
          regGet t (oRing g.val q) = regGet s (oRing g.val q)) ∧
        (cageSt t g.val).spareCode = (if locker then codeShift c.spareCode (wantedShift s g.val 24) else c.spareCode) ∧
        RegsKeep ((List.range 27).map (oRing g.val)) s t ∧ (∀ h, h ≠ g.val → cageSt t h = cageSt s h) ∧
        Keeps [.regs, .cages, .free] s t) ∧
    (st = 3 → bt < 2 → bf < 2 →
      ∃ u, exec (.toneCheck g ring x) s = .next (cageSettle g.val u) ∧ ringState u g.val r = 3 ∧
        rf u (oRing g.val r) 17 4 = strongest x % 16 ∧
        (∀ y, x.frame = some y → rf u (oRing g.val r) 21 1 = b2n (frameOk s g.val r y)) ∧
        tabGet 0 (cageSt u g.val).badTone r = bt ∧ tabGet 0 (cageSt u g.val).badFrame r = bf ∧ others u ∧
        RegsKeep [oRing g.val r] s u ∧ Keeps [.regs, .cages] s u) ∧
    (st = 3 → 2 ≤ bt ∨ 2 ≤ bf →
      ∃ t, exec (.toneCheck g ring x) s = .next t ∧ ringState t g.val r = 4 ∧
        (serves = true → lane ∈ (cageSt t g.val).quar) ∧ (serves = false → (cageSt t g.val).quar = c.quar) ∧
        rf t (o + 0x020) 0 1 = 1 ∧ regGet t (o + 0x400) = regGet s (o + 0x400) + 1 ∧
        (∀ p, serves = true → roleOf s g.val lane = 1 → portOfCage s g.val = some p → laneActive s p lane = true →
          portActive t p = portActive s p - 2 ^ lane) ∧
        (serves = false ∨ roleOf s g.val lane ≠ 1 ∨ portOfCage s g.val = none → Logged s t cRING_MISLOCK .cage g.val .masked) ∧
        others t) ∧
    (c.searched = false → exec (.ringSearchDone g ring w) s = .next s ∧ exec (.ringLockAcquire g ring code x) s = .next s) ∧
    ((st = 1 ∨ st = 4) → c.searched = true →
      (∀ k, pick = some k → st = 4 → serves = false →
        ∃ t, exec (.ringSearchDone g ring w) s = .next t ∧ ringState t g.val r = 0 ∧
          calibOf t g.val r (parkPos s g.val r) = k ∧ rf t (oRing g.val r) 0 14 = parkCode t g.val r % 2 ^ 14 ∧
          tabGet 0 (cageSt t g.val).fails r = 0 ∧ regGet t (o + 0x404) = regGet s (o + 0x404) + 1 ∧ toned t ∧
          RegsKeep [oRing g.val r, o + 0x404] s t ∧ Keeps [.regs, .cages] s t) ∧
      (∀ k, pick = some k → st = 1 ∨ serves = true →
        ∃ t, exec (.ringSearchDone g ring w) s = .next t ∧ ringState t g.val r = 2 ∧ toned t ∧
          rf t (oRing g.val r) 0 14 = k % 2 ^ 14 ∧ regGet t (o + 0x404) = regGet s (o + 0x404) + 1 ∧
          RegsKeep [oRing g.val r, o + 0x404] s t ∧ Keeps [.regs] s t) ∧
      (pick = none →
        ∃ t, exec (.ringSearchDone g ring w) s = .next t ∧ toned t ∧ regGet t (o + 0x404) = regGet s (o + 0x404) + 1 ∧
          (st = 1 → noLock t ∧ Keeps [.regs, .log] s t) ∧ (st = 4 → again t) ∧
          RegsKeep [oRing g.val r, o + 0x404, o + 0x020] s t ∧ Keeps [.regs, .cages, .log] s t)) ∧
    (locking → cageState s g.val ≠ 3 →
      ∃ u, exec (.ringLockAcquire g ring code x) s = .next (cageSettle g.val u) ∧
        rf u (oRing g.val r) 17 4 = strongest x % 16 ∧ others u ∧
        (sure → ringState u g.val r = 3 ∧ rf u (oRing g.val r) 0 14 = code.toNat ∧ RegsKeep [oRing g.val r] s u) ∧
        (¬ sure → noLock u) ∧ Keeps [.regs, .log] s u) ∧
    (locking → cageState s g.val = 3 →
      (tonePass exp x = false → ∃ t, exec (.ringLockAcquire g ring code x) s = .next t ∧ again t) ∧
      (tonePass exp x = true → x.frame = none →
        ∃ t, exec (.ringLockAcquire g ring code x) s = .next t ∧ ringState t g.val r = st ∧
          rf t (oRing g.val r) 0 14 = code.toNat ∧ RegsKeep [oRing g.val r] s t ∧ Keeps [.regs] s t) ∧
      (∀ y, tonePass exp x = true → x.frame = some y → frameOk s g.val r y = false →
        ∃ t, exec (.ringLockAcquire g ring code x) s = .next t ∧ again t) ∧
      (∀ y, tonePass exp x = true → x.frame = some y → frameOk s g.val r y = true →
        ∃ u, (laneSound u g.val lane = false → exec (.ringLockAcquire g ring code x) s = .next u) ∧
          (laneSound u g.val lane = true → exec (.ringLockAcquire g ring code x) s =
            .next (lanesReturn g.val [lane] (cageMod g.val (fun k => { k with quar := setDel k.quar lane }) u))) ∧
          ringState u g.val r = 3 ∧ rf u (oRing g.val r) 0 14 = code.toNat ∧ (cageSt u g.val).quar = c.quar ∧
          tabGet 0 (cageSt u g.val).fails r = 0 ∧ others u ∧ RegsKeep [oRing g.val r] s u ∧ Keeps [.regs, .cages] s u))

/-- The control of a cage completes (R341, R342, R355, R356, R461). EN takes a served write and its fall turns the
lasers off; a bring-up's search gives every ring its codes, parks the free rings and starts the ones its roles name, a
ring that found nothing has failed and a flaw of a search is reported (assumption 94), the decoupling matrix is the
inverse of the record's (R338), and a spare in service stands on its position; HOLD_OPEN starts the heartbeat only
where every ring is parked or locked on its position, and stops it; a bypass that does not follow the heartbeat faults
the cage and quarantines it. -/
def Obligations.CageControlCompletes : Prop :=
  ∀ (g : Fin 12) (v : Bool) (rings spare : List RingSweep) (dec : List (List W16)) (s : State),
    let sweeps := rings ++ spare
    let c := cageSt s g.val
    let o := oCage g.val
    let asg := assignedRings s g.val
    let others (t : State) : Prop := ∀ h, h ≠ g.val → cageSt t h = cageSt s h
    let any (_ : Nat) : Bool := true
    let found (r : Nat) := sweepFound r (ringTune s g.val r) (sweeps.getD r ⟨[], []⟩)
    let seen (r : Nat) : Bool :=
      (if r < 25 then [parkPos s g.val r] else List.range 8).any (fun j => (assigned (found r) j any).isSome)
    let pos := rf s (o + 0x008) 6 3
    let sp := spareState s g.val
    let settled : Prop := ∀ r, r < 27 →
      ringState s g.val r = 0 ∨ (ringState s g.val r = 3 ∧ (r ∈ asg ∨ 24 ≤ r))
    (HostWrites s (o + 0x004) 0 1 (b2n v) → cageEn s g.val = v → exec (.cageEnable g v) s = .next s) ∧
    (HostWrites s (o + 0x004) 0 1 (b2n v) → cageEn s g.val ≠ v →
      ∃ t, exec (.cageEnable g v) s = .next t ∧ cageEn t g.val = v ∧
        (v = true → FieldGives s t (o + 0x004) 0 1 1 [] ∧ Keeps [.regs] s t) ∧
        (v = false → cageState t g.val = 0 ∧ rf t (o + 0x008) 9 1 = 0 ∧ (cageSt t g.val).searched = false ∧
          (cageSt t g.val).keep = heaterWords s g.val ∧ (∀ l, l < 9 → tabGet 0 (cageSt t g.val).lasers l = 0) ∧
          RegsKeep ([o + 0x004, o + 0x008] ++ (List.range 9).map (fun l => o + 0x300 + 4 * l)) s t ∧
          Keeps [.regs, .cages] s t) ∧ others t) ∧
    (cageEn s g.val = true → cageState s g.val = 2 → c.searched = false →
      ∃ u, exec (.cageBringupSearched g rings spare dec) s = .next (cageSettle g.val u) ∧ cageState u g.val = 2 ∧
        (cageSt u g.val).searched = true ∧
        (∀ r j, r < 27 → j < 16 → calibOf u g.val r j =
          if j ∈ searchPos s g.val r then (assigned (found r) j any).getD (calibOf s g.val r j) else calibOf s g.val r j) ∧
        (∀ r, r < 24 → ringState u g.val r = if seen r = false then 5 else if r ∈ asg then (if r < 8 then 2 else 1) else 0) ∧
        (∀ r, 24 ≤ r → r < 27 → ringState u g.val r =
          if sp = 1 ∧ r = 24 then 2 else if seen r = false then 5 else if sp = 2 then 3 else 0) ∧
        (∀ r, r < 27 → seen r = true → r < 24 ∨ (sp ≠ 2 ∧ ¬ (sp = 1 ∧ r = 24)) →
          rf u (oRing g.val r) 0 14 = parkCode u g.val r % 2 ^ 14) ∧
        (∀ r, 24 ≤ r → r < 27 → seen r = true → sp = 2 →
          rf u (oRing g.val r) 0 14 = calibOf u g.val r pos % 2 ^ 14) ∧
        (∀ r, r < 27 → seen r = false ∨ searchFlaw (searchPos s g.val r) (found r) = true → rf u (o + 0x020) 1 1 = 1) ∧
        (∀ i k, i < 27 → k < 27 →
          let w := (dec.getD i []).getD k 0
          regGet u (o + 0x1000 + 4 * (27 * i + k)) =
            (match c.record.bind (fun r => decoupling r.cross) with
             | some m => decoupleWord ((m.getD i []).getD k 0) w
             | none => w).setWidth 32) ∧
        (sp = 0 → tabGet 0 (cageSt u g.val).lasers 8 = 0 ∧ laserPos u g.val 8 = 8) ∧
        (rf s (o + 0x004) 1 1 = 1 → (cageSt u g.val).beat = true) ∧
        regGet u (o + 0x404) = regGet s (o + 0x404) + 27 ∧ others u ∧ Keeps [.regs, .cages, .log] s u) ∧
    (HostWrites s (o + 0x004) 1 1 (b2n v) →
      (rf s (o + 0x004) 1 1 = b2n v → exec (.cageHoldOpen g v) s = .next s) ∧
      (rf s (o + 0x004) 1 1 ≠ b2n v →
        (v = true → settled → ∃ t, exec (.cageHoldOpen g v) s = .next t ∧ FieldGives s t (o + 0x004) 1 1 1 [] ∧
          cageSt t g.val = { c with beat := true } ∧ others t ∧ Keeps [.regs, .cages] s t) ∧
        (v = true → ¬ settled → ∃ t, exec (.cageHoldOpen g v) s = .next t ∧
          Logged s t cSTATE_REFUSED .cage g.val .report ∧ Keeps [.log] s t) ∧
        (v = false → ∃ t, exec (.cageHoldOpen g v) s = .next t ∧ FieldGives s t (o + 0x004) 1 1 0 [] ∧
          cageSt t g.val = { c with beat := false, codesOn := c.codesOn || c.beat, keep := heaterWords s g.val } ∧
          others t ∧ Keeps [.regs, .cages] s t))) ∧
    (rf s (o + 0x008) 3 1 ≠ b2n c.beat →
      ∃ t, exec (.bypassFault g) s = .next t ∧ cageState t g.val = 4 ∧ (cageSt t g.val).beat = false ∧
        (∀ r ∈ asg, ringState t g.val r = 4) ∧ rf t (o + 0x020) 6 1 = 1 ∧
        (∀ p, portOfCage s g.val = some p → portState t p = 0) ∧ others t)

/-- The lasers and the spare (R342, R345 to R348, R357). A laser that is on shows its reading, a rounding of the ratio
of the monitor's mean to the commissioning record, and two in a row at the warning threshold log a fade; from the
second at the swap threshold on the spare is lit at the position, or the report says once that there is none. In a
bring-up the search begins once every primary has been compared. A spare that locks on a LINK lane notifies the peer,
and its acknowledgement moves the position to the spare, unless a hitch holds the cage. A notice is acknowledged and
opens a mask on a lane in service. -/
def Obligations.SpareLaserSwaps : Prop :=
  ∀ (g : Fin 12) (laser : Fin 9) (rel : W16) (code : BitVec 14) (x : ToneReading) (p : Fin 24) (lane : Fin 8) (s : State),
    let c := cageSt s g.val
    let o := oCage g.val
    let l := laser.val
    let v := toSigned 16 rel.toNat
    let warn : Prop := v ≤ -10 * (rf s (o + 0x010) 0 8 : Int)
    let bad : Prop := v ≤ -10 * (rf s (o + 0x010) 8 8 : Int)
    let j := laserPos s g.val l
    let lit := tabGet 0 c.lasers l % 2 = 1
    let others (t : State) : Prop := ∀ h, h ≠ g.val → cageSt t h = cageSt s h
    let fits := fadeFits s g.val l rel = true
    (lit → fadeFits s g.val l rel = false → exec (.laserFadeCheck g laser rel) s = .next s) ∧
    (cageState s g.val ≠ 2 ∨ c.searched = true → bringupCompared g.val l s = s) ∧
    (cageState s g.val = 2 → c.searched = false →
      let t := bringupCompared g.val l s
      (cageSt t g.val).compared = setAdd c.compared l ∧ others t ∧
      ((∃ i, i < 8 ∧ tabGet 0 c.lasers i % 2 = 1 ∧ i ∉ setAdd c.compared l) → Keeps [.cages] s t ∧
        cageSt t g.val = { c with compared := setAdd c.compared l }) ∧
      ((∀ i, i < 8 → tabGet 0 c.lasers i % 2 = 1 → i ∈ setAdd c.compared l) → Keeps [.cages, .regs] s t ∧
        (∀ r, r < 27 → ringState t g.val r = 1) ∧
        (spareState s g.val = 0 → laserPos t g.val 8 = 8 ∧ tabGet 0 (cageSt t g.val).lasers 8 = laserWord 8))) ∧
    (lit → fits → ¬ bad →
      ∃ t, exec (.laserFadeCheck g laser rel) s = .next (bringupCompared g.val l t) ∧
        rf t (o + 0x300 + 4 * l) 16 16 = rel.toNat ∧
        (¬ warn → cageSt t g.val =
            { c with warns := tabSet 0 c.warns l 0, swaps := tabSet 0 c.swaps l 0, acted := setDel c.acted l } ∧
          RegsKeep [o + 0x300 + 4 * l] s t ∧ Keeps [.regs, .cages] s t) ∧
        (warn → tabGet 0 c.warns l = 1 → Logged s t cLASER_FADE .cage g.val .report ∧ rf t (o + 0x020) 2 1 = 1) ∧
        others t) ∧
    (lit → fits → bad → 1 ≤ tabGet 0 c.swaps l → j < 8 → j ∉ c.quar → spareState s g.val = 0 → rf s (o + 0x004) 2 1 = 1 →
      ∃ t, exec (.laserFadeCheck g laser rel) s = .next (bringupCompared g.val l t) ∧ spareState t g.val = 1 ∧ rf t (o + 0x008) 6 3 = j ∧
        ringState t g.val 24 = 2 ∧ rf t (oRing g.val 24) 0 14 = rf s (oRing g.val j) 0 14 ∧
        (cageSt t g.val).swap = .warming j ∧ laserPos t g.val 8 = 8 ∧
        tabGet 0 (cageSt t g.val).lasers 8 = laserWord 8 ∧ others t) ∧
    (lit → fits → bad → 1 ≤ tabGet 0 c.swaps l → tabGet 0 c.warns l ≠ 1 → j < 8 → j ∉ c.quar → spareState s g.val ≠ 0 →
      spareFor s g.val j = false → l ∉ c.acted →
      ∃ t, exec (.laserFadeCheck g laser rel) s = .next (bringupCompared g.val l t) ∧
        Logged s t cLASER_NO_SPARE .cage g.val .report ∧
        rf t (o + 0x020) 4 1 = 1 ∧ l ∈ (cageSt t g.val).acted ∧ (cageSt t g.val).swap = c.swap ∧ others t) ∧
    (∀ i, c.swap = .warming i → tonePass i x = false →
      ∃ t, exec (.spareLocked g ⟨code, x⟩) s = .next t ∧ spareState t g.val = 3 ∧ laserPos t g.val 8 = 0xF ∧
        cageSt t g.val = { c with spareCode := code.toNat, swap := .none, lasers := tabSet 0 c.lasers 8 0 } ∧ others t ∧
        RegsKeep [o + 0x008, oRing g.val 24, o + 0x320] s t ∧ Keeps [.regs, .cages] s t) ∧
    (∀ i, c.swap = .warming i → tonePass i x = true →
      ∃ u, (∀ q, roleOf s g.val i = 1 → portOfCage s g.val = some q →
          exec (.spareLocked g ⟨code, x⟩) s = .next (sendTo (peerHaddr s q) (.swapNotice i) u)) ∧
        (roleOf s g.val i = 1 → portOfCage s g.val = none → exec (.spareLocked g ⟨code, x⟩) s = .next u) ∧
        (roleOf s g.val i ≠ 1 → exec (.spareLocked g ⟨code, x⟩) s = .next (swapStep4 g.val i u)) ∧
        ringState u g.val 24 = 3 ∧ ringState u g.val 25 = 2 ∧
        (∃ d, d ≤ 64 ∧ rf u (oRing g.val 25) 0 14 = (calibOf s g.val 25 i - d) % 2 ^ 14) ∧
        cageSt u g.val =
          { c with spareCode := code.toNat, swap := .noticed i, lasers := tabSet 0 c.lasers 8 (laserWord i) } ∧
        others u ∧ RegsKeep [oRing g.val 24, oRing g.val 25] s u ∧ Keeps [.regs, .cages, .free] s u) ∧
    (∀ i, i < 8 → c.swap = .noticed i → cageHeld s g.val = false →
      ∃ u, exec (.swapAck g) s = .next (match portOfCage s g.val with
          | some q => if roleOf s g.val i = 1 then linkResend q u else u
          | none => u) ∧ laserPos u g.val 8 = i ∧
        (laserAt s g.val i ≠ 8 → laserPos u g.val (laserAt s g.val i) = 0xE ∧
          tabGet 0 (cageSt u g.val).lasers (laserAt s g.val i) = 0) ∧ spareState u g.val = 2 ∧
        (cageSt u g.val).swap = .none ∧ tabGet 0 (cageSt u g.val).lasers 8 = laserWord i ∧
        (∀ r, r = 25 ∨ r = 26 → ringState u g.val r = 3 ∧ rf u (oRing g.val r) 0 14 = calibOf s g.val r i % 2 ^ 14) ∧
        regGet u (o + 0x408) = regGet s (o + 0x408) + 1 ∧
        rf u (o + 0x020) 3 1 = 1 ∧ Logged s u cLASER_SWAPPED .cage g.val .masked ∧ others u ∧
        Keeps [.regs, .cages, .log] s u) ∧
    (∀ i, c.swap = .noticed i → cageHeld s g.val = true →
      ∃ t, exec (.swapAck g) s = .next t ∧ cageSt t g.val = { c with swap := .acked i } ∧ others t ∧ Keeps [.cages] s t) ∧
    (let u := sendTo (peerHaddr s p.val) (.swapAck lane.val) s
     (laneActive u p.val lane.val = true →
      ∃ t, exec (.swapNotice p lane) s = .next t ∧
        PortGives u t p.val { portOf u p.val with masks := setAdd (portOf u p.val).masks lane.val } ∧ Keeps [.fab] u t) ∧
     (laneActive u p.val lane.val = false → exec (.swapNotice p lane) s = .next u))

/-- RISK_TICK and COLL_ENTRY_VALIDATE complete (R284, R366, R367, R389, R390, R461). A tick, with what the
half-life leaves of each event term (to 2^-32: the model's choice, assumption 37), shows the risk and
whether it has reached the threshold, whose crossing is logged; every term is then a millisecond older, and
what waits to be reported goes to the coordinator and breaks the epoch where it is of restart class. A legal
entry comes into force with its staging empty and its cursors at 0, and an illegal one is logged and does
not; while a RUN bit is 1 a write that changes an entry is refused. The twin (R395, R396, R408). A pairing
notes the twin's hall address and feed; equal sides conflict, equal feeds make the pair CO_FED, a twin
outside the paddock makes it SOLO, and any other one pairs. A heartbeat goes to the twin of a pair that
stands; a lost one is logged, with the rank that it takes, and the pair is LOST unless it is CO_FED, which
it stays until a reset (R397). -/
def Obligations.RiskTwinAndCollectivesComplete : Prop :=
  (∀ (decay : List Nat) (e : Fin 256) (core : BitVec 5) (desc : BitVec 12) (s : State),
      let risk := min 65535 (standing s + eventTerms s decay)
      let high : Prop := rf s 0x4004 0 16 ≤ risk
      let name := core.toNat + desc.toNat * 2 ^ 5
      let gate : Prop := hostMay s (oColl + 0x004) = true ∧
        (objTaken s none (1, oColl + 0x004, 31) = false ∨ collReg s e.val 4 = name + 2 ^ 31)
      let others (t : State) : Prop := ∀ x o, (x, o / 4) ≠ (e.val, 1) → o / 4 < 16 → collReg t x o = collReg s x o
      (decayOk s decay = false → exec (.riskTick decay) s = .next s) ∧
      (decayOk s decay = true →
        ∃ u, exec (.riskTick decay) s = .next (reportsSend u) ∧ rf u 0x4000 0 16 = risk ∧
          (rf u 0x4000 16 1 = 1 ↔ high) ∧
          (high → rf s 0x4000 16 1 = 0 → Logged s u cRISK_HIGH .global 0 .report ∧ rf u 0x4060 6 1 = 1) ∧
          ((¬ high ∨ rf s 0x4000 16 1 = 1) → RegsKeep [0x4000] s u ∧ Keeps [.regs, .log] s u ∧
            u.log = { s.log with terms := s.log.terms.map (fun e => (e.1, e.2 + 1)) }) ∧
          (devices s ≠ 0 → (reportsSend u).epoch = { s.epoch with broken := epochBroken s } ∧
            (haddrOf s 0 = some (haddr s) → (reportsSend u).log.reports = []))) ∧
      (gate → anyRun s = false → collLegal s e.val core.toNat desc.toNat = true →
        ∃ t, exec (.collEntryValidate e core desc) s = .next t ∧ collReg t e.val 4 = name + 2 ^ 31 ∧ others t ∧
          (∀ n, n < 2 ^ 24 → foldsOf t e.val n = 0) ∧ (∀ x ∈ t.fab.staged, x.entry ≠ e.val) ∧ Keeps [.fab] s t) ∧
      (gate → anyRun s = false → collLegal s e.val core.toNat desc.toNat = false →
        ∃ t, exec (.collEntryValidate e core desc) s = .next t ∧ collReg t e.val 4 = name ∧ others t ∧
          Logged s t cCOLL_ILLEGAL .coll 0 .stop ∧ rf t (oColl + 0x200) 2 1 = 1) ∧
      (gate → anyRun s = true → collReg s e.val 4 = name + 2 ^ 31 → exec (.collEntryValidate e core desc) s = .next s) ∧
      (gate → anyRun s = true → collReg s e.val 4 ≠ name + 2 ^ 31 →
        ∃ t, exec (.collEntryValidate e core desc) s = .next t ∧ Logged s t cSTATE_REFUSED .coll 0 .report ∧ Keeps [.log] s t)) ∧
  (∀ (h : BitVec 13) (side : BitVec 1) (feed : BitVec 3) (s : State),
      let x := s.boot.straps
      let notes (t : State) (v : Nat) : Prop :=
        twinState t = v ∧ twinHaddr t = h.toNat ∧ rf t 0x4018 6 3 = feed.toNat
      let pair : Instr := .twinPairing h side feed
      (twinState s ≠ 2 → side = x.twinSide →
        ∃ t, exec pair s = .next t ∧ notes t 0 ∧ Logged s t cTWIN_CONFLICT .twin 0 .report ∧ rf t 0x4060 2 1 = 1) ∧
      (twinState s ≠ 2 → side ≠ x.twinSide → feed = x.feedId →
        ∃ t, exec pair s = .next t ∧ notes t 2 ∧ Logged s t cCO_FED .twin 0 .report ∧ rf t 0x4060 2 1 = 1) ∧
      (twinState s ≠ 2 → side ≠ x.twinSide → feed ≠ x.feedId →
        ∃ t, exec pair s = .next t ∧ notes t (if member s h.toNat then 1 else 4) ∧ RegsKeep [0x4018] s t ∧ Keeps [.regs] s t) ∧
      (twinState s = 2 → ∃ t, exec pair s = .next t ∧ notes t 2 ∧ RegsKeep [0x4018] s t ∧ Keeps [.regs] s t) ∧
      (paired s = true → exec .twinHeartbeat s = .next (sendTo (twinHaddr s) .heartbeat s)) ∧
      (paired s = true → s.ckpt.cut = none → rankOf s (twinHaddr s) = none →
        ∃ t, exec .twinHeartbeatTimeout s = .next t ∧ twinState t = (if twinState s = 2 then 2 else 3) ∧ Logged s t cTWIN_LOST .twin 0 .masked ∧
          rf t 0x4060 2 1 = 1) ∧
      (∀ r, paired s = true → s.ckpt.cut = none → rankOf s (twinHaddr s) = some r →
        ∃ u t, exec .twinHeartbeatTimeout s = .next t ∧ twinState t = (if twinState s = 2 then 2 else 3) ∧ Logged s u cTWIN_LOST .twin 0 .masked ∧
          Logged u t cDEVICE_LOST .twin 0 .restart))

/-- The checkpoint of a cut (R227, R233, R266, R399 to R401, R405, R408). The shadows that this device is to send go
out first, but for one whose stacks wait. Once every Groom is frozen, and no stack of a range waits, the shadow goes
out with its manifest, its snapshot and its ranges (in flits of the form of assumption 35), and the storage image
after it; an acknowledged shadow stands in its slot; a stored one gives the checkpoint step; a Groom that has been
read goes on; and a cut with nothing left is over. A range that cannot be read fails the cut. -/
def Obligations.CheckpointCommandsComplete : Prop :=
  ∀ (c : Cut) (k : Fin 8) (slot : Fin 2) (s : State),
    let left (c : Cut) : Option Cut := if c.shadow = true ∨ c.storage = true ∨ c.read.length ≠ 8 then some c else none
    let later (x : Serving) : Bool := stackWaits s (slotBase s x.slot) (slotSize s)
    let v := servingGo s
    let ready : Prop := v.ckpt.cut = some c ∧ c.streamed = false ∧ c.frozen.length = 8
    let waits : Prop := (usedRanges v).any (fun r => stackWaits v r.1 (256 * r.2)) = true
    let twin (x : State) : State := imageSend (twinHaddr v) c.slot (c.step.toNat + 1) (manifestBytes v c 0) (cutBytes v c) x
    (s.ckpt.serving.filter (fun x => !later x) = [] → v = s) ∧
    v.ckpt.serving = s.ckpt.serving.filter later ∧
    (v.ckpt.cut = none ∨ (ready ∧ waits) → exec .shadowStream s = .next v) ∧
    (ready → ¬ waits → (rangesRead v).1 = false →
      ∃ x, (let w := if c.shadow then twin x else x
          exec .shadowStream s = .next (if c.storage then storageSend c w else w)) ∧
        x.outbox = v.outbox ++ (if c.shadow then
          [.shadow c.slot (manifestBytes v c 0) (snapshotBytes c) ((usedRanges v).map (fun r => (r.1, rangeBytes v r)))] else []) ∧
        x.ckpt = { v.ckpt with cut := some { c with streamed := true },
                               shadows := if c.shadow then tabSet none v.ckpt.shadows c.slot none else v.ckpt.shadows } ∧
        x.mem.bytes = v.mem.bytes ∧ RegsKeep accessRegs v x ∧ Keeps [.ckpt, .outbox, .mem, .regs, .log] v x) ∧
    (ready → ¬ waits → (rangesRead v).1 = true →
      ∃ t, exec .shadowStream s = .next t ∧ t.ckpt = { v.ckpt with cut := none } ∧
        (∀ n, n < 8 → groomOf t n = { groomOf v n with cutWait := false }) ∧
        Logged v t cSHADOW_FAILED .global 0 .report ∧ t.mem.bytes = v.mem.bytes) ∧
    (s.ckpt.cut = some c →
      (c.shadow = true → c.streamed = true → c.slot = slot.val →
        ∃ t, exec (.shadowAck slot (c.step + 1)) s = .next t ∧
          t.ckpt = { s.ckpt with cut := left { c with shadow := false }, shadows := tabSet none s.ckpt.shadows slot.val (some (c.step + 1)) } ∧
          rf t 0x4060 0 1 = 1 ∧ RegsKeep [0x4060] s t ∧ Keeps [.ckpt, .regs, .regs2, .host, .outbox] s t) ∧
      (c.storage = true → c.streamed = true → storageLeft s = false →
        ∃ t, exec .storageCkptDone s = .next t ∧ t.ckpt = { s.ckpt with cut := left { c with storage := false } } ∧
          reg64 t 0x4040 = (c.step + 1).toNat ∧ rf t 0x4060 1 1 = 1 ∧ RegsKeep [0x4040, 0x4044, 0x4060] s t ∧
          Keeps [.ckpt, .regs, .regs2, .host, .outbox] s t) ∧
      (c.streamed = true → k.val ∈ c.frozen →
        ∃ t, exec (.cutStateRead k) s = .next t ∧ groomOf t k.val = { groomOf s k.val with cutWait := false } ∧
          t.ckpt = { s.ckpt with cut := left { c with read := setAdd c.read k.val } } ∧ GroomsKeep k.val s t ∧
          Keeps [.ckpt, .grooms] s t))

/-- A restore, grain by grain (R227, R233, R244, R402, R405, R406). The grains that waited for a stack come
first. A grain goes where the image has it: into the manifest, the snapshot, or its address, and is
acknowledged; one whose stack waits waits, and one to a stack in TEST is refused. Once the grains asked for
are here the manifest is judged, with those of the other ranks, the rest is asked for, and at the end the
whole is judged before the run begins: its CHECKs, over what can be read. A request that times out asks
again for what is missing. The paddock stop (R284, R384, R405). The coordinator passes a report on as a stop
to every rank; a stop leaves no core and no Groom running, every queue empty and the paddock's flits gone. -/
def Obligations.RestoreAndStopComplete : Prop :=
  (∀ (x : Restore) (i : Nat) (data : List Byte) (tag : BitVec 5) (s : State), s.ckpt.restore = some x →
      let top := 16 + snapLen / 256
      let asked : Prop := ∃ e ∈ x.reqs, ∃ r, e.2 = some r ∧ r.1 ≤ i ∧ i < r.1 + r.2
      let fits (a : Nat) : Prop := top ≤ i ∧ grainAddr x.manifest i = some a ∧ a + 256 ≤ hbmTop
      let x' : Restore := { x with
        got := setAdd x.got i
        manifest := if i < 16 then x.manifest.take (256 * i) ++ data ++ x.manifest.drop (256 * (i + 1)) else x.manifest
        image := if 16 ≤ i ∧ i < top then tabSplice x.image (256 * (i - 16)) data else x.image }
      let more : Prop := ∃ e ∈ x.reqs, ∃ r, e.2 = some r ∧ x.got.length < r.2
      let m := x.manifest
      let judged := restartStop x.record (x.others.set x.rank m) s
      let waits : Prop := (mRanges m).any (fun r => stackWaits s r.2.1 (256 * r.2.2.1)) = true
      let whole := (restoreRead m s).1.any (restoredOk m ((List.range snapLen).map (fun j => tabGet 0 x.image j)))
      let go := restartGo x.record m (snapInstall ((List.range snapLen).map (fun j => tabGet 0 x.image j)) (restoreRead m s).2)
      exec (.storageReadData i data) s = .next (restoreNext (restoreGrain i data (restoreParked s))) ∧
      (x.parked = [] → restoreParked s = s) ∧
      (asked → i ∉ x.got → data.length = 256 → (∀ e ∈ x.parked, e.1 ≠ i) →
        (∀ a, fits a → stackWaits s a 256 = true →
          restoreGrain i data s = { s with ckpt := { s.ckpt with restore := some { x with parked := x.parked ++ [(i, data)] } } }) ∧
        (∀ a, fits a → stackWaits s a 256 = false → touchesTest s a 256 = true →
          ∃ t, restoreGrain i data s = t ∧ Logged s t cSTATE_REFUSED .global 0 .report ∧ Keeps [.log] s t) ∧
        ((∀ a, fits a → stackWaits s a 256 = false ∧ touchesTest s a 256 = false) →
          ∃ u, restoreGrain i data s = restoreAck x u ∧ u.ckpt = { s.ckpt with restore := some x' } ∧
            (∀ a, fits a → memRead u a 256 = data ∧ BytesKeep a 256 s u ∧ RegsKeep accessRegs s u) ∧
            ((∀ a, ¬ fits a) → Keeps [.ckpt] s u) ∧ Keeps [.mem, .ckpt, .regs, .log] s u)) ∧
      (more → restoreNext s = s) ∧
      (¬ more → x.nextGrain = 16 → x.total = 16 →
        (∀ c, judged = some c → ∃ v, restoreNext s = restartComplete c v ∧ v.ckpt = { s.ckpt with restore := none } ∧
          Logged s v c .global 0 .stop) ∧
        (judged = none → ∃ v, restoreNext s = readNext v ∧ v.ckpt.restore = some { x with total := imageGrains m } ∧
          ownRank v = (match recordRank s x.record with | some j => j % 2 ^ 13 | none => 0))) ∧
      (¬ more → x.nextGrain ≠ 16 ∨ x.total ≠ 16 →
        (x.nextGrain < x.total → restoreNext s = readNext s) ∧
        (x.total ≤ x.nextGrain → waits → restoreNext s = s) ∧
        (x.total ≤ x.nextGrain → ¬ waits → whole = true → restoreNext s = restartComplete cOK go) ∧
        (x.total ≤ x.nextGrain → ¬ waits → whole = false →
          ∃ v, restoreNext s = restartComplete cMANIFEST_BAD v ∧ v.ckpt = { s.ckpt with restore := none } ∧
            Logged s v cMANIFEST_BAD .global 0 .stop)) ∧
      (s.mem.badHbm = [] → s.mem.badSram = [] →
        (restoreRead m s).1 = some ((mRanges m).map (fun r => memRead s r.2.1 (256 * r.2.2.1)))) ∧
      (go.ckpt.restore = none ∧ go.ckpt.stopped = false ∧ go.job.seed = x.record.seed ∧ reg64 go 0x0010 = x.record.step.toNat ∧
        reg64 go 0x0018 = mF m 24 8 ∧ regGet go 0x0020 = x.record.epoch ∧ ∀ n, n < 32 → rf go (oCore n + 0x004) 0 1 = 1) ∧
      (∀ w y a n, restoreNext (restoreParked s) = w → w.ckpt.restore = some y → tabGet none y.reqs tag.toNat = some (a, n) →
        exec (.storageReadTimeout tag) s = .next (readAgain tag.toNat (a + n) (y.got ++ y.parked.map (fun e => e.1)) n a w))) ∧
  (∀ (rank : Nat) (code : W16) (s : State),
      (ownRank s = 0 → rank < devices s →
        exec (.restartReport rank code) s = .next (sendAll (.stop code) { s with epoch := { s.epoch with broken := true } })) ∧
      (∃ t, exec (.paddockStop code) s = .next t ∧ anyRun t = false ∧ t.epoch = epochReset ∧ t.exch = [] ∧
        t.ckpt.cut = none ∧ t.ckpt.restore = none ∧ t.ckpt.stopped = true ∧ t.ckpt.incoming = [] ∧ t.ckpt.serving = [] ∧
        (∀ n, n < 32 → (coreOf t n).barrows = [] ∧ (coreOf t n).chains = [] ∧ (coreOf t n).rfl = [] ∧
          (∀ q, ((coreOf t n).queue q).live = []) ∧ (coreOf t n).ctxX.pc = (coreOf t n).ctxX.entry) ∧
        (∀ k, k < 8 → (groomOf t k).active = false ∧ (groomOf t k).gop = none) ∧
        t.fab.tx = [] ∧ t.fab.rx = [] ∧ t.fab.landings = [] ∧ t.fab.staged = [] ∧ t.fab.folds = [] ∧ t.fab.arrivals = [] ∧
        t.mem = s.mem ∧
        Keeps [.cores, .grooms, .exch, .fab, .hitch, .cages, .ckpt, .epoch, .free, .regs, .regs2, .log, .host, .outbox] s t))

/-- LOAD completes (R3, R18, R29, R36 to R38, R280, R426, R430, R454). An image that passes its checks is
measured twice and begins the job at step 0 with every counter armed; one that fails a check is turned away
with the status of the first that it fails, the SVN before the signature and both before the rest (R430; the
order of R38's own checks is the model's: assumption 100). RESTART begins (R3, R392, R394, R402, R404 to
R406, R432, R454). A device that holds a shadow reads its manifest. Without a complete copy for every rank
there is no consistent set; otherwise the rows and stalls are repaired, a device whose rank changes loads
its image, and the manifests are judged: one that does not hold, copies of another step than the record's,
or what R406 lists (assumption 40). A device that has no rank is out of the paddock; the others get their
state back, from storage by requests or from the shadow that another device sends, on a map and ports that
are as the record has them. -/
def Obligations.LoadAndRestartComplete : Prop :=
  (∀ (tag : W16) (img : ProgramImage) (s b : State),
      let sh := loadShape img (devices b)
      let checks : List (W16 × Bool) :=
        [(cBOOT_ROLLBACK, decide ((regGet b (oSec + 0x024)).toNat ≤ imgSvn img.signed)),
         (cBOOT_AUTH_FAIL, imgAuth img.signed 4 (fun i => decide (1 ≤ i ∧ i ≤ 3) && rf b (oSec + 0x020) i 1 == 1)),
         (cCONTRACT_VERSION, !img.portable || Config.contractOk img.contract),
         (cSHAPE_MISMATCH, shapeFits (devices b) sh), (cCAPACITY_EXCEEDED, needsFit img)]
      Begins 0x0030 tag (fun e => decide (entryField e 16 4 = 512 + img.signed.body.length)) s b →
      isSealed b = true → anyRun b = false → b.boot.log.length + 2 ≤ 256 →
      (∀ c, (checks.find? (fun x => !x.2)).map (fun x => x.1) = some c →
        exec (.load tag img) s = .next (complete1 tag c (record c .global 0 (classOf c) .none b))) ∧
      ((∀ x ∈ checks, x.2 = true) →
        ∃ u, exec (.load tag img) s = .next (complete1 tag cOK u) ∧ reg64 u 0x0010 = 0 ∧ reg64 u 0x0018 = img.cursor.toNat ∧
          regGet u 0x0020 = 1 ∧ u.job.loaded = true ∧ u.job.heritage = sh.heritage ∧ u.job.split = img.split ∧
          u.job.seed = img.seed.getD b.job.seed ∧ u.job.shape = sh ∧ u.job.image = some img ∧ u.epoch = epochReset ∧
          u.boot.log = b.boot.log ++ [(4, imgSvn img.signed, imgDigest img.signed), (16, 0, shake256 (loweredBytes img) 64)] ∧
          (∀ n, n < 32 → (∀ j, j < 256 → (coreOf u n).ctr j = ⟨0, 0, none⟩) ∧ ∀ j, j < 512 → (coreOf u n).cc j = ⟨0, none, false⟩))) ∧
  (∀ (tag : W16) (r : RestartRecord) (seen : RestartSeen) (i : Nat) (s b : State),
      let h := manifestsRead r seen b
      let ms := h.1.filterMap (fun m => m)
      let read := ms.filter (fun m => !m.isEmpty)
      let whole : Prop := ms.length = r.ranks.length ∧ seen.manifests.length = r.ranks.length ∧ ms ≠ []
      let ends (c : W16) (t : State) : Prop :=
        exec (.restart tag ⟨r, seen⟩) s = .next (complete1 tag c (record c .global 0 .stop .none t))
      let moved : Bool := (recordRank b r).any (fun i => decide (i ≠ ownRank b ∨ devices b = 0))
      let repaired := farrierRepair seen.rows seen.stalls h.2
      let u := if moved then imageAgain r.ranks.length seen.image repaired else (none, repaired)
      let t := programsBack u.2
      let word := (r.ranks.getD i 0).toNat
      let m := ms.getD i []
      let rest (m : List Byte) (sw : Option Nat) (holder : Nat) (reqs : Tab (Option (Nat × Nat))) (next total : Nat) : Restore :=
        ⟨r, i, ms, m, sw, holder, reqs, next, total, [], [], []⟩
      let served := (r.ranks.filter (servesHere t)).map (fun w => (⟨bits w.toNat 0 13, bits w.toNat 13 2, r.step⟩ : Serving))
      let ports (w : State) : Prop :=
        ∀ p, p < 24 → (portOf w p).out = false ∧ (portOf w p).adds = [] ∧ (portOf w p).barred = []
      Begins 0x0031 tag (fun e => decide (entryField e 16 2 = r.ranks.length)) s b →
      isSealed b = true → anyRun b = false → tackNow b ≠ 3 → rankRefused b r = false →
      ((∀ w ∈ r.ranks, servesHere b w = false) → h.2 = b) ∧
      h.1.length = r.ranks.length ∧
      (∀ (j : Nat) (w : W32), r.ranks[j]? = some w → servesHere b w = false →
        h.1[j]? = some (if recordRank b r = some j ∧ bits w.toNat 13 2 = 2 then (seen.manifests.getD j none).map (fun _ => [])
          else seen.manifests.getD j none)) ∧
      (∀ (j : Nat) (w : W32), r.ranks[j]? = some w → servesHere b w = true → heldStep b (bits w.toNat 13 2) ≠ r.step.toNat → h.1[j]? = some none) ∧
      (∀ (l : List (List Byte)) (v : State),
        let same : Prop := ∀ x ∈ l, mF x 16 8 = mF (l.headD []) 16 8
        ((∃ x ∈ l, manifestOk x = false) → restartStop r l v = some cMANIFEST_BAD) ∧
        ((∀ x ∈ l, manifestOk x = true) → same → mF (l.headD []) 16 8 ≠ r.step.toNat → restartStop r l v = some cNO_CONSISTENT_SET) ∧
        ((∀ x ∈ l, manifestOk x = true) → (¬ same ∨ mF (l.headD []) 16 8 = r.step.toNat) →
          restartStop r l v = if resumeSkew v r l then some cRESUME_SKEW else none)) ∧
      (¬ whole → ends cNO_CONSISTENT_SET h.2) ∧
      (whole →
        (∀ c, u.1 = some c → ends c t) ∧
        (∀ c, u.1 = none → read ≠ [] → restartStop r read t = some c → ends c (if c = cNO_CONSISTENT_SET then h.2 else t)) ∧
        (u.1 = none → (read = [] ∨ restartStop r read t = none) →
          (recordRank t r = none →
            ∃ w, exec (.restart tag ⟨r, seen⟩) s = .next (complete1 tag cOK w) ∧ devices w = 0 ∧ ports w ∧ w.ckpt.serving = served) ∧
          (recordRank t r = some i → bits word 13 2 = 2 →
            exec (.restart tag ⟨r, seen⟩) s = .next (readNext { t with
              ckpt := { t.ckpt with serving := served, restore := some (rest [] (some (bits word 15 4)) 0 [] 0 16) } })) ∧
          (recordRank t r = some i → bits word 13 2 ≠ 2 →
            ∃ w, exec (.restart tag ⟨r, seen⟩) s = .next w ∧ w.ckpt.serving = served ∧ w.ckpt.restore = some
                (rest m none (bits word 15 13) [(0, some (16, imageGrains m - 16))] (imageGrains m) (imageGrains m)) ∧
              ownRank w = i % 2 ^ 13 ∧ devices w = r.ranks.length % 2 ^ 14 ∧ ports w ∧
              ∀ j, j < r.ranks.length → haddrOf w j = some ((r.ranks.getD j 0).toNat % 2 ^ 13)))))

/-- The seven resets of the device (R410 to R412, R436). Each leaves its cause, the next trim generation and
an empty machine with RST_OUT_N low and every engine stopped; what stands in memory stays until the boot
that follows, and every source but power-on keeps the fault log and the islands' trims. A RECOVER comes over the
recovery link, once it is up (R423, R425). -/
def Obligations.DeviceResetsComplete : Prop :=
  ∀ (d : Fin 8) (temp : Nat) (k : Fin 8) (s : State),
    let resets (i : Instr) (cause : Nat) : Prop := ∃ t, exec i s = .next t ∧ rf t 0x3000 0 3 = cause ∧
      rf t 0x3000 8 8 = (rf s 0x3000 8 8 + 1) % 256 ∧
      rf t 0x3000 16 16 = (if cause = 0 then 0 else (rf s 0x3000 16 16 + (if cause = 6 then 0 else 1)) % 65536) ∧
      t.boot.rstOut = false ∧ t.boot.released = [] ∧ t.boot.trimOk = false ∧ isSealed t = false ∧ anyRun t = false ∧
      t.cores = [] ∧ t.grooms = [] ∧ t.exch = [] ∧ t.fab = fabReset ∧ t.hitch = hitchReset ∧ t.job = jobReset ∧
      t.epoch = epochReset ∧ t.ckpt = ckptReset ∧ t.power = powerReset ∧ t.host = hostReset ∧ t.regs2 = [] ∧ t.cfg = [] ∧
      t.latches = [] ∧ t.boot.trims = (if cause = 0 then [] else s.boot.trims) ∧
      (∀ g, g < 12 → (cageSt t g).beat = false) ∧ t.mem.bytes = s.mem.bytes ∧
      ((∀ d, d < 8 → dirtyLines s d = []) → t.mem.badHbm = s.mem.badHbm) ∧
      (cause ≠ 0 → t.log.ring = s.log.ring ∧ t.log.next = s.log.next ∧ t.log.evseq = s.log.evseq) ∧
      (cause = 0 → t.log = logReset) ∧ t.pending = s.pending
    resets .powerOnReset 0 ∧ resets .vinUndervoltageReset 6 ∧ resets .rstInNReset 1 ∧ resets .watchdogReset 3 ∧
    (HostServed s 0x3004 8 → resets (.hostReset 0xD1) 2) ∧
    (115 ≤ temp → resets (.thermalTrip (.die d temp)) 4) ∧
    (rf s (oHbm k.val + 0x008) 3 2 = 3 → resets (.hbmHaltTimeout k) 4) ∧
    (inRecovery s = true → s.boot.straps.clkMode ≠ 3 → linkUp s = true → resets .twinRecover 5) ∧
    (inRecovery s = true → s.boot.straps.clkMode ≠ 3 → linkUp s = false → exec .twinRecover s = .next s) ∧
    (inRecovery s = false ∨ s.boot.straps.clkMode = 3 →
      ∃ t, exec .twinRecover s = .next t ∧ Logged s t cSTATE_REFUSED .security 0 .report ∧ Keeps [.log] s t)

/-- Trims, RST_OUT_N, straps, the end of a thermal trip and the groups' ready reports (R241, R247, R393, R412 to R419,
R432, R433). A load that passes is in force, each segment in the trims of the islands that it serves (free, assumption
105), and a third one that fails stops the device; RST_OUT_N rises on a load that has passed; the straps are latched
once, with the tack set; the stacks show READY, zeroed after a cold reset; the dies report the rows and stalls that
their self-test finds failing, which are marked for sparing. -/
def Obligations.TrimsStrapsAndGroups : Prop :=
  ∀ (segs : List (List Byte × W32)) (digest : List Byte) (x : Straps) (dies hbms : List Byte) (rows stalls : List (Fin 256))
    (s : State),
    let sel := x.tackSel.toNat
    let now := if sel = 3 then 2 else sel
    let unsettled := s.boot.trimOk = false ∧ s.boot.trimFail = false
    (unsettled → trimPass segs digest = true →
      ∃ t, exec (.trimLoadDone segs digest) s = .next t ∧ t.boot = { s.boot with trimOk := true, trims := t.boot.trims } ∧
        (∀ (k i : Nat) x, i < 64 → segs[k]? = some x → Config.trimServes k i = true →
          (⟨k, trimGen s, x.1⟩ : Trim) ∈ tabGet [] t.boot.trims i) ∧
        (∀ i, (∀ k, k < segs.length → Config.trimServes k i = false) → tabGet [] t.boot.trims i = tabGet [] s.boot.trims i) ∧
        Keeps [.boot] s t) ∧
    (unsettled → trimPass segs digest = false → s.boot.trimTries < 2 →
      ∃ t, exec (.trimLoadDone segs digest) s = .next t ∧ t.boot = { s.boot with trimTries := s.boot.trimTries + 1 } ∧
        Keeps [.boot] s t) ∧
    (unsettled → trimPass segs digest = false → 2 ≤ s.boot.trimTries →
      ∃ t, exec (.trimLoadDone segs digest) s = .next t ∧ t.boot.trimFail = true ∧ alertAsserted t = true ∧
        Logged s t cTRIM_FAIL .security 0 .stop) ∧
    (s.boot.trimOk = true → s.boot.thermTrip = false →
      ∃ t, exec .rstOutRelease s = .next t ∧ t.boot = { s.boot with rstOut := true } ∧ Keeps [.boot] s t) ∧
    (s.boot.rstOut = true → s.boot.latched = false →
      ∃ t, exec (.strapLatch x) s = .next t ∧ t.boot = { s.boot with straps := x, latched := true } ∧
        tackNow t = now ∧ tackTarget t = sel ∧ (∀ i, i < 64 → tabGet 0 t.power.tack i = now) ∧
        rf t 0x4018 3 3 = x.feedId.toNat ∧
        (x.clkMode ≠ 3 → RegsKeep [0x3040, 0x4018] s t ∧ Keeps [.boot, .power, .regs] s t) ∧
        (x.clkMode = 3 → Logged s t cSTRAP_ILLEGAL .security 0 .stop ∧ rf t oSec 16 16 = cSTRAP_ILLEGAL.toNat)) ∧
    (s.boot.thermTrip = true → dies.length = 8 → hbms.length = 8 → (∀ b ∈ dies, b.toNat < 95) →
      (∀ k b, hbms[k]? = some b → b.toNat < rf s (oHbm k + 0x014) 0 8) →
      ∃ t, exec (.thermalTripClear dies hbms) s = .next t ∧ t.boot = { s.boot with thermTrip := false } ∧ Keeps [.boot] s t) ∧
    (Group.hbmDies ∉ s.boot.ready → (∀ i ∈ hbmIslands, i ∈ s.boot.released) →
      ∃ t, exec (.groupReportedReady ⟨.hbmDies, rows, stalls⟩) s = .next t ∧
        t.boot = { s.boot with ready := s.boot.ready ++ [.hbmDies] } ∧ (∀ k, k < 8 → rf t (oHbm k + 0x008) 2 1 = 1) ∧
        (∀ a, memByte t a = if s.boot.cold = true ∧ a < hbmTop then 0 else memByte s a) ∧
        (s.boot.cold = true → t.mem.badHbm = [] ∧ t.mem.poison = [] ∧ t.mem.softHbm = []) ∧
        RegsKeep ((List.range 8).map (fun k => oHbm k + 0x008)) s t ∧ Keeps [.boot, .mem, .regs] s t) ∧
    (Group.computeDies ∉ s.boot.ready → (∀ i ∈ dieIslands, i ∈ s.boot.released) →
      ∃ t, exec (.groupReportedReady ⟨.computeDies, rows, stalls⟩) s = .next t ∧
        t.boot = { s.boot with ready := s.boot.ready ++ [.computeDies], farrier := t.boot.farrier } ∧
        (∀ i, i ∈ t.boot.farrier.rowsPend ↔ i ∈ s.boot.farrier.rowsPend ∨ ∃ x ∈ rows, x.val = i) ∧
        (∀ i, i ∈ t.boot.farrier.stallsPend ↔ i ∈ s.boot.farrier.stallsPend ∨ ∃ x ∈ stalls, x.val = i) ∧ Keeps [.boot] s t) ∧
    (∀ g ∈ s.boot.ready, exec (.groupReportedReady ⟨g, rows, stalls⟩) s = .next s)

/-- ISLAND_RELEASE and BOOT_IMAGE_FETCHED complete (R241, R298, R413, R416 to R426, R459). An island whose turn it is
runs, with clock-good shown and the trims of the current generation alone; the first of the compute dies finds their
memories zeroed; the management island takes the boot source; the first of the fabric has the plan judged, and the one
of the recovery link has its ports reset; an image that passes is measured, in M and in the log, and moves the boot
on; any other one fails the boot with its code. -/
def Obligations.BootCommandsComplete : Prop :=
  ∀ (i : Fin 64) (im : SignedImage) (s : State),
    let good := if i.val < 32 then 0x3030 else 0x3034
    let out := s.boot.released
    let freed : Boot := { s.boot with released := setAdd out i.val, trims := tabMod [] s.boot.trims i.val (fun l => l.filter (fun x => decide (x.gen = trimGen s))) }
    let turn : Prop := i.val ∉ out ∧ mayRelease s i.val = true
    let kind := s.boot.images.length + 1
    let src := rf s oSec 3 2
    let fetch : Prop := rf s oSec 0 3 < 2 ∧ 62 ∈ out ∧ 63 ∈ out ∧ kind ≤ 3
    let m := shake256 (measOf s ++ leBytes 1 kind ++ leBytes 4 (imgSvn im) ++ imgDigest im) 64
    let here : Prop := imgFormed im = true ∧ (src = 2 → linkUp s = true)
    let sure : Prop := here ∧ imgAuth im kind (bootSlot kind) = true
    let waits (t : State) : Prop := rf t oSec 0 3 = 4 ∧ VectorOut s t [] 3
    let first : Prop := ∀ q, q < 4 → 56 + q ∉ out
    let link : Prop := i.val = 56 ∧ linkPort s 0 = true
    let fails (im : Option SignedImage) (c : W16) : Prop :=
      ∃ t, exec (.bootImageFetched im) s = .next t ∧ t.boot.images = [] ∧ t.boot.log = s.boot.log ∧
        rf t oSec 16 16 = c.toNat ∧ Logged s t c .security 0 .stop ∧
        rf t oSec 0 3 = (if src = 0 ∧ rf s oSec 5 1 = 0 then 0 else 4) ∧
        (src = 1 → rf2 t 0x10 0 2 = 3 ∧ rf2 t 0x10 16 16 = c.toNat)
    (turn → (i.val < 56 ∨ i.val = 60 ∨ (i.val = 62 ∨ i.val = 63) ∧ (src ≠ 3 ∨ rf s oSec 0 3 ≠ 0)) →
      ∃ t, exec (.islandRelease i) s = .next t ∧ t.boot = freed ∧ FieldGives s t good (i.val % 32) 1 1 [] ∧
        (i.val ∈ dieIslands → diesHeld s = true →
          (∀ a, memByte t a = if hbmTop ≤ a then 0 else memByte s a) ∧ t.mem.badSram = [] ∧ t.mem.softSram = [] ∧
            t.mem.sidecar = []) ∧
        (i.val ∉ dieIslands ∨ diesHeld s = false → t.mem = s.mem) ∧ Keeps [.boot, .regs, .mem] s t) ∧
    (turn → (i.val = 62 ∧ 63 ∈ out ∨ i.val = 63 ∧ 62 ∈ out) → src = 3 → rf s oSec 0 3 = 0 →
      ∃ t, exec (.islandRelease i) s = .next t ∧ waits t) ∧
    (i.val = 61 → i.val ∉ out → s.boot.latched = true →
      ∃ t, exec (.islandRelease i) s = .next t ∧ t.boot = freed ∧
        rf t oSec 3 2 = (if s.boot.fromTwin then 2 else s.boot.straps.bootSrc.toNat) ∧
        RegsKeep [0x3034, oSec] s t ∧ (s.boot.straps.clkMode = 3 → waits t) ∧
        (s.boot.straps.clkMode ≠ 3 → Keeps [.boot, .regs] s t)) ∧
    (56 ≤ i.val → i.val < 60 → turn →
      (first → planLegal s = false →
        ∃ t, exec (.islandRelease i) s = .next t ∧ i.val ∈ t.boot.released ∧ t.boot.planOk = s.boot.planOk ∧
          Logged s t cPLAN_ILLEGAL .global 0 .stop) ∧
      (first → planLegal s = true →
        ∃ t, exec (.islandRelease i) s = .next t ∧ t.boot = { freed with planOk := true } ∧
          (¬ link → Keeps [.boot, .regs] s t)) ∧
      (¬ first → ∃ t, exec (.islandRelease i) s = .next t ∧ t.boot = freed ∧ (¬ link → Keeps [.boot, .regs] s t)) ∧
      (link → ∃ t, exec (.islandRelease i) s = .next t ∧
        ∀ p, p < 4 → portState t p = 0 ∧ (portState s p ≠ 0 → portActive t p = 0 ∧ (portOf t p).out = false))) ∧
    (¬ turn → ∃ t, exec (.islandRelease i) s = .next t ∧ FieldGives s t good (i.val % 32) 1 1 [] ∧ Keeps [.regs] s t) ∧
    (fetch → sure → fusedSvn s kind ≤ imgSvn im → s.boot.log.length < 256 →
      ∃ t, exec (.bootImageFetched (some im)) s = .next t ∧ t.boot.images = s.boot.images ++ [im] ∧
        t.boot.log = s.boot.log ++ [(kind, imgSvn im, imgDigest im)] ∧
        (∀ j, j < 16 → regGet t (oSec + 0x100 + 4 * j) = BitVec.ofNat 32 (leNat ((m.drop (4 * j)).take 4))) ∧
        rf t (oSec + 0x140) 0 9 = (rf s (oSec + 0x140) 0 9 + 1) % 512 ∧
        rf t oSec 0 3 = (if kind = 1 then 1 else if kind = 3 then 2 else rf s oSec 0 3) ∧
        (src = 1 → rf2 t 0x10 0 2 = 2 ∧ rf2 t 0x10 16 16 = 0 ∧ (rf2 s 0x10 0 2 ≠ 2 → VectorOut s t [] 2)) ∧
        (src ≠ 1 → Keeps [.boot, .regs] s t) ∧
        RegsKeep ([oSec, oSec + 0x140] ++ (List.range 16).map (fun j => oSec + 0x100 + 4 * j)) s t ∧
        Keeps [.boot, .regs, .regs2, .outbox] s t) ∧
    (fetch → fails none cBOOT_SOURCE_FAIL) ∧
    (fetch → ∀ p ∈ [(cBOOT_SOURCE_FAIL, decide (¬ here)),
        (cBOOT_AUTH_FAIL, decide (here ∧ imgAuth im kind (bootSlot kind) = false)),
        (cBOOT_ROLLBACK, decide (sure ∧ imgSvn im < fusedSvn s kind)),
        (cSTATE_REFUSED, decide (sure ∧ fusedSvn s kind ≤ imgSvn im ∧ 256 ≤ s.boot.log.length))],
      p.2 = true → fails (some im) p.1)

/-- CLOCK_LOST and the block reset complete (R413, R420, R421, R441, R457). A lost clock takes its island out of the
released ones, resets its block and is logged, and that of the management island resets the device (the request to go
idle and its timeout pass within the command: the model's choice, assumption 110); a block reset that is accepted shows
BUSY, and its end, once the block is idle or hard, shows the result with the block at its reset state and the trims
of the current generation. -/
def Obligations.BlockResetsComplete : Prop :=
  ∀ (i : Fin 64) (kind : BitVec 3) (index : BitVec 5) (w : Writer) (k n : Nat) (s : State),
    let good := if i.val < 32 then 0x3030 else 0x3034
    let gate : Prop := w = .boot ∨ HostServed s 0x3010 31
    let free : Prop := index.toNat < kindCount kind.toNat ∧ s.boot.block = none ∧ (4 ≤ kind.toNat ∨ anyRun s = false)
    let cleared := blockResetDo k n { s with boot := { s.boot with block := none } }
    let idles (u : State) : State :=
      if kind.toNat = 4 ∧ portState s index.toNat ≠ 0 then portDown index.toNat u
      else if kind.toNat = 5 then (List.range 27).foldl (fun v r => ringPark index.toNat r v) u else u
    let goes (u : State) : State := if k = 2 then arrivalsGo u else u
    (i.val ∈ s.boot.released → i.val ≠ 61 →
      ∃ v t, v.boot = { s.boot with released := setDel s.boot.released i.val } ∧ FieldGives s v good (i.val % 32) 1 0 [] ∧
        Keeps [.boot, .regs] s v ∧ exec (.clockLost i) s = .next t ∧
        (let u := islandReset i.val v
         Logged u t cCLOCK_LOST .global 0 .restart ∧ rf t 0x3038 0 16 = (rf u 0x3038 0 16 + 1) % 65536 ∧
         rf t 0x3038 16 6 = i.val ∧ RegsKeep [0x3038, 0x4060] u t ∧ Keeps [.regs, .regs2, .log, .host, .outbox] u t)) ∧
    (i.val = 61 → i.val ∈ s.boot.released →
      ∃ t, exec (.clockLost i) s = .next t ∧ rf t 0x3000 0 3 = 3 ∧ t.boot.rstOut = false ∧ t.boot.released = []) ∧
    (i.val ∉ s.boot.released → exec (.clockLost i) s = .next s) ∧
    (let u := islandReset i.val s
     (i.val < 32 → coreOf u i.val = { coreReset with sync := (coreOf u i.val).sync, ccnt := (coreOf u i.val).ccnt } ∧ CoresKeep i.val s u) ∧
     (40 ≤ i.val → i.val < 48 →
       groomOf u (i.val - 40) = { groomReset with counts := (groomOf s (i.val - 40)).counts } ∧ GroomsKeep (i.val - 40) s u) ∧
     (48 ≤ i.val → i.val < 56 → u = s) ∧
     (56 ≤ i.val → i.val < 60 → ∀ p, 6 * (i.val - 56) ≤ p → p < 6 * (i.val - 56) + 6 → portState s p ≠ 0 → portOf u p = portReset) ∧
     (i.val = 60 → ∀ g, g < 12 → cageEn s g = true → (cageSt u g).beat = false ∧ rf u (oCage g + 0x008) 0 4 = 0) ∧
     (i.val = 62 → u.regs2 = [] ∧ u.cfg = []) ∧
     (i.val = 63 → u.fab.coll = [] ∧ u.fab.order = [] ∧ u.fab.staged = [] ∧ u.fab.folds = [] ∧ u.ckpt.cut = none ∧
       u.ckpt.restore = none ∧ u.ckpt.incoming = [] ∧ u.ckpt.serving = []) ∧
     u.mem.bytes = s.mem.bytes) ∧
    (gate → ¬ free → ∃ t, exec (.blockReset kind index w) s = .next t ∧ Logged s t cSTATE_REFUSED .global 0 .report ∧
      Keeps [.log] s t) ∧
    (gate → free →
      ∃ u, exec (.blockReset kind index w) s = .next (idles u) ∧
        u.boot = { s.boot with block := some (kind.toNat, index.toNat) } ∧ rf u 0x3010 0 3 = kind.toNat ∧
        rf u 0x3010 3 5 = index.toNat ∧ rf u 0x3014 0 2 = 1 ∧ rf u 0x3014 16 16 = 0 ∧
        RegsKeep [0x3010, 0x3014] s u ∧ Keeps [.boot, .regs] s u) ∧
    (s.boot.block = some (k, n) →
      (blockQuiet s k n = false → exec .blockIdle s = .next s) ∧
      (blockQuiet s k n = true → ∃ t, exec .blockIdle s = .next (goes t) ∧ rf t 0x3014 0 2 = 2 ∧ rf t 0x3014 16 16 = 0 ∧
        RegsKeep [0x3014] cleared t ∧ Keeps [.regs] cleared t) ∧
      (∃ t, exec .blockIdleTimeout s = .next (goes t) ∧ rf t 0x3014 0 2 = 3 ∧ rf t 0x3014 16 16 = cRESET_HARD.toNat ∧
        Logged cleared t cRESET_HARD (kindBlk k) n .report ∧ RegsKeep [0x3014] cleared t ∧
        Keeps [.regs, .log] cleared t)) ∧
    coreOf (blockResetDo 0 n s) n = { coreReset with sync := (coreOf (blockResetDo 0 n s) n).sync, ccnt := (coreOf (blockResetDo 0 n s) n).ccnt } ∧
    (groomOf (blockResetDo 1 n s) n = { groomReset with counts := (groomOf s n).counts }) ∧
    (blockResetDo 2 n s).mem.bytes = s.mem.bytes ∧ portOf (blockResetDo 4 n s) n = portReset ∧
    (∀ j ∈ blockIslands k n, tabGet [] (blockResetDo k n s).boot.trims j =
      (tabGet [] s.boot.trims j).filter (fun x => decide (x.gen = trimGen s)))

/-- The seal, the mailbox and attestation complete (R423, R425 to R429, R433, R435, R454, R456). SEAL from boot code, once
the fabric is out, locks the device and shows it, raises the alert of a test port that stays open, and a seal that
comes by the timeout is logged and alerts; GO of the mailbox starts a fetch; an attestation answers with the report and
its signature by the key that the device secret gives. -/
def Obligations.SealMailboxAndAttest : Prop :=
  ∀ (tag : W16) (nonce : List Byte) (addr : W64) (s b : State),
    let r := attestBytes ((nonce ++ List.replicate 32 0).take 32) b
    let seals (t : State) : Prop := isSealed t = true ∧ rf t oSec 0 3 = 3 ∧
      rf t 0x3040 4 1 = (if s.boot.straps.tackSel = 3 then 1 else rf s 0x3040 4 1) ∧
      (∀ j, 1 ≤ j → j ≤ 3 → fusedSvn s j ≤ fusedSvn t j)
    let refused (j : Instr) : Prop :=
      ∃ t, exec j s = .next t ∧ Logged s t cSTATE_REFUSED .security 0 .report ∧ Keeps [.log] s t
    let begins : Prop := Begins 0x0020 tag (fun e => decide ((e.drop 8).take 32 = nonce ∧ entryField e 40 8 = addr.toNat)) s b
    (¬ (rf s oSec 0 3 = 2 ∧ isSealed s = false ∧ ∀ q, q < 4 → 56 + q ∈ s.boot.released) → refused .secSeal) ∧
    (isSealed s = true ∨ s.boot.straps.clkMode = 3 → refused .mailboxGo) ∧
    (isSealed s = false → inRecovery s = false → ¬ (rf s oSec 3 2 = 1 ∧ rf s oSec 0 3 < 2) → refused .mailboxGo) ∧
    let fetches (t : State) : Prop := rf2 t 0x10 0 2 = 1 ∧ rf2 t 0x10 16 16 = rf2 s 0x10 16 16 ∧ Regs2Keep [0x10, 0x5000] s t ∧
      (rf2 s 0x10 0 2 ≠ 1 → VectorOut s t [] 2) ∧ (rf2 s 0x10 0 2 = 1 → t.outbox = s.outbox)
    (rf s oSec 0 3 = 2 → isSealed s = false →
      ((∀ q, q < 4 → 56 + q ∈ s.boot.released) →
        ∃ t, exec .secSeal s = .next t ∧ seals t ∧ RegsKeep [oSec, oSec + 0x004, 0x3040] s t ∧
          (rf s (oSec + 0x060) 0 2 = 3 → alertAsserted t = true ∧ VectorOut s t [] 3) ∧
          (rf s (oSec + 0x060) 0 2 ≠ 3 → Keeps [.boot, .regs] s t) ∧ Keeps [.boot, .regs, .regs2, .outbox] s t) ∧
      (∃ t, exec .sealTimeout s = .next t ∧ seals t ∧ t.boot.sealTimedOut = true ∧ alertAsserted t = true ∧
        Logged s t cSEAL_TIMEOUT .security 0 .report)) ∧
    (isSealed s = false → s.boot.straps.clkMode ≠ 3 → rf s oSec 3 2 = 1 → rf s oSec 0 3 < 2 →
      ∃ t, exec .mailboxGo s = .next t ∧ fetches t ∧ Keeps [.regs2, .outbox] s t) ∧
    (isSealed s = false → s.boot.straps.clkMode ≠ 3 → inRecovery s = true →
      ∃ t, exec .mailboxGo s = .next t ∧ fetches t ∧ rf t oSec 0 3 = 0 ∧ rf t oSec 3 2 = 1 ∧ t.boot = { s.boot with images := [] } ∧
        RegsKeep [oSec] s t ∧ Keeps [.boot, .regs, .regs2, .outbox] s t) ∧
    (begins → isSealed b = true → CplReady b tag →
      ∃ t, exec (.attest tag nonce addr) s = .next t ∧
        VectorOut b t [.report addr (r ++ Config.ed448Sign identityPriv (shake256 r 64)),
          .completion (cplBytes tag cOK 0 0 0 (ringPhase b oCpl))] 0 ∧
        t.host.running = (runDone tag b).2.host.running ∧ Keeps [.host, .regs2, .outbox] b t) ∧
    (begins → isSealed b = false → CplReady b tag →
      ∃ t, exec (.attest tag nonce addr) s = .next t ∧ Completed b t tag cSTATE_REFUSED 0 0 0 ∧
        Logged b t cSTATE_REFUSED .global 0 .report)

/-- The tack set (R431 to R434, R454, R455, R464). A request is shown, with BUSY while it changes; each island takes
the target in its turn: what its clock counts holds while the clock stops, and a stack enters self-refresh with Rest and
leaves it; and once all have it, NOW does too and the commands that wait are completed. -/
def Obligations.TackCommandsComplete : Prop :=
  ∀ (tag : W16) (x : BitVec 2) (i : Fin 64) (s b : State),
    let t := x.toNat
    let o := oHbm (i.val - 40) + 0x008
    let stack : Prop := 40 ≤ i.val ∧ i.val < 48
    let asks (s u : State) : Prop := tackTarget u = t ∧ tackNow u = tackNow s ∧
      tackBusy u = (tackBusy s || decide (tackNow s ≠ t)) ∧ RegsKeep [0x3040] s u
    (Begins 0x0010 tag (fun e => decide (entryField e 8 1 = t)) s b →
      (isSealed b = true → tackRefused t b = false → (tackBusy b = true ∨ tackNow b ≠ t) →
        ∃ u, exec (.tackSet tag x) s = .next u ∧ asks b u ∧ Keeps [.regs] b u) ∧
      (isSealed b = true → tackBusy b = false → tackNow b = t → tackRefused t b = false → CplReady b tag →
        ∃ u, exec (.tackSet tag x) s = .next u ∧ asks b u ∧ Completed b u tag cOK 0 0 0 ∧
          Keeps [.regs, .regs2, .host, .outbox] b u) ∧
      (isSealed b = false ∨ tackRefused t b = true → CplReady b tag →
        ∃ u, exec (.tackSet tag x) s = .next u ∧ Completed b u tag cSTATE_REFUSED 0 0 0 ∧
          Logged b u cSTATE_REFUSED .global 0 .report ∧ u.power = b.power ∧ regGet u 0x3040 = regGet b 0x3040)) ∧
    (HostWrites s 0x3040 0 2 t → (tackTarget s = t ∨ tackRefused t s = false) →
      ∃ u, exec (.tackTargetWrite x) s = .next u ∧ asks s u ∧ Keeps [.regs] s u) ∧
    (HostWrites s 0x3040 0 2 t → tackTarget s ≠ t → tackRefused t s = true →
      ∃ u, exec (.tackTargetWrite x) s = .next u ∧ Logged s u cSTATE_REFUSED .global 0 .report ∧ Keeps [.log] s u) ∧
    (tackBusy s = false → exec (.tackIslandSwitch i) s = .next s) ∧
    (tackBusy s = true →
      ∃ u, exec (.tackIslandSwitch i) s =
          .next (if stack ∧ tabGet 0 s.power.tack i.val = 3 ∧ tackTarget s ≠ 3 then arrivalsGo u else u) ∧
        tabGet 0 u.power.tack i.val = tackTarget s ∧
        (∀ j, j ≠ i.val → tabGet 0 u.power.tack j = tabGet 0 s.power.tack j) ∧
        u.power = { s.power with tack := u.power.tack } ∧
        (stack → rf u o 2 1 = b2n (decide (tackTarget s ≠ 3 ∧ Group.hbmDies ∈ s.boot.ready))) ∧
        (tackTarget s ≠ 3 ∨ tabGet 0 s.power.tack i.val = 3 → RegsKeep (if stack then [o] else []) s u ∧ Keeps [.power, .regs] s u) ∧
        RegsKeep ((if stack then [o] else []) ++ islandCounts i.val ++ (islandCounts i.val).map (fun r => r + 4)) s u ∧
        Keeps [.power, .regs, .free] s u) ∧
    (tackBusy s = true → (∀ j, j < 64 → tabGet 0 s.power.tack j = tackTarget s) →
      ∃ u, exec .tackChangeDone s = .next u ∧ tackNow u = tackTarget s ∧ tackTarget u = tackTarget s ∧ tackBusy u = false ∧
        (∀ c, s.host.running = [c] → c.begun = true → entryOp c.entry = 0x0010 → entryTag c.entry = tag → CplReady s tag →
          Completed s u tag cOK 0 0 0) ∧
        ((∀ c ∈ s.host.running, ¬ (c.begun = true ∧ entryOp c.entry = 0x0010)) → Keeps [.regs] s u) ∧
        RegsKeep [0x3040] s u ∧ Keeps [.regs, .regs2, .host, .outbox] s u) ∧
    ((tackBusy s = false ∨ ∃ j, j < 64 ∧ tabGet 0 s.power.tack j ≠ tackTarget s) → exec .tackChangeDone s = .next s)

/-- Power and heat (R242, R431, R440, R442 to R444, R458). A tick shows the two averages and moves the cap's clock
(assumption 112) by 50 MHz, down above the cap and up below it; each island runs at the lowest of what its tack set,
the cap and its die's heat ask for, and GLB_PWR_STAT shows the lowest of the compute islands; a rail fault and a power
limit that fails are logged and alert; a die that reaches HOT is logged once, slows the clock and alerts, and is
cleared 5 °C below; PEAK takes NOW. -/
def Obligations.PowerCommandsComplete : Prop :=
  ∀ (a1 a10 : W16) (d : Fin 8) (temp : Byte) (s : State),
    let cap := effCap s
    let above : Prop := cap < a1.toNat ∨ 5 * cap < 4 * a10.toNat
    let below : Prop := 100 * a1.toNat < 95 * cap
    let o := 0x1020 + 4 * d.val
    let hot := rf s 0x1010 0 8
    let top := topMhz s
    let lim := s.power.capLimit
    let shows (t : State) : Prop := rf t o 0 8 = temp.toNat ∧ rf t o 8 8 = max (rf s o 8 8) temp.toNat
    let alerts (t : State) (bit : Nat) (code : W16) (b : Blk) (n : Nat) : Prop := rf t 0x2000 bit 1 = 1 ∧
      alertAsserted t = true ∧ Logged s t code b n .report ∧ VectorOut s t [] 3
    let fails : Prop := capped s = true ∧ lim ≤ 600 ∧ cap < rf s 0x1004 0 16
    (∃ t, exec (.powerCapTick a1 a10) s = .next t ∧ rf t 0x1004 0 16 = a1.toNat ∧
      rf t 0x1004 16 16 = max (rf s 0x1004 16 16) a10.toNat ∧
      t.power = { s.power with capLimit := t.power.capLimit } ∧
      (above → 600 < top → t.power.capLimit = max 600 (min lim top - 50)) ∧
      (¬ above → below → lim < top → top ≤ lim + 50 → 1800 ≤ t.power.capLimit) ∧
      (¬ above → below → lim < top → lim + 50 < top → t.power.capLimit = lim + 50) ∧
      ((above → top ≤ 600) → (¬ above → ¬ below ∨ top ≤ lim) → t.power.capLimit = lim) ∧
      RegsKeep [0x1004] s t ∧ Keeps [.regs, .power] s t) ∧
    (∀ i, i < 32 →
      let m := [1800, 1500, 1200, 0].getD (min 3 (tabGet 0 s.power.tack i)) 0
      let slow : Prop := i / 4 ∈ s.power.hot ∨ 2 ≤ rf s (oHbm (i / 4) + 0x008) 3 2
      (slow → islandMhz s i = some (min (min m lim) (m * 3 / 4))) ∧ (¬ slow → islandMhz s i = some (min m lim))) ∧
    (let shown := bits (regVal s 0x1008).toNat 16 12
     (∀ i m, i < 32 → i ∈ s.boot.released → islandMhz s i = some m → shown ≤ m) ∧
     ((∃ i, i < 32 ∧ i ∈ s.boot.released) → ∃ i, i < 32 ∧ i ∈ s.boot.released ∧ islandMhz s i = some shown)) ∧
    (∃ t, exec .railFault s = .next t ∧ alerts t 4 cRAIL_FAULT .global 0) ∧
    (fails → ∃ t, exec .powerLimitFail s = .next t ∧ alerts t 5 cPOWER_LIMIT_FAIL .global 0) ∧
    (¬ fails → exec .powerLimitFail s = .next s) ∧
    (hot ≤ temp.toNat → d.val ∉ s.power.hot →
      ∃ t, exec (.dieHot d temp) s = .next t ∧ shows t ∧ alerts t 6 cDIE_HOT .die d.val ∧
        t.power = { s.power with hot := setAdd s.power.hot d.val }) ∧
    ((temp.toNat < hot ∨ d.val ∈ s.power.hot) →
      ∃ t, exec (.dieHot d temp) s = .next t ∧ shows t ∧ RegsKeep [o] s t ∧ Keeps [.regs] s t) ∧
    (hot < temp.toNat + 5 →
      ∃ t, exec (.dieHotClear d temp) s = .next t ∧ shows t ∧ RegsKeep [o] s t ∧ Keeps [.regs] s t) ∧
    (temp.toNat + 5 ≤ hot →
      ∃ t, exec (.dieHotClear d temp) s = .next t ∧ shows t ∧
        t.power = { s.power with hot := setDel s.power.hot d.val } ∧ RegsKeep [o] s t ∧ Keeps [.regs, .power] s t) ∧
    (HostServed s o 31 →
      ∃ t, exec (.dieTempPeakClr d) s = .next t ∧ FieldGives s t o 8 8 (rf s o 0 8) [] ∧ Keeps [.regs] s t)

/-- The host rings complete (R453 to R455, R457). CMD_TAIL takes an index inside the ring; the next entry leaves
the ring and is in execution, or is completed at once with CMD_ILLEGAL where its opcode or kind is reserved; a
link that goes down takes the rings out of service with the commands' completions, and the host's open
hitches away. A host command whose accepted entry is not there, or not yet next of its hitch, leaves the state as it is
(the model's choice: assumption 2). -/
def Obligations.HostRingsComplete : Prop :=
  ∀ (tail : BitVec 13) (entry : List Byte) (tag num : W16) (s : State),
    let head := rf2 s (oCmd + 0xC) 0 13
    let headNext := (head + 1) % ringSize s oCmd
    let ofHitch (e : List Byte) : Bool := decide (entryNum e = some num)
    (isSealed s = true → tail.toNat < ringSize s oCmd →
      ∃ t, exec (.cmdDoorbell tail) s = .next t ∧ rf2 t (oCmd + 0x10) 0 13 = tail.toNat ∧
        Regs2Keep [oCmd + 0x10] s t ∧ Keeps [.regs2] s t) ∧
    (isSealed s = false →
      ∃ t, exec (.cmdDoorbell tail) s = .next t ∧ Logged s t cSTATE_REFUSED .security 0 .report ∧ Keeps [.log] s t) ∧
    (isSealed s = true → ringSize s oCmd ≤ tail.toNat →
      ∃ t, exec (.cmdDoorbell tail) s = .next t ∧ ringOn t oCmd = false ∧ Logged s t cRING_BAD .global 0 .report ∧
        Regs2Keep [oCmd + 8] s t ∧ Keeps [.regs2, .log] s t) ∧
    (mayAccept s = false → exec (.cmdAccept entry) s = .next s) ∧
    (mayAccept s = true → cmdIllegal entry = false → entryVoid entry = false →
      ∃ t, exec (.cmdAccept entry) s = .next t ∧ rf2 t (oCmd + 0xC) 0 13 = headNext % 2 ^ 13 ∧
        t.host = { s.host with running := s.host.running ++ [⟨entry, false, false⟩] } ∧
        Regs2Keep [oCmd + 0xC] s t ∧ Keeps [.regs2, .host] s t) ∧
    (mayAccept s = true → cmdIllegal entry = true → CplReady s (entryTag entry) →
      ∃ t, exec (.cmdAccept entry) s = .next t ∧ rf2 t (oCmd + 0xC) 0 13 = headNext % 2 ^ 13 ∧
        Completed s t (entryTag entry) cCMD_ILLEGAL 0 0 0 ∧ Logged s t cCMD_ILLEGAL .global 0 .report ∧
        Keeps [.regs2, .host, .outbox, .log] s t) ∧
    (mayAccept s = true → cmdIllegal entry = false → entryVoid entry = true → CplReady s (entryTag entry) →
      ∃ t, exec (.cmdAccept entry) s = .next t ∧ rf2 t (oCmd + 0xC) 0 13 = headNext % 2 ^ 13 ∧
        Completed s t (entryTag entry) cSTATE_REFUSED 0 0 0 ∧ Logged s t cSTATE_REFUSED .global 0 .report ∧
        Keeps [.regs2, .host, .outbox, .log] s t) ∧
    (hostTurn 0x0003 tag ofHitch s = none → exec (.hitchCommit tag num) s = .next s) ∧
    (hostTurn 0x0004 tag ofHitch s = none → exec (.hitchAbort tag num) s = .next s) ∧
    (hostTurn 0x0005 tag ofHitch s = none → exec (.hitchQuery tag num) s = .next s) ∧
    (∀ x : BitVec 2, hostTurn 0x0010 tag (fun e => decide (entryField e 8 1 = x.toNat)) s = none →
      exec (.tackSet tag x) s = .next s) ∧
    (∃ t, exec .pcieReset s = .next t ∧ (∀ r ∈ [oCmd, oCpl, oEvt], ringOn t r = false) ∧ t.cfg = [] ∧
      (∀ o, o < 0x1000 → reg2Get t o = reg2Get s o) ∧ t.host.waiting = [] ∧ t.host.evWait = [] ∧
      t.host.running = s.host.running.map (fun c => { c with mute := true }) ∧
      (∀ h ∈ t.hitch.coord, ¬ (h.src = .host ∧ h.st = .opened)) ∧
      (∀ h ∈ s.hitch.coord, ¬ (h.src = .host ∧ h.st = .opened) → h ∈ t.hitch.coord) ∧
      Keeps [.cfg, .regs2, .host, .hitch] s t)

/-- REGISTER_READ completes (R11, R12, R33, R428, R451, R458, R464). After the seal an aligned read answers the
register's value, but for the bits that nothing keeps; a count of cycles goes on first, by a free amount (assumption
101), where its clock runs; a LO register latches its HI, which then shows the latched word; the peak of the power
average starts anew, and nothing else changes; before it a read is refused and answers 0, but for the mailbox.
Configuration space answers always, with the device and class. An access of another width, or one that is not aligned,
is an unsupported request. -/
def Obligations.RegisterReadsComplete : Prop :=
  ∀ (b : Bar) (off : Nat) (s : State),
    let answers (t : State) (v : W32) : Prop := t.hostRead = v ∧ t.outbox = s.outbox ++ [.readData v]
    let hi := decide (4 ≤ off) && isLo (off - 4)
    let u := countOn off s
    let kept (o : Nat) (v : W32) : Prop := v &&& ~~~freeMask s o = regVal u o &&& ~~~freeMask s o
    (off % 4 = 0 → isSealed s = true → hi = false → off ≠ 0x1004 →
      ∃ t v, exec (.registerRead .bar0 off) s = .next t ∧ answers t v ∧ kept off v ∧
        (isLo off = true → kept (off + 4) (tabGet (regReset (off + 4)) t.latches (off + 4))) ∧
        (∀ o, ¬ (isLo off = true ∧ o = off + 4) → tabGet (regReset o) t.latches o = tabGet (regReset o) s.latches o) ∧
        RegsKeep [] u t ∧ Keeps [.hostRead, .outbox, .latches, .free] u t) ∧
    (RegsKeep [off, off + 4] s u ∧ Keeps [.regs, .free] s u ∧
      (countIsland off = none → u = s) ∧
      (∀ i, countIsland off = some i → clockRuns s i = false ∨ countMay s off = false → u = s)) ∧
    (off % 4 = 0 → isSealed s = true → hi = true →
      ∃ t, exec (.registerRead .bar0 off) s = .next t ∧ answers t (tabGet (regReset off) s.latches off) ∧
        Keeps [.hostRead, .outbox, .free] s t) ∧
    (isSealed s = true →
      ∃ t, exec (.registerRead .bar0 0x1004) s = .next t ∧ answers t (regVal s 0x1004) ∧ rf t 0x1004 16 16 = 0 ∧
        rf t 0x1004 0 16 = rf s 0x1004 0 16 ∧ RegsKeep [0x1004] s t ∧ Keeps [.hostRead, .outbox, .regs] s t) ∧
    (off % 4 = 0 → (isSealed s = true ∨ inMailbox off = true) →
      ∃ t, exec (.registerRead .bar2 off) s = .next t ∧ answers t (if bar2Fields off = [] then 0 else reg2Get s off) ∧
        Keeps [.hostRead, .outbox] s t) ∧
    (off % 4 = 0 →
      ∃ t, exec (.registerRead .cfg off) s = .next t ∧ answers t (cfgVal s off) ∧ Keeps [.hostRead, .outbox] s t) ∧
    (s.cfg = [] → bits (cfgVal s 0x000).toNat 16 16 = 0x8640 ∧ bits (cfgVal s 0x000).toNat 0 16 = Config.pcieVendor.toNat ∧
      bits (cfgVal s 0x008).toNat 8 24 = 0x120000) ∧
    (off % 4 = 0 → isSealed s = false → (b = .bar0 ∨ b = .bar2 ∧ inMailbox off = false) →
      ∃ t, exec (.registerRead b off) s = .next t ∧ answers t 0 ∧ Logged s t cSTATE_REFUSED .security 0 .report ∧
        Keeps [.hostRead, .outbox, .log] s t) ∧
    (off % 4 ≠ 0 ∨ b = .other → ∃ t, exec (.registerRead b off) s = .next t ∧ t.outbox = s.outbox ++ [.unsupported] ∧
      cf t 0x104 20 1 = 1 ∧ Keeps [.outbox, .cfg] s t)

/-- REGISTER_WRITE completes (R11, R12, R16, R287, R428, R451, R453, R459, R461). A served write of BAR0 that the state
does not refuse has its effect, which for a register that only stores is: RW and LK fields take the value, W1C bits
written 1 clear, and no other bit and no other register changes; offsets without fields discard it. A write of BAR2
sets a ring's registers, the mailbox's, or the masks of MSI-X, and one of configuration space its RW fields: a vector that
was pending and may be sent by then is sent (assumption 107). A refused write changes no register and is recorded. -/
def Obligations.RegisterWritesComplete : Prop :=
  ∀ (off : Nat) (v : W32) (w : Writer) (s : State),
    let l := fieldsOf off
    let d := changedBits s off v .rw ||| changedBits s off v .lk
    let may : Prop := w = .boot ∨ hostMay s off = true
    let locked : Prop := isSealed s = true ∧ changedBits s off v .lk ≠ 0
    let sealing : Prop := w = .host ∧ off = oSec + 0x004 ∧ bits v.toNat 0 1 = 1
    let served := may ∧ ¬ locked ∧ ¬ sealing ∧ touchesHeld s off v = false
    let plain : Bool := match whereIs off with
      | .cage _ o => o != 0x004
      | .sec o => o != 0x004
      | .port _ o => o != 0x044
      | .die _ o => o != 0x004 && o != 0x00C
      | _ => false
    let stores (t : State) : Prop := ∀ i, i < 32 → (regGet t off).getLsbD i =
      ((if (accMask l .rw ||| accMask l .lk).getLsbD i then v.getLsbD i else (regGet s off).getLsbD i) &&
        !((accMask l .w1c).getLsbD i && v.getLsbD i))
    let write : Instr := .registerWrite .bar0 off v w
    let write2 : Instr := .registerWrite .bar2 off v w
    let refused (i : Instr) (b : Blk) (n : Nat) : Prop :=
      ∃ t, exec i s = .next t ∧ Logged s t cSTATE_REFUSED b n .report ∧ Keeps [.log] s t
    let stores2 (t : State) : Prop := ∀ i, i < 32 → (reg2Get t off).getLsbD i =
      if (accMask (bar2Fields off) .rw).getLsbD i then v.getLsbD i else (reg2Get s off).getLsbD i
    let kept2 : Prop := ∃ t, exec write2 s = .next t ∧ stores2 t ∧ Regs2Keep [off] s t ∧ Keeps [.regs2] s t
    let open_ : Prop := isSealed s = true
    let sends (u t : State) : Prop := ∀ v, v < 4 → msixOpen u v = true → rf2 t 0x5000 v 1 = 0 ∧
      (rf2 u 0x5000 v 1 = 1 → Out.msix v ∈ t.outbox)
    (∀ b, off % 4 ≠ 0 ∨ b = .other →
      (w = .boot → exec (.registerWrite b off v w) s = .next s) ∧
      (w = .host → ∃ t, exec (.registerWrite b off v w) s = .next t ∧ t.outbox = s.outbox ++ [.unsupported] ∧
        cf t 0x104 20 1 = 1 ∧ Keeps [.outbox, .cfg] s t)) ∧
    (off % 4 = 0 → w = .boot ∨ (off = 0x044 ∧ v.toNat % 4 ∈ [1, 2]) → exec (.registerWrite .cfg off v w) s = .next s) ∧
    (off % 4 = 0 → w = .host → ¬ (off = 0x044 ∧ v.toNat % 4 ∈ [1, 2]) →
      ∃ u, exec (.registerWrite .cfg off v w) s = .next (msixGo (ringsResume u)) ∧
        (∀ i, i < 32 → (cfgGet u off).getLsbD i =
          ((if (accMask (cfgFields off) .rw).getLsbD i then v.getLsbD i else (cfgGet s off).getLsbD i) &&
            !((accMask (cfgFields off) .w1c).getLsbD i && v.getLsbD i))) ∧
        (∀ o, o ≠ off → cfgGet u o = cfgGet s o) ∧ Keeps [.cfg] s u ∧
        sends (ringsResume u) (msixGo (ringsResume u))) ∧
    (off % 4 = 0 → may → l = [] → exec write s = .next s) ∧
    (off % 4 = 0 → l ≠ [] →
      (served → writeRefused s off d.toNat v.toNat = false → exec write s = .next (writeEffect off v s)) ∧
      (served → writeRefused s off d.toNat v.toNat = false → plain = true →
        ∃ t, exec write s = .next t ∧ stores t ∧ RegsKeep [off] s t ∧ Keeps [.regs] s t) ∧
      (served → writeRefused s off d.toNat v.toNat = true → refused write (writeBlk off).1 (writeBlk off).2) ∧
      (may → locked ∨ sealing → refused write .security 0) ∧
      (may → ¬ locked → ¬ sealing → touchesHeld s off v = true → refused write .global 0)) ∧
    (off % 4 = 0 → w = .host → hostMay s off = false → refused write .security 0) ∧
    (off % 4 = 0 → isSealed s = false → inMailbox off = false → refused write2 .security 0) ∧
    (off = 0x000C → exec write2 s = .next (if bits v.toNat 0 1 = 1 then mailboxGo s else s)) ∧
    (off % 4 = 0 → off < 0x1000 → off ≠ 0x000C → bar2Fields off ≠ [] → kept2) ∧
    (off % 4 = 0 → 0x4000 ≤ off → off < 0x5000 → bar2Fields off ≠ [] → open_ →
      ∃ u, exec write2 s = .next (msixGo u) ∧ stores2 u ∧ Regs2Keep [off] s u ∧ Keeps [.regs2] s u ∧ sends u (msixGo u)) ∧
    (off = 0x5000 → open_ → exec write2 s = .next s) ∧
    (off % 4 = 0 → open_ ∨ off < 0x1000 → off ≠ 0x000C → bar2Fields off = [] → exec write2 s = .next s) ∧
    (∀ r ∈ [oCmd, oCpl, oEvt],
      (off = r ∨ off = r + 4 → open_ →
        let changes := (reg2Get s off ^^^ v) &&& accMask (bar2Fields off) .rw ≠ 0
        (ringOn s r = true → changes → refused write2 .global 0) ∧ (ringOn s r = false ∨ ¬ changes → kept2)) ∧
      (off = r + 8 → open_ →
        let n := bits v.toNat 0 4
        let held : Prop := ringOn s r = true ∧ n ≠ rf2 s off 0 4
        (held → refused write2 .global 0) ∧ (¬ held → 4 ≤ n → n ≤ 12 → kept2) ∧
        (¬ held → n < 4 ∨ 12 < n →
          ∃ t, exec write2 s = .next t ∧ ringOn t r = false ∧ Logged s t cRING_BAD .global 0 .report ∧
            Regs2Keep [off] s t ∧ Keeps [.regs2, .log] s t))) ∧
    (off = oCmd + 0x10 → open_ → exec write2 s = .next (cmdDoorbell (BitVec.ofNat 13 v.toNat) s)) ∧
    (off = oEvt + 0x0C → open_ → kept2) ∧
    (off = oCmd + 0x0C ∨ off = oCpl + 0x10 ∨ off = oEvt + 0x10 → open_ → exec write2 s = .next s) ∧
    (off = oCpl + 0x0C → open_ →
      ∃ u, exec write2 s = .next (cplDrain u.host.waiting.length u) ∧ stores2 u ∧ Regs2Keep [off] s u ∧ Keeps [.regs2] s u)

/-- Where a context may enqueue (R44): the primary context into F, B and W, the filler context into X, and into W
only in the split form (R25). Any other ENQ is refused with STATE_REFUSED: the context stops at it, every queue
is as it was, and the refusal is logged. One that names a queue it may use is not refused for its queue. -/
def Obligations.EnqueueRefused : Prop :=
  ∀ (c : Fin 32) (x : Ctx) (f : CtlF) (s : State),
    let q := enqQueue f
    let bad := (x = .primary ∧ q = .X) ∨ (x = .filler ∧ q ≠ .X) ∨ (q = .W ∧ rf s (oCore c.val + 0x004) 1 1 = 0)
    CtlAt s c.val x 0x80 f →
    (enqRefused s c.val x q = true ↔ bad) ∧
    (bad →
      exec (.enq c x) s = .next (ctlFault c.val x cSTATE_REFUSED s) ∧
      ∀ cls, let t := ctxFault c.val x cSTATE_REFUSED cls s
        (∀ r, (coreOf t c.val).queue r = (coreOf s c.val).queue r) ∧ rf t (oCore c.val + 0x060) (runBit x) 1 = 0 ∧
        ((coreOf t c.val).ctx x).pc = ((coreOf s c.val).ctx x).pc ∧ Logged s t cSTATE_REFUSED .core c.val cls)

/-- GSKIP (R255): its descriptor must name an arrival count, or it halts with DESC_MISMATCH; the step is skipped when
the descriptor's NONFINITE or the count's NF is 1, and both become 0. A skip that is decided is counted in the
Groom's registers (R267). -/
def Obligations.GskipDecides : Prop :=
  ∀ (k : Fin 8) (di : BitVec 10) (s : State),
    let g := groomOf s k.val
    let pc := groomPc s k.val + 1
    let o := oGroom k.val
    let d := tabGet descReset g.desc di.toNat
    let h := dCCOUNT d
    let v := tabGet gcntReset g.counts (handleIndex h)
    let arrival := 1 ≤ handleHolder h ∧ handleHolder h ≤ 8 ∧ handleIndex h < 128
    GroomAt s k.val 0xC1 (.gskip di) → g.skipDone = false → dVALID d ≠ 0 →
    (¬ arrival → ∃ t, exec (.gskip k) s = .next t ∧ GroomHalted s t k.val cDESC_MISMATCH (classOf cDESC_MISMATCH)) ∧
    (arrival → descBad d = false →
      let skip := dNF d || v.nf
      ∃ t, exec (.gskip k) s = .next t ∧
        (let desc := tabSet descReset g.desc di.toNat (dSet d 233 1 0)
         let counts := tabSet gcntReset g.counts (handleIndex h) { v with nf := false }
         GroomGives s t k.val { g with desc := desc, counts := counts, skip := skip, skipDone := true } pc
          (if skip then [o + 0x050, o + 0x054, o + 0x058, o + 0x060] else [])) ∧
        (skip = true → regGet t (o + 0x050) = regGet s (o + 0x050) + 1 ∧ reg64 t (o + 0x054) = groomSection s k.val ∧
          rf t (o + 0x060) 1 1 = 1))
end

