-- ==== Sys2Proof/Laws/Hide.lean ====
section
/-!
SUPPORT. Frames by rewriting: a state with some parts hidden, and how hiding passes through
conditionals and folds. A function that changes the parts listed at most leaves the rest of the hidden
state as it was.
-/
namespace Sys2Proof.Machine

/-- The state with the parts of `L` hidden. -/
def hide (L : List Part) (s : State) : State :=
  { pending := if .pending ∈ L then [] else s.pending
    free := if .free ∈ L then 0 else s.free
    hostRead := if .hostRead ∈ L then 0 else s.hostRead
    regs := if .regs ∈ L then [] else s.regs
    regs2 := if .regs2 ∈ L then [] else s.regs2
    cfg := if .cfg ∈ L then [] else s.cfg
    latches := if .latches ∈ L then [] else s.latches
    mem := if .mem ∈ L then memReset else s.mem
    cores := if .cores ∈ L then [] else s.cores
    grooms := if .grooms ∈ L then [] else s.grooms
    exch := if .exch ∈ L then [] else s.exch
    fab := if .fab ∈ L then fabReset else s.fab
    hitch := if .hitch ∈ L then hitchReset else s.hitch
    cages := if .cages ∈ L then [] else s.cages
    job := if .job ∈ L then jobReset else s.job
    epoch := if .epoch ∈ L then epochReset else s.epoch
    ckpt := if .ckpt ∈ L then ckptReset else s.ckpt
    boot := if .boot ∈ L then bootReset else s.boot
    power := if .power ∈ L then powerReset else s.power
    log := if .log ∈ L then logReset else s.log
    host := if .host ∈ L then Machine.hostReset else s.host
    outbox := if .outbox ∈ L then [] else s.outbox }

/-- Hiding gives the frame. -/
theorem keeps_of_hide {L : List Part} {s t : State} (h : hide L t = hide L s) : Keeps L s t := by
  intro p hp
  unfold hide at h
  simp only [State.mk.injEq] at h
  cases p <;> simp only [hp, if_false] at h <;> simp only [Part.same, h]

/-! ### One part replaced -/

theorem hide_pending {L : List Part} (h : Part.pending ∈ L) (s : State) (v : List Instr) :
    hide L { s with pending := v } = hide L s := by simp only [hide, h, if_true]
theorem hide_free {L : List Part} (h : Part.free ∈ L) (s : State) (v : Nat) :
    hide L { s with free := v } = hide L s := by simp only [hide, h, if_true]
theorem hide_hostRead {L : List Part} (h : Part.hostRead ∈ L) (s : State) (v : W32) :
    hide L { s with hostRead := v } = hide L s := by simp only [hide, h, if_true]
theorem hide_regs {L : List Part} (h : Part.regs ∈ L) (s : State) (v : Tab W32) :
    hide L { s with regs := v } = hide L s := by simp only [hide, h, if_true]
theorem hide_regs2 {L : List Part} (h : Part.regs2 ∈ L) (s : State) (v : Tab W32) :
    hide L { s with regs2 := v } = hide L s := by simp only [hide, h, if_true]
theorem hide_cfg {L : List Part} (h : Part.cfg ∈ L) (s : State) (v : Tab W32) :
    hide L { s with cfg := v } = hide L s := by simp only [hide, h, if_true]
theorem hide_latches {L : List Part} (h : Part.latches ∈ L) (s : State) (v : Tab W32) :
    hide L { s with latches := v } = hide L s := by simp only [hide, h, if_true]
theorem hide_mem {L : List Part} (h : Part.mem ∈ L) (s : State) (v : MemSt) :
    hide L { s with mem := v } = hide L s := by simp only [hide, h, if_true]
theorem hide_cores {L : List Part} (h : Part.cores ∈ L) (s : State) (v : Tab Core) :
    hide L { s with cores := v } = hide L s := by simp only [hide, h, if_true]
theorem hide_grooms {L : List Part} (h : Part.grooms ∈ L) (s : State) (v : Tab Groom) :
    hide L { s with grooms := v } = hide L s := by simp only [hide, h, if_true]
theorem hide_exch {L : List Part} (h : Part.exch ∈ L) (s : State) (v : Tab (Option Exch)) :
    hide L { s with exch := v } = hide L s := by simp only [hide, h, if_true]
theorem hide_fab {L : List Part} (h : Part.fab ∈ L) (s : State) (v : Fabric) :
    hide L { s with fab := v } = hide L s := by simp only [hide, h, if_true]
theorem hide_hitch {L : List Part} (h : Part.hitch ∈ L) (s : State) (v : HitchSt) :
    hide L { s with hitch := v } = hide L s := by simp only [hide, h, if_true]
theorem hide_cages {L : List Part} (h : Part.cages ∈ L) (s : State) (v : Tab Cage) :
    hide L { s with cages := v } = hide L s := by simp only [hide, h, if_true]
theorem hide_job {L : List Part} (h : Part.job ∈ L) (s : State) (v : Job) :
    hide L { s with job := v } = hide L s := by simp only [hide, h, if_true]
theorem hide_epoch {L : List Part} (h : Part.epoch ∈ L) (s : State) (v : Epoch) :
    hide L { s with epoch := v } = hide L s := by simp only [hide, h, if_true]
theorem hide_ckpt {L : List Part} (h : Part.ckpt ∈ L) (s : State) (v : CkptSt) :
    hide L { s with ckpt := v } = hide L s := by simp only [hide, h, if_true]
theorem hide_boot {L : List Part} (h : Part.boot ∈ L) (s : State) (v : Boot) :
    hide L { s with boot := v } = hide L s := by simp only [hide, h, if_true]
theorem hide_power {L : List Part} (h : Part.power ∈ L) (s : State) (v : Power) :
    hide L { s with power := v } = hide L s := by simp only [hide, h, if_true]
theorem hide_log {L : List Part} (h : Part.log ∈ L) (s : State) (v : LogSt) :
    hide L { s with log := v } = hide L s := by simp only [hide, h, if_true]
theorem hide_host {L : List Part} (h : Part.host ∈ L) (s : State) (v : HostSt) :
    hide L { s with host := v } = hide L s := by simp only [hide, h, if_true]
theorem hide_outbox {L : List Part} (h : Part.outbox ∈ L) (s : State) (v : List Out) :
    hide L { s with outbox := v } = hide L s := by simp only [hide, h, if_true]

theorem hide_free_epoch {L : List Part} (h : Part.free ∈ L) (h' : Part.epoch ∈ L) (s : State) (v : Nat) (w : Epoch) :
    hide L { s with free := v, epoch := w } = hide L s := by simp only [hide, h, h', if_true]
theorem hide_epoch_job {L : List Part} (h : Part.epoch ∈ L) (h' : Part.job ∈ L) (s : State) (v : Epoch) (w : Job) :
    hide L { s with epoch := v, job := w } = hide L s := by simp only [hide, h, h', if_true]
theorem hide_epoch_ckpt {L : List Part} (h : Part.epoch ∈ L) (h' : Part.ckpt ∈ L) (s : State) (v : Epoch) (w : CkptSt) :
    hide L { s with epoch := v, ckpt := w } = hide L s := by simp only [hide, h, h', if_true]
theorem hide_job_epoch_ckpt {L : List Part} (h : Part.epoch ∈ L) (h' : Part.ckpt ∈ L) (h'' : Part.job ∈ L) (s : State)
    (v : Epoch) (w : CkptSt) (x : Job) :
    hide L { s with job := x, epoch := v, ckpt := w } = hide L s := by simp only [hide, h, h', h'', if_true]

/-! ### Conditionals and folds -/

theorem hide_ite {L : List Part} {p : Prop} [Decidable p] (a b : State) :
    hide L (if p then a else b) = if p then hide L a else hide L b := by split <;> rfl

theorem hide_foldl {L : List Part} {α : Type} (f : State → α → State) (l : List α) (s : State)
    (h : ∀ s x, hide L (f s x) = hide L s) : hide L (l.foldl f s) = hide L s := by
  induction l generalizing s with
  | nil => rfl
  | cons x l ih => rw [List.foldl_cons, ih, h]

theorem hide_foldl_fst {L : List Part} {α β : Type} (f : State × β → α → State × β) (l : List α) (p : State × β)
    (h : ∀ r x, hide L (f r x).1 = hide L r.1) : hide L (l.foldl f p).1 = hide L p.1 := by
  induction l generalizing p with
  | nil => rfl
  | cons x l ih => rw [List.foldl_cons, ih, h]

theorem hide_foldl_snd {L : List Part} {α β : Type} (f : β × State → α → β × State) (l : List α) (p : β × State)
    (h : ∀ r x, hide L (f r x).2 = hide L r.2) : hide L (l.foldl f p).2 = hide L p.2 := by
  induction l generalizing p with
  | nil => rfl
  | cons x l ih => rw [List.foldl_cons, ih, h]

theorem hide_foldl_third {L : List Part} {α β γ : Type} (f : β × γ × State → α → β × γ × State) (l : List α)
    (p : β × γ × State) (h : ∀ r x, hide L (f r x).2.2 = hide L r.2.2) :
    hide L (l.foldl f p).2.2 = hide L p.2.2 := by
  induction l generalizing p with
  | nil => rfl
  | cons x l ih => rw [List.foldl_cons, ih, h]

end Sys2Proof.Machine
end

