-- ==== Sys2Proof/Laws/FramesBase.lean ====
section
/-!
SUPPORT. Registers, the fault log, memory, the scoreboard and deliveries: what each operation leaves alone. `f_hide` says that `f` changes the parts
named in its hypotheses at most.
-/
namespace Sys2Proof.Machine

set_option linter.unusedSimpArgs false
set_option linter.unusedTactic false
set_option linter.unreachableTactic false

theorem regSet_hide {L : List Part} (h_regs : Part.regs ∈ L) (off : Nat) (v : W32) (s : State) :
    hide L (regSet off v s) = hide L s := by
  unfold regSet
  simp only [hide_regs h_regs]

theorem rfSet_hide {L : List Part} (h_regs : Part.regs ∈ L) (off lo w v : Nat) (s : State) :
    hide L (rfSet off lo w v s) = hide L s := by
  unfold rfSet
  simp only [regSet_hide h_regs]

theorem reg2Set_hide {L : List Part} (h_regs2 : Part.regs2 ∈ L) (off : Nat) (v : W32) (s : State) :
    hide L (reg2Set off v s) = hide L s := by
  unfold reg2Set
  simp only [hide_regs2 h_regs2]

theorem rf2Set_hide {L : List Part} (h_regs2 : Part.regs2 ∈ L) (off lo w v : Nat) (s : State) :
    hide L (rf2Set off lo w v s) = hide L s := by
  unfold rf2Set
  simp only [reg2Set_hide h_regs2]

theorem cfgSet_hide {L : List Part} (h_cfg : Part.cfg ∈ L) (off : Nat) (v : W32) (s : State) :
    hide L (cfgSet off v s) = hide L s := by
  unfold cfgSet
  simp only [hide_cfg h_cfg]

theorem regAdd_hide {L : List Part} (h_regs : Part.regs ∈ L) (off n : Nat) (s : State) :
    hide L (regAdd off n s) = hide L s := by
  unfold regAdd
  simp only [regSet_hide h_regs]

theorem regAdd64_hide {L : List Part} (h_regs : Part.regs ∈ L) (off n : Nat) (s : State) :
    hide L (regAdd64 off n s) = hide L s := by
  unfold regAdd64
  simp only [regSet_hide h_regs]

theorem reg64Set_hide {L : List Part} (h_regs : Part.regs ∈ L) (off v : Nat) (s : State) :
    hide L (reg64Set off v s) = hide L s := by
  unfold reg64Set
  simp only [regSet_hide h_regs]

theorem bumpFree_hide {L : List Part} (h_free : Part.free ∈ L) (s : State) :
    hide L (bumpFree s) = hide L s := by
  unfold bumpFree
  simp only [hide_free h_free]

theorem regFree_hide {L : List Part} (h_free : Part.free ∈ L) (h_regs : Part.regs ∈ L) (off : Nat) (s : State) :
    hide L (regFree off s) = hide L s := by
  unfold regFree
  simp only [bumpFree_hide h_free, regSet_hide h_regs]

theorem coreSet_hide {L : List Part} (h_cores : Part.cores ∈ L) (n : Nat) (c : Core) (s : State) :
    hide L (coreSet n c s) = hide L s := by
  unfold coreSet
  simp only [hide_cores h_cores]

theorem coreMod_hide {L : List Part} (h_cores : Part.cores ∈ L) (n : Nat) (f : Core → Core) (s : State) :
    hide L (coreMod n f s) = hide L s := by
  unfold coreMod
  simp only [coreSet_hide h_cores]

theorem groomSet_hide {L : List Part} (h_grooms : Part.grooms ∈ L) (k : Nat) (g : Groom) (s : State) :
    hide L (groomSet k g s) = hide L s := by
  unfold groomSet
  simp only [hide_grooms h_grooms]

theorem groomMod_hide {L : List Part} (h_grooms : Part.grooms ∈ L) (k : Nat) (f : Groom → Groom) (s : State) :
    hide L (groomMod k f s) = hide L s := by
  unfold groomMod
  simp only [groomSet_hide h_grooms]

theorem queueMod_hide {L : List Part} (h_cores : Part.cores ∈ L) (n : Nat) (q : Q) (f : Queue → Queue) (s : State) :
    hide L (queueMod n q f s) = hide L s := by
  unfold queueMod
  simp only [coreMod_hide h_cores]

theorem ctxMod_hide {L : List Part} (h_cores : Part.cores ∈ L) (n : Nat) (x : Ctx) (f : CtxSt → CtxSt) (s : State) :
    hide L (ctxMod n x f s) = hide L s := by
  unfold ctxMod
  simp only [coreMod_hide h_cores]

theorem stallMod_hide {L : List Part} (h_cores : Part.cores ∈ L) (n i : Nat) (f : Stall → Stall) (s : State) :
    hide L (stallMod n i f s) = hide L s := by
  unfold stallMod
  simp only [coreMod_hide h_cores]

theorem emit_hide {L : List Part} (h_outbox : Part.outbox ∈ L) (o : Out) (s : State) :
    hide L (emit o s) = hide L s := by
  unfold emit
  simp only [hide_outbox h_outbox]

theorem evAdvance_hide {L : List Part} (h_log : Part.log ∈ L) (s : State) :
    hide L (evAdvance s) = hide L s := by
  unfold evAdvance
  simp only [hide_log h_log]

theorem msix_hide {L : List Part} (h_outbox : Part.outbox ∈ L) (h_regs2 : Part.regs2 ∈ L) (v : Nat) (s : State) :
    hide L (msix v s) = hide L s := by
  unfold msix
  simp only [hide_ite, ite_self, emit_hide h_outbox, rf2Set_hide h_regs2]

theorem msixGo_hide {L : List Part} (h_outbox : Part.outbox ∈ L) (h_regs2 : Part.regs2 ∈ L) (s : State) :
    hide L (msixGo s) = hide L s := by
  unfold msixGo
  simp only [hide_ite, ite_self, implies_true, emit_hide h_outbox, rf2Set_hide h_regs2, hide_foldl]

theorem unsupported_hide {L : List Part} (h_cfg : Part.cfg ∈ L) (h_outbox : Part.outbox ∈ L) (s : State) :
    hide L (unsupported s) = hide L s := by
  unfold unsupported
  simp only [emit_hide h_outbox, cfgSet_hide h_cfg]

theorem ringAdvance_hide {L : List Part} (h_regs2 : Part.regs2 ∈ L) (r : Nat) (s : State) :
    hide L (ringAdvance r s) = hide L s := by
  unfold ringAdvance
  simp only [rf2Set_hide h_regs2]

theorem ringWrote_hide {L : List Part} (h_host : Part.host ∈ L) (h_regs2 : Part.regs2 ∈ L) (r : Nat) (s : State) :
    hide L (ringWrote r s) = hide L s := by
  unfold ringWrote
  simp only [hide_ite, ite_self, hide_host h_host, ringAdvance_hide h_regs2]

theorem eventWrite_hide {L : List Part} (h_host : Part.host ∈ L) (h_outbox : Part.outbox ∈ L) (h_regs2 : Part.regs2 ∈ L) (e : Option LogEnt) (s : State) :
    hide L (eventWrite e s) = hide L s := by
  unfold eventWrite
  simp only [hide_ite, ite_self, hide_host h_host, reg2Set_hide h_regs2, msix_hide h_outbox h_regs2, ringWrote_hide h_host h_regs2, emit_hide h_outbox]

theorem health_hide {L : List Part} (h_host : Part.host ∈ L) (h_outbox : Part.outbox ∈ L) (h_regs : Part.regs ∈ L) (h_regs2 : Part.regs2 ∈ L) (bit : Nat) (e : Option LogEnt) (s : State) :
    hide L (health bit e s) = hide L s := by
  unfold health
  simp only [hide_ite, ite_self, rfSet_hide h_regs, eventWrite_hide h_host h_outbox h_regs2]

theorem hear_hide {L : List Part} (h_log : Part.log ∈ L) (key : Nat) (s : State) :
    hide L (hear key s) = hide L s := by
  unfold hear
  simp only [hide_log h_log]

theorem raise_hide {L : List Part} (h_log : Part.log ∈ L) (h_regs : Part.regs ∈ L) (off bit : Nat) (s : State) :
    hide L (raise off bit s) = hide L s := by
  unfold raise
  simp only [hide_ite, ite_self, rfSet_hide h_regs, hear_hide h_log, evAdvance_hide h_log]

theorem logAppend_hide {L : List Part} (h_log : Part.log ∈ L) (code : W16) (blk : Blk) (idx : Nat) (cls : Class) (d : Detail) (s : State) :
    hide L (logAppend code blk idx cls d s) = hide L s := by
  unfold logAppend
  simp only [hide_log h_log, evAdvance_hide h_log]

theorem riskAdd_hide {L : List Part} (h_log : Part.log ∈ L) (w : Nat) (s : State) :
    hide L (riskAdd w s) = hide L s := by
  unfold riskAdd
  simp only [hide_ite, ite_self, hide_log h_log]

theorem record_hide {L : List Part} (h_host : Part.host ∈ L) (h_log : Part.log ∈ L) (h_outbox : Part.outbox ∈ L) (h_regs : Part.regs ∈ L) (h_regs2 : Part.regs2 ∈ L) (code : W16) (blk : Blk) (idx : Nat) (cls : Class) (d : Detail) (s : State) :
    hide L (record code blk idx cls d s) = hide L s := by
  unfold record
  simp only [hide_ite, ite_self, hide_log h_log, riskAdd_hide h_log, logAppend_hide h_log, health_hide h_host h_outbox h_regs h_regs2]

theorem refuse_hide {L : List Part} (h_host : Part.host ∈ L) (h_log : Part.log ∈ L) (h_outbox : Part.outbox ∈ L) (h_regs : Part.regs ∈ L) (h_regs2 : Part.regs2 ∈ L) (c : RefCmd) (blk : Blk) (idx : Nat) (s : State) :
    hide L (refuse c blk idx s) = hide L s := by
  unfold refuse
  simp only [record_hide h_host h_log h_outbox h_regs h_regs2]

theorem memWrite_hide {L : List Part} (h_mem : Part.mem ∈ L) (a : Nat) (l : List Byte) (s : State) :
    hide L (memWrite a l s) = hide L s := by
  unfold memWrite
  simp only [hide_ite, ite_self, hide_mem h_mem]

theorem memZero_hide {L : List Part} (h_mem : Part.mem ∈ L) (a n : Nat) (s : State) :
    hide L (memZero a n s) = hide L s := by
  unfold memZero
  simp only [hide_mem h_mem]

theorem hbmUe_hide {L : List Part} (h_log : Part.log ∈ L) (h_mem : Part.mem ∈ L) (h_regs : Part.regs ∈ L) (sector : Nat) (s : State) :
    hide L (hbmUe sector s) = hide L s := by
  unfold hbmUe
  simp only [hide_mem h_mem, raise_hide h_log h_regs, regAdd_hide h_regs, regSet_hide h_regs]

theorem sramUe_hide {L : List Part} (h_log : Part.log ∈ L) (h_regs : Part.regs ∈ L) (word : Nat) (s : State) :
    hide L (sramUe word s) = hide L s := by
  unfold sramUe
  simp only [raise_hide h_log h_regs, regAdd_hide h_regs]

theorem hbmCe_hide {L : List Part} (h_log : Part.log ∈ L) (h_mem : Part.mem ∈ L) (h_regs : Part.regs ∈ L) (sector : Nat) (s : State) :
    hide L (hbmCe sector s) = hide L s := by
  unfold hbmCe
  simp only [hide_mem h_mem, riskAdd_hide h_log, raise_hide h_log h_regs, regAdd_hide h_regs]

theorem sramCe_hide {L : List Part} (h_log : Part.log ∈ L) (h_regs : Part.regs ∈ L) (word : Nat) (s : State) :
    hide L (sramCe word s) = hide L s := by
  unfold sramCe
  simp only [riskAdd_hide h_log, raise_hide h_log h_regs, regAdd_hide h_regs]

theorem readCorrected_hide {L : List Part} (h_log : Part.log ∈ L) (h_mem : Part.mem ∈ L) (h_regs : Part.regs ∈ L) (a n : Nat) (s : State) :
    hide L (readCorrected a n s) = hide L s := by
  unfold readCorrected
  simp only [implies_true, sramCe_hide h_log h_regs, hbmCe_hide h_log h_mem h_regs, hide_foldl]

theorem readErrors_hide {L : List Part} (h_log : Part.log ∈ L) (h_mem : Part.mem ∈ L) (h_regs : Part.regs ∈ L) (a n : Nat) (s : State) :
    hide L (readErrors a n s).2 = hide L s := by
  unfold readErrors
  repeat' (first | (simp only [hide_ite, ite_self, implies_true, forall_const, hbmUe_hide h_log h_mem h_regs, readCorrected_hide h_log h_mem h_regs, sramUe_hide h_log h_regs, h_log, h_mem, h_regs]; done) | split | dsimp only | intro _ _ | (refine (hide_foldl _ _ _ ?_).trans ?_) | (refine (hide_foldl_snd _ _ _ ?_).trans ?_) | (simp only [hide, h_log, h_mem, h_regs, if_true]; done) | (simp only [hide_ite, ite_self, implies_true, forall_const, hbmUe_hide h_log h_mem h_regs, readCorrected_hide h_log h_mem h_regs, sramUe_hide h_log h_regs, h_log, h_mem, h_regs]; simp only [hide, h_log, h_mem, h_regs, if_true]; done) | simp only [hide_ite, ite_self, implies_true, forall_const, hbmUe_hide h_log h_mem h_regs, readCorrected_hide h_log h_mem h_regs, sramUe_hide h_log h_regs, h_log, h_mem, h_regs])

theorem sideSet_hide {L : List Part} (h_mem : Part.mem ∈ L) (n m : Nat) (v : Side) (s : State) :
    hide L (sideSet n m v s) = hide L s := by
  unfold sideSet
  simp only [hide_mem h_mem]

theorem sideStamp_hide {L : List Part} (h_mem : Part.mem ∈ L) (c off n : Nat) (tag : Nat → W16) (fl : Nat → Bool × Bool) (s : State) :
    hide L (sideStamp c off n tag fl s) = hide L s := by
  unfold sideStamp
  simp only [implies_true, sideSet_hide h_mem, hide_foldl]

theorem writeBack_hide {L : List Part} (h_log : Part.log ∈ L) (h_mem : Part.mem ∈ L) (h_regs : Part.regs ∈ L) (k : Nat) (x : Line) (s : State) :
    hide L (writeBack k x s) = hide L s := by
  unfold writeBack
  simp only [implies_true, hide_mem h_mem, sramUe_hide h_log h_regs, regAdd64_hide h_regs, hide_foldl]

theorem lineFill_hide {L : List Part} (h_mem : Part.mem ∈ L) (k i w : Nat) (s : State) :
    hide L (lineFill k i w s) = hide L s := by
  unfold lineFill
  simp only [hide_mem h_mem]

theorem cacheAccess_hide {L : List Part} (h_log : Part.log ∈ L) (h_mem : Part.mem ∈ L) (h_regs : Part.regs ∈ L) (addr hint : Nat) (write : Bool) (s : State) :
    hide L (cacheAccess addr hint write s) = hide L s := by
  unfold cacheAccess
  simp only [hide_ite, ite_self, implies_true, forall_const, hide_mem h_mem, regAdd64_hide h_regs, writeBack_hide h_log h_mem h_regs, lineFill_hide h_mem, h_log, h_mem, h_regs]; (repeat' (first | (simp only [hide_ite, ite_self, implies_true, forall_const, hide_mem h_mem, regAdd64_hide h_regs, writeBack_hide h_log h_mem h_regs, lineFill_hide h_mem, h_log, h_mem, h_regs]; done) | split | dsimp only))

theorem hbmAccess_hide {L : List Part} (h_log : Part.log ∈ L) (h_mem : Part.mem ∈ L) (h_regs : Part.regs ∈ L) (a n hint : Nat) (write : Bool) (s : State) :
    hide L (hbmAccess a n hint write s) = hide L s := by
  unfold hbmAccess
  simp only [hide_ite, ite_self, implies_true, cacheAccess_hide h_log h_mem h_regs, hide_foldl]

theorem cacheClean_hide {L : List Part} (h_log : Part.log ∈ L) (h_mem : Part.mem ∈ L) (h_regs : Part.regs ∈ L) (d : Nat) (keep : Bool) (s : State) :
    hide L (cacheClean d keep s) = hide L s := by
  unfold cacheClean
  simp only [implies_true, hide_mem h_mem, writeBack_hide h_log h_mem h_regs, hide_foldl]

theorem metaAccess_hide {L : List Part} (h_log : Part.log ∈ L) (h_mem : Part.mem ∈ L) (h_regs : Part.regs ∈ L) (d : Dsc) (b n hint : Nat) (write : Bool) (s : State) :
    hide L (metaAccess d b n hint write s) = hide L s := by
  unfold metaAccess
  simp only [hbmAccess_hide h_log h_mem h_regs]

theorem metaWrite_hide {L : List Part} (h_log : Part.log ∈ L) (h_mem : Part.mem ∈ L) (h_regs : Part.regs ∈ L) (d : Dsc) (b hint : Nat) (m : W64) (s : State) :
    hide L (metaWrite d b hint m s) = hide L s := by
  unfold metaWrite
  simp only [metaAccess_hide h_log h_mem h_regs, memWrite_hide h_mem]

theorem countOn_hide {L : List Part} (h_free : Part.free ∈ L) (h_regs : Part.regs ∈ L) (off : Nat) (s : State) :
    hide L (countOn off s) = hide L s := by
  unfold countOn
  simp only [hide_ite, ite_self, implies_true, forall_const, bumpFree_hide h_free, rfSet_hide h_regs, regAdd64_hide h_regs, regAdd_hide h_regs, h_free, h_regs]; (repeat' (first | (simp only [hide_ite, ite_self, implies_true, forall_const, bumpFree_hide h_free, rfSet_hide h_regs, regAdd64_hide h_regs, regAdd_hide h_regs, h_free, h_regs]; done) | split | dsimp only))

theorem countAll_hide {L : List Part} (h_free : Part.free ∈ L) (h_regs : Part.regs ∈ L) (i : Nat) (s : State) :
    hide L (countAll i s) = hide L s := by
  unfold countAll
  simp only [implies_true, countOn_hide h_free h_regs, hide_foldl]

theorem entMod_hide {L : List Part} (h_cores : Part.cores ∈ L) (n : Nat) (q : Q) (sn : Nat) (f : Ent → Ent) (s : State) :
    hide L (entMod n q sn f s) = hide L s := by
  unfold entMod
  simp only [queueMod_hide h_cores]

theorem lockPeak_hide {L : List Part} (h_regs : Part.regs ∈ L) (n : Nat) (s : State) :
    hide L (lockPeak n s) = hide L s := by
  unfold lockPeak
  simp only [hide_ite, ite_self, rfSet_hide h_regs]

theorem syncEvent_hide {L : List Part} (h_log : Part.log ∈ L) (h_regs : Part.regs ∈ L) (n bit : Nat) (code : W16) (idx kind : Nat) (s : State) :
    hide L (syncEvent n bit code idx kind s) = hide L s := by
  unfold syncEvent
  simp only [raise_hide h_log h_regs, regSet_hide h_regs]

theorem poisonCtr_hide {L : List Part} (h_cores : Part.cores ∈ L) (h_log : Part.log ∈ L) (h_regs : Part.regs ∈ L) (n i : Nat) (cls : Class) (s : State) :
    hide L (poisonCtr n i cls s) = hide L s := by
  unfold poisonCtr
  simp only [hide_ite, ite_self, syncEvent_hide h_log h_regs, coreMod_hide h_cores]

theorem poisonSignal_hide {L : List Part} (h_cores : Part.cores ∈ L) (h_log : Part.log ∈ L) (h_regs : Part.regs ∈ L) (n : Nat) (cls : Class) (s : State) (w : W128) :
    hide L (poisonSignal n cls s w) = hide L s := by
  unfold poisonSignal
  simp only [hide_ite, ite_self, poisonCtr_hide h_cores h_log h_regs]

theorem takeWait_hide {L : List Part} (h_cores : Part.cores ∈ L) (n : Nat) (w : W128) (s : State) :
    hide L (takeWait n w s) = hide L s := by
  unfold takeWait
  simp only [hide_ite, ite_self, coreMod_hide h_cores]

theorem giveBack_hide {L : List Part} (h_cores : Part.cores ∈ L) (n : Nat) (w : W128) (s : State) :
    hide L (giveBack n w s) = hide L s := by
  unfold giveBack
  simp only [hide_ite, ite_self, coreMod_hide h_cores]

theorem coreRaise_hide {L : List Part} (h_cores : Part.cores ∈ L) (h_log : Part.log ∈ L) (h_regs : Part.regs ∈ L) (n bit : Nat) (s : State) :
    hide L (coreRaise n bit s) = hide L s := by
  unfold coreRaise
  simp only [hide_ite, ite_self, raise_hide h_log h_regs, coreMod_hide h_cores]

theorem haltQueue_hide {L : List Part} (h_cores : Part.cores ∈ L) (h_host : Part.host ∈ L) (h_log : Part.log ∈ L) (h_outbox : Part.outbox ∈ L) (h_regs : Part.regs ∈ L) (h_regs2 : Part.regs2 ∈ L) (n : Nat) (q : Q) (sn : Nat) (code : W16) (cls : Class) (s : State) :
    hide L (haltQueue n q sn code cls s) = hide L s := by
  unfold haltQueue
  simp only [hide_ite, ite_self, implies_true, entMod_hide h_cores, queueMod_hide h_cores, regSet_hide h_regs, coreRaise_hide h_cores h_log h_regs, record_hide h_host h_log h_outbox h_regs h_regs2, poisonSignal_hide h_cores h_log h_regs, hide_foldl]

theorem ctxFault_hide {L : List Part} (h_cores : Part.cores ∈ L) (h_host : Part.host ∈ L) (h_log : Part.log ∈ L) (h_outbox : Part.outbox ∈ L) (h_regs : Part.regs ∈ L) (h_regs2 : Part.regs2 ∈ L) (n : Nat) (x : Ctx) (code : W16) (cls : Class) (s : State) :
    hide L (ctxFault n x code cls s) = hide L s := by
  unfold ctxFault
  simp only [hide_ite, ite_self, rfSet_hide h_regs, ctxMod_hide h_cores, record_hide h_host h_log h_outbox h_regs h_regs2, coreRaise_hide h_cores h_log h_regs, poisonSignal_hide h_cores h_log h_regs]

theorem wakeQueue_hide {L : List Part} (h_cores : Part.cores ∈ L) (h_host : Part.host ∈ L) (h_log : Part.log ∈ L) (h_outbox : Part.outbox ∈ L) (h_regs : Part.regs ∈ L) (h_regs2 : Part.regs2 ∈ L) (n : Nat) (s : State) (q : Q) :
    hide L (wakeQueue n s q) = hide L s := by
  unfold wakeQueue
  repeat' (first | (simp only [hide_ite, ite_self, implies_true, forall_const, haltQueue_hide h_cores h_host h_log h_outbox h_regs h_regs2, h_cores, h_host, h_log, h_outbox, h_regs, h_regs2]; done) | split | dsimp only | intro _ _ | (refine (hide_foldl _ _ _ ?_).trans ?_) | (refine (hide_foldl_snd _ _ _ ?_).trans ?_) | (simp only [hide, h_cores, h_host, h_log, h_outbox, h_regs, h_regs2, if_true]; done) | (simp only [hide_ite, ite_self, implies_true, forall_const, haltQueue_hide h_cores h_host h_log h_outbox h_regs h_regs2, h_cores, h_host, h_log, h_outbox, h_regs, h_regs2]; simp only [hide, h_cores, h_host, h_log, h_outbox, h_regs, h_regs2, if_true]; done) | simp only [hide_ite, ite_self, implies_true, forall_const, haltQueue_hide h_cores h_host h_log h_outbox h_regs h_regs2, h_cores, h_host, h_log, h_outbox, h_regs, h_regs2])

theorem breakOne_hide {L : List Part} (h_cores : Part.cores ∈ L) (h_host : Part.host ∈ L) (h_log : Part.log ∈ L) (h_outbox : Part.outbox ∈ L) (h_regs : Part.regs ∈ L) (h_regs2 : Part.regs2 ∈ L) (cls : Class) (s : State) (n : Nat) :
    hide L (breakOne cls s n) = hide L s := by
  unfold breakOne
  simp only [hide_ite, ite_self, ctxFault_hide h_cores h_host h_log h_outbox h_regs h_regs2, giveBack_hide h_cores]

theorem breakFaults_hide {L : List Part} (h_cores : Part.cores ∈ L) (h_host : Part.host ∈ L) (h_log : Part.log ∈ L) (h_outbox : Part.outbox ∈ L) (h_regs : Part.regs ∈ L) (h_regs2 : Part.regs2 ∈ L) (cls : Class) (s : State) :
    hide L (breakFaults cls s) = hide L s := by
  unfold breakFaults
  simp only [implies_true, breakOne_hide h_cores h_host h_log h_outbox h_regs h_regs2, hide_foldl]

theorem wakeCtx_hide {L : List Part} (h_cores : Part.cores ∈ L) (h_host : Part.host ∈ L) (h_log : Part.log ∈ L) (h_outbox : Part.outbox ∈ L) (h_regs : Part.regs ∈ L) (h_regs2 : Part.regs2 ∈ L) (n : Nat) (s : State) (x : Ctx) :
    hide L (wakeCtx n s x) = hide L s := by
  unfold wakeCtx
  simp only [hide_ite, ite_self, implies_true, forall_const, ctxFault_hide h_cores h_host h_log h_outbox h_regs h_regs2, breakFaults_hide h_cores h_host h_log h_outbox h_regs h_regs2, h_cores, h_host, h_log, h_outbox, h_regs, h_regs2]; (repeat' (first | (simp only [hide_ite, ite_self, implies_true, forall_const, ctxFault_hide h_cores h_host h_log h_outbox h_regs h_regs2, breakFaults_hide h_cores h_host h_log h_outbox h_regs h_regs2, h_cores, h_host, h_log, h_outbox, h_regs, h_regs2]; done) | split | dsimp only))

theorem wakeRound_hide {L : List Part} (h_cores : Part.cores ∈ L) (h_host : Part.host ∈ L) (h_log : Part.log ∈ L) (h_outbox : Part.outbox ∈ L) (h_regs : Part.regs ∈ L) (h_regs2 : Part.regs2 ∈ L) (n : Nat) (s : State) :
    hide L (wakeRound n s) = hide L s := by
  unfold wakeRound
  simp only [implies_true, wakeCtx_hide h_cores h_host h_log h_outbox h_regs h_regs2, wakeQueue_hide h_cores h_host h_log h_outbox h_regs h_regs2, hide_foldl]

theorem settleCore_hide {L : List Part} (h_cores : Part.cores ∈ L) (h_host : Part.host ∈ L) (h_log : Part.log ∈ L) (h_outbox : Part.outbox ∈ L) (h_regs : Part.regs ∈ L) (h_regs2 : Part.regs2 ∈ L) (n : Nat) (s : State) :
    hide L (settleCore n s) = hide L s := by
  unfold settleCore
  simp only [implies_true, wakeRound_hide h_cores h_host h_log h_outbox h_regs h_regs2, hide_foldl]

theorem settleBroken_hide {L : List Part} (h_cores : Part.cores ∈ L) (h_host : Part.host ∈ L) (h_log : Part.log ∈ L) (h_outbox : Part.outbox ∈ L) (h_regs : Part.regs ∈ L) (h_regs2 : Part.regs2 ∈ L) (s t : State) :
    hide L (settleBroken s t) = hide L t := by
  unfold settleBroken
  simp only [implies_true, settleCore_hide h_cores h_host h_log h_outbox h_regs h_regs2, hide_foldl]

theorem settle_hide {L : List Part} (h_cores : Part.cores ∈ L) (h_host : Part.host ∈ L) (h_log : Part.log ∈ L) (h_outbox : Part.outbox ∈ L) (h_regs : Part.regs ∈ L) (h_regs2 : Part.regs2 ∈ L) (n : Nat) (s : State) :
    hide L (settle n s) = hide L s := by
  unfold settle
  simp only [settleBroken_hide h_cores h_host h_log h_outbox h_regs h_regs2, settleCore_hide h_cores h_host h_log h_outbox h_regs h_regs2]

theorem breakDevice_hide {L : List Part} (h_cores : Part.cores ∈ L) (h_host : Part.host ∈ L) (h_log : Part.log ∈ L) (h_outbox : Part.outbox ∈ L) (h_regs : Part.regs ∈ L) (h_regs2 : Part.regs2 ∈ L) (cls : Class) (s : State) :
    hide L (breakDevice cls s) = hide L s := by
  unfold breakDevice
  simp only [settleBroken_hide h_cores h_host h_log h_outbox h_regs h_regs2, breakFaults_hide h_cores h_host h_log h_outbox h_regs h_regs2]

theorem settleAll_hide {L : List Part} (h_cores : Part.cores ∈ L) (h_host : Part.host ∈ L) (h_log : Part.log ∈ L) (h_outbox : Part.outbox ∈ L) (h_regs : Part.regs ∈ L) (h_regs2 : Part.regs2 ∈ L) (s : State) :
    hide L (settleAll s) = hide L s := by
  unfold settleAll
  simp only [implies_true, settle_hide h_cores h_host h_log h_outbox h_regs h_regs2, hide_foldl]

theorem halt_hide {L : List Part} (h_cores : Part.cores ∈ L) (h_host : Part.host ∈ L) (h_log : Part.log ∈ L) (h_outbox : Part.outbox ∈ L) (h_regs : Part.regs ∈ L) (h_regs2 : Part.regs2 ∈ L) (n : Nat) (q : Q) (sn : Nat) (code : W16) (s : State) :
    hide L (halt n q sn code s) = hide L s := by
  unfold halt
  simp only [settle_hide h_cores h_host h_log h_outbox h_regs h_regs2, haltQueue_hide h_cores h_host h_log h_outbox h_regs h_regs2]

theorem haltWait_hide {L : List Part} (h_cores : Part.cores ∈ L) (h_host : Part.host ∈ L) (h_log : Part.log ∈ L) (h_outbox : Part.outbox ∈ L) (h_regs : Part.regs ∈ L) (h_regs2 : Part.regs2 ∈ L) (n : Nat) (q : Q) (sn : Nat) (code : W16) (k : Class) (s : State) :
    hide L (haltWait n q sn code k s) = hide L s := by
  unfold haltWait
  simp only [settle_hide h_cores h_host h_log h_outbox h_regs h_regs2, haltQueue_hide h_cores h_host h_log h_outbox h_regs h_regs2]

theorem ctxStop_hide {L : List Part} (h_cores : Part.cores ∈ L) (h_host : Part.host ∈ L) (h_log : Part.log ∈ L) (h_outbox : Part.outbox ∈ L) (h_regs : Part.regs ∈ L) (h_regs2 : Part.regs2 ∈ L) (n : Nat) (x : Ctx) (code : W16) (cls : Class) (s : State) :
    hide L (ctxStop n x code cls s) = hide L s := by
  unfold ctxStop
  simp only [hide_ite, ite_self, ctxFault_hide h_cores h_host h_log h_outbox h_regs h_regs2, breakFaults_hide h_cores h_host h_log h_outbox h_regs h_regs2, settleBroken_hide h_cores h_host h_log h_outbox h_regs h_regs2, settleCore_hide h_cores h_host h_log h_outbox h_regs h_regs2]

theorem signal_hide {L : List Part} (h_cores : Part.cores ∈ L) (h_free : Part.free ∈ L) (h_log : Part.log ∈ L) (h_regs : Part.regs ∈ L) (n i amt : Nat) (s : State) :
    hide L (signal n i amt s).1 = hide L s := by
  unfold signal
  simp only [hide_ite, ite_self, implies_true, forall_const, syncEvent_hide h_log h_regs, regAdd_hide h_regs, bumpFree_hide h_free, coreMod_hide h_cores, h_cores, h_free, h_log, h_regs]; (repeat' (first | (simp only [hide_ite, ite_self, implies_true, forall_const, syncEvent_hide h_log h_regs, regAdd_hide h_regs, bumpFree_hide h_free, coreMod_hide h_cores, h_cores, h_free, h_log, h_regs]; done) | split | dsimp only))

theorem retireN_hide {L : List Part} (h_cores : Part.cores ∈ L) (h_free : Part.free ∈ L) (h_host : Part.host ∈ L) (h_log : Part.log ∈ L) (h_outbox : Part.outbox ∈ L) (h_regs : Part.regs ∈ L) (h_regs2 : Part.regs2 ∈ L) (n : Nat) (q : Q) (k0 : Nat) (s : State) :
    hide L (retireN n q k0 s) = hide L s := by
  induction k0 generalizing s with
  | zero => rfl
  | succ k ih =>
    unfold retireN
    try simp only [hide_ite, ite_self, implies_true, forall_const, queueMod_hide h_cores, signal_hide h_cores h_free h_log h_regs, halt_hide h_cores h_host h_log h_outbox h_regs h_regs2, h_cores, h_free, h_host, h_log, h_outbox, h_regs, h_regs2, ih]
    repeat' (first | rfl | (simp only [hide_ite, ite_self, implies_true, forall_const, queueMod_hide h_cores, signal_hide h_cores h_free h_log h_regs, halt_hide h_cores h_host h_log h_outbox h_regs h_regs2, h_cores, h_free, h_host, h_log, h_outbox, h_regs, h_regs2, ih]; done) | split)

theorem retire_hide {L : List Part} (h_cores : Part.cores ∈ L) (h_free : Part.free ∈ L) (h_host : Part.host ∈ L) (h_log : Part.log ∈ L) (h_outbox : Part.outbox ∈ L) (h_regs : Part.regs ∈ L) (h_regs2 : Part.regs2 ∈ L) (n : Nat) (q : Q) (s : State) :
    hide L (retire n q s) = hide L s := by
  unfold retire
  simp only [retireN_hide h_cores h_free h_host h_log h_outbox h_regs h_regs2]

theorem complete_hide {L : List Part} (h_cores : Part.cores ∈ L) (h_free : Part.free ∈ L) (h_host : Part.host ∈ L) (h_log : Part.log ∈ L) (h_outbox : Part.outbox ∈ L) (h_regs : Part.regs ∈ L) (h_regs2 : Part.regs2 ∈ L) (n : Nat) (q : Q) (sn : Nat) (s : State) :
    hide L (complete n q sn s) = hide L s := by
  unfold complete
  simp only [retire_hide h_cores h_free h_host h_log h_outbox h_regs h_regs2, entMod_hide h_cores]

theorem ccntAdd_hide {L : List Part} (h_cores : Part.cores ∈ L) (h_host : Part.host ∈ L) (h_log : Part.log ∈ L) (h_outbox : Part.outbox ∈ L) (h_regs : Part.regs ∈ L) (h_regs2 : Part.regs2 ∈ L) (n i : Nat) (s : State) :
    hide L (ccntAdd n i s) = hide L s := by
  unfold ccntAdd
  simp only [hide_ite, ite_self, regAdd_hide h_regs, coreMod_hide h_cores, syncEvent_hide h_log h_regs, raise_hide h_log h_regs, settle_hide h_cores h_host h_log h_outbox h_regs h_regs2, record_hide h_host h_log h_outbox h_regs h_regs2]

theorem groomHalt_hide {L : List Part} (h_free : Part.free ∈ L) (h_grooms : Part.grooms ∈ L) (h_host : Part.host ∈ L) (h_log : Part.log ∈ L) (h_outbox : Part.outbox ∈ L) (h_regs : Part.regs ∈ L) (h_regs2 : Part.regs2 ∈ L) (k : Nat) (code : W16) (pc : Nat) (cls : Class) (s : State) :
    hide L (groomHalt k code pc cls s) = hide L s := by
  unfold groomHalt
  simp only [groomMod_hide h_grooms, countOn_hide h_free h_regs, regSet_hide h_regs, raise_hide h_log h_regs, record_hide h_host h_log h_outbox h_regs h_regs2]

theorem wakeGroom_hide {L : List Part} (h_free : Part.free ∈ L) (h_grooms : Part.grooms ∈ L) (h_host : Part.host ∈ L) (h_log : Part.log ∈ L) (h_outbox : Part.outbox ∈ L) (h_regs : Part.regs ∈ L) (h_regs2 : Part.regs2 ∈ L) (s : State) (k : Nat) :
    hide L (wakeGroom s k) = hide L s := by
  unfold wakeGroom
  simp only [hide_ite, ite_self, implies_true, forall_const, groomHalt_hide h_free h_grooms h_host h_log h_outbox h_regs h_regs2, h_free, h_grooms, h_host, h_log, h_outbox, h_regs, h_regs2]; (repeat' (first | (simp only [hide_ite, ite_self, implies_true, forall_const, groomHalt_hide h_free h_grooms h_host h_log h_outbox h_regs h_regs2, h_free, h_grooms, h_host, h_log, h_outbox, h_regs, h_regs2]; done) | split | dsimp only))

theorem gcntAdd_hide {L : List Part} (h_cores : Part.cores ∈ L) (h_free : Part.free ∈ L) (h_grooms : Part.grooms ∈ L) (h_host : Part.host ∈ L) (h_log : Part.log ∈ L) (h_outbox : Part.outbox ∈ L) (h_regs : Part.regs ∈ L) (h_regs2 : Part.regs2 ∈ L) (i : Nat) (flag : Bool) (s : State) (k : Nat) :
    hide L (gcntAdd i flag s k) = hide L s := by
  unfold gcntAdd
  simp only [hide_ite, ite_self, groomSet_hide h_grooms, wakeGroom_hide h_free h_grooms h_host h_log h_outbox h_regs h_regs2, settleAll_hide h_cores h_host h_log h_outbox h_regs h_regs2, record_hide h_host h_log h_outbox h_regs h_regs2]

theorem countAdd_hide {L : List Part} (h_cores : Part.cores ∈ L) (h_free : Part.free ∈ L) (h_grooms : Part.grooms ∈ L) (h_host : Part.host ∈ L) (h_log : Part.log ∈ L) (h_outbox : Part.outbox ∈ L) (h_regs : Part.regs ∈ L) (h_regs2 : Part.regs2 ∈ L) (n : Nat) (h : BitVec 16) (flag : Bool) (s : State) :
    hide L (countAdd n h flag s) = hide L s := by
  unfold countAdd
  simp only [hide_ite, ite_self, implies_true, ccntAdd_hide h_cores h_host h_log h_outbox h_regs h_regs2, gcntAdd_hide h_cores h_free h_grooms h_host h_log h_outbox h_regs h_regs2, hide_foldl]

theorem stampCopy_hide {L : List Part} (h_mem : Part.mem ∈ L) (c off n op : Nat) (m : CopyMeta) (bad : List Nat) (s : State) :
    hide L (stampCopy c off n op m bad s) = hide L s := by
  unfold stampCopy
  simp only [hide_ite, ite_self, implies_true, sideSet_hide h_mem, hide_foldl]

theorem stampWindow_hide {L : List Part} (h_mem : Part.mem ∈ L) (a n op : Nat) (m : CopyMeta) (bad : List Nat) (s : State) :
    hide L (stampWindow a n op m bad s) = hide L s := by
  unfold stampWindow
  repeat' (first | (simp only [hide_ite, ite_self, implies_true, forall_const, stampCopy_hide h_mem, h_mem]; done) | split | dsimp only | intro _ _ | (refine (hide_foldl _ _ _ ?_).trans ?_) | (refine (hide_foldl_snd _ _ _ ?_).trans ?_) | (simp only [hide, h_mem, if_true]; done) | (simp only [hide_ite, ite_self, implies_true, forall_const, stampCopy_hide h_mem, h_mem]; simp only [hide, h_mem, if_true]; done) | simp only [hide_ite, ite_self, implies_true, forall_const, stampCopy_hide h_mem, h_mem])

theorem deliverManger_hide {L : List Part} (h_log : Part.log ∈ L) (h_mem : Part.mem ∈ L) (h_regs : Part.regs ∈ L) (c off op : Nat) (data : List Byte) (m : CopyMeta) (s : State) :
    hide L (deliverManger c off op data m s).2 = hide L s := by
  unfold deliverManger
  simp only [hide_ite, ite_self, implies_true, forall_const, readErrors_hide h_log h_mem h_regs, stampCopy_hide h_mem, memWrite_hide h_mem, h_log, h_mem, h_regs]; (repeat' (first | (simp only [hide_ite, ite_self, implies_true, forall_const, readErrors_hide h_log h_mem h_regs, stampCopy_hide h_mem, memWrite_hide h_mem, h_log, h_mem, h_regs]; done) | split | dsimp only))

theorem blockMeta_hide {L : List Part} (h_log : Part.log ∈ L) (h_mem : Part.mem ∈ L) (h_regs : Part.regs ∈ L) (d : Dsc) (b op hint : Nat) (v : W16 × Bool × Bool × Option W64) (nf part verified : Bool) (s : State) :
    hide L (blockMeta d b op hint v nf part verified s) = hide L s := by
  unfold blockMeta
  simp only [hide_ite, ite_self, metaWrite_hide h_log h_mem h_regs, metaAccess_hide h_log h_mem h_regs]

theorem deliverMeta_hide {L : List Part} (h_log : Part.log ∈ L) (h_mem : Part.mem ∈ L) (h_regs : Part.regs ∈ L) (d : Dsc) (first n op hint : Nat) (m : CopyMeta) (bad : List Nat) (verified : Bool) (s : State) :
    hide L (deliverMeta d first n op hint m bad verified s).1 = hide L s := by
  unfold deliverMeta
  simp only [implies_true, blockMeta_hide h_log h_mem h_regs, hide_foldl_fst]

theorem destErrors_hide {L : List Part} (h_log : Part.log ∈ L) (h_mem : Part.mem ∈ L) (h_regs : Part.regs ∈ L) (d : Dsc) (first n op : Nat) (s : State) :
    hide L (destErrors d first n op s).2 = hide L s := by
  unfold destErrors
  simp only [hide_ite, ite_self, implies_true, forall_const, readErrors_hide h_log h_mem h_regs, h_log, h_mem, h_regs]; (repeat' (first | (simp only [hide_ite, ite_self, implies_true, forall_const, readErrors_hide h_log h_mem h_regs, h_log, h_mem, h_regs]; done) | split | dsimp only))

theorem deliverDesc_hide {L : List Part} (h_log : Part.log ∈ L) (h_mem : Part.mem ∈ L) (h_regs : Part.regs ∈ L) (d : Dsc) (first op hint : Nat) (data : List Byte) (m : CopyMeta) (verified : Bool) (s : State) :
    hide L (deliverDesc d first op hint data m verified s).2.2 = hide L s := by
  unfold deliverDesc
  simp only [hide_ite, ite_self, implies_true, forall_const, destErrors_hide h_log h_mem h_regs, hbmAccess_hide h_log h_mem h_regs, memWrite_hide h_mem, deliverMeta_hide h_log h_mem h_regs, stampWindow_hide h_mem, h_log, h_mem, h_regs]; (repeat' (first | (simp only [hide_ite, ite_self, implies_true, forall_const, destErrors_hide h_log h_mem h_regs, hbmAccess_hide h_log h_mem h_regs, memWrite_hide h_mem, deliverMeta_hide h_log h_mem h_regs, stampWindow_hide h_mem, h_log, h_mem, h_regs]; done) | split | dsimp only))

theorem copyMarks_hide {L : List Part} (h_cores : Part.cores ∈ L) (n di : Nat) (d0 : Dsc) (sat flag : Bool) (s : State) :
    hide L (copyMarks n di d0 sat flag s) = hide L s := by
  unfold copyMarks
  simp only [coreMod_hide h_cores]

theorem landPut_hide {L : List Part} (h_fab : Part.fab ∈ L) (l : Landing) (s : State) :
    hide L (landPut l s) = hide L s := by
  unfold landPut
  simp only [hide_fab h_fab]

theorem landFree_hide {L : List Part} (h_fab : Part.fab ∈ L) (l : Landing) (s : State) :
    hide L (landFree l s) = hide L s := by
  unfold landFree
  simp only [hide_fab h_fab]

theorem landFault_hide {L : List Part} (h_fab : Part.fab ∈ L) (h_host : Part.host ∈ L) (h_log : Part.log ∈ L) (h_outbox : Part.outbox ∈ L) (h_regs : Part.regs ∈ L) (h_regs2 : Part.regs2 ∈ L) (l : Landing) (code : W16) (s : State) :
    hide L (landFault l code s) = hide L s := by
  unfold landFault
  simp only [hide_ite, ite_self, hide_fab h_fab, landPut_hide h_fab, raise_hide h_log h_regs, record_hide h_host h_log h_outbox h_regs h_regs2]

theorem landFinish_hide {L : List Part} (h_cores : Part.cores ∈ L) (h_fab : Part.fab ∈ L) (h_free : Part.free ∈ L) (h_grooms : Part.grooms ∈ L) (h_host : Part.host ∈ L) (h_log : Part.log ∈ L) (h_outbox : Part.outbox ∈ L) (h_regs : Part.regs ∈ L) (h_regs2 : Part.regs2 ∈ L) (src core tag : Nat) (s : State) :
    hide L (landFinish src core tag s) = hide L s := by
  unfold landFinish
  simp only [hide_ite, ite_self, implies_true, forall_const, landFree_hide h_fab, countAdd_hide h_cores h_free h_grooms h_host h_log h_outbox h_regs h_regs2, copyMarks_hide h_cores, h_cores, h_fab, h_free, h_grooms, h_host, h_log, h_outbox, h_regs, h_regs2]; (repeat' (first | (simp only [hide_ite, ite_self, implies_true, forall_const, landFree_hide h_fab, countAdd_hide h_cores h_free h_grooms h_host h_log h_outbox h_regs h_regs2, copyMarks_hide h_cores, h_cores, h_fab, h_free, h_grooms, h_host, h_log, h_outbox, h_regs, h_regs2]; done) | split | dsimp only))

theorem landStamp_hide {L : List Part} (h_mem : Part.mem ∈ L) (l : Landing) (j : Nat) (s : State) :
    hide L (landStamp l j s).2 = hide L s := by
  unfold landStamp
  simp only [hide_ite, ite_self, implies_true, forall_const, sideSet_hide h_mem, h_mem]; (repeat' (first | (simp only [hide_ite, ite_self, implies_true, forall_const, sideSet_hide h_mem, h_mem]; done) | split | dsimp only))

theorem landBlock_hide {L : List Part} (h_log : Part.log ∈ L) (h_mem : Part.mem ∈ L) (h_regs : Part.regs ∈ L) (l : Landing) (k : Nat) (s : State) :
    hide L (landBlock l k s).2.2 = hide L s := by
  unfold landBlock
  simp only [hide_ite, ite_self, implies_true, forall_const, readErrors_hide h_log h_mem h_regs, blockMeta_hide h_log h_mem h_regs, h_log, h_mem, h_regs]; (repeat' (first | (simp only [hide_ite, ite_self, implies_true, forall_const, readErrors_hide h_log h_mem h_regs, blockMeta_hide h_log h_mem h_regs, h_log, h_mem, h_regs]; done) | split | dsimp only))

theorem landSettle_hide {L : List Part} (h_cores : Part.cores ∈ L) (h_fab : Part.fab ∈ L) (h_free : Part.free ∈ L) (h_grooms : Part.grooms ∈ L) (h_host : Part.host ∈ L) (h_log : Part.log ∈ L) (h_mem : Part.mem ∈ L) (h_outbox : Part.outbox ∈ L) (h_regs : Part.regs ∈ L) (h_regs2 : Part.regs2 ∈ L) (src core tag : Nat) (js ks : List Nat) (s : State) :
    hide L (landSettle src core tag js ks s).2 = hide L s := by
  unfold landSettle
  split
  · rfl
  · rename_i l _
    dsimp only
    have h1 : ∀ (r : Landing × State) j, hide L (landStamp r.1 j r.2).2 = hide L r.2 := fun r j => by simp only [hide_ite, ite_self, implies_true, forall_const, landStamp_hide h_mem, landBlock_hide h_log h_mem h_regs, landFinish_hide h_cores h_fab h_free h_grooms h_host h_log h_outbox h_regs h_regs2, landFault_hide h_fab h_host h_log h_outbox h_regs h_regs2, landPut_hide h_fab, h_cores, h_fab, h_free, h_grooms, h_host, h_log, h_mem, h_outbox, h_regs, h_regs2, hide_foldl, hide_foldl_fst, hide_foldl_snd]
    have h2 : ∀ (t : Option W16 × Landing × State) k,
        hide L (if t.1.isSome then t else landBlock t.2.1 k t.2.2).2.2 = hide L t.2.2 := fun t k => by
      split
      · rfl
      · simp only [hide_ite, ite_self, implies_true, forall_const, landStamp_hide h_mem, landBlock_hide h_log h_mem h_regs, landFinish_hide h_cores h_fab h_free h_grooms h_host h_log h_outbox h_regs h_regs2, landFault_hide h_fab h_host h_log h_outbox h_regs h_regs2, landPut_hide h_fab, h_cores, h_fab, h_free, h_grooms, h_host, h_log, h_mem, h_outbox, h_regs, h_regs2, hide_foldl, hide_foldl_fst, hide_foldl_snd]
    have h3 := hide_foldl_snd (fun (r : Landing × State) j => landStamp r.1 j r.2) js (l, s) h1
    have h4 := fun p => hide_foldl_third (fun (t : Option W16 × Landing × State) k =>
      if t.1.isSome then t else landBlock t.2.1 k t.2.2) ks p h2
    split <;> simp only [hide_ite, ite_self, implies_true, forall_const, landStamp_hide h_mem, landBlock_hide h_log h_mem h_regs, landFinish_hide h_cores h_fab h_free h_grooms h_host h_log h_outbox h_regs h_regs2, landFault_hide h_fab h_host h_log h_outbox h_regs h_regs2, landPut_hide h_fab, h_cores, h_fab, h_free, h_grooms, h_host, h_log, h_mem, h_outbox, h_regs, h_regs2, hide_foldl, hide_foldl_fst, hide_foldl_snd, h4, h3]


theorem foldGrain_hide {L : List Part} (h_log : Part.log ∈ L) (h_mem : Part.mem ∈ L) (h_regs : Part.regs ∈ L) (d : Dsc) (abs pos hint : Nat) (data : List Byte) (s : State) :
    hide L (foldGrain d abs pos hint data s).2.2 = hide L s := by
  unfold foldGrain
  simp only [hide_ite, ite_self, implies_true, forall_const, readErrors_hide h_log h_mem h_regs, hbmAccess_hide h_log h_mem h_regs, memWrite_hide h_mem, blockMeta_hide h_log h_mem h_regs, regAdd64_hide h_regs, stampWindow_hide h_mem, h_log, h_mem, h_regs]; (repeat' (first | (simp only [hide_ite, ite_self, implies_true, forall_const, readErrors_hide h_log h_mem h_regs, hbmAccess_hide h_log h_mem h_regs, memWrite_hide h_mem, blockMeta_hide h_log h_mem h_regs, regAdd64_hide h_regs, stampWindow_hide h_mem, h_log, h_mem, h_regs]; done) | split | dsimp only))

theorem cursorAdvance_hide {L : List Part} (h_fab : Part.fab ∈ L) (e p g : Nat) (s : State) :
    hide L (cursorAdvance e p g s) = hide L s := by
  unfold cursorAdvance
  simp only [hide_ite, ite_self, hide_fab h_fab]

theorem foldLand_hide {L : List Part} (h_cores : Part.cores ∈ L) (h_fab : Part.fab ∈ L) (h_free : Part.free ∈ L) (h_grooms : Part.grooms ∈ L) (h_host : Part.host ∈ L) (h_log : Part.log ∈ L) (h_mem : Part.mem ∈ L) (h_outbox : Part.outbox ∈ L) (h_regs : Part.regs ∈ L) (h_regs2 : Part.regs2 ∈ L) (l : Landing) (u : CollUse) (g pos off : Nat) (data : List Byte) (s : State) :
    hide L (foldLand l u g pos off data s).2 = hide L s := by
  unfold foldLand
  simp only [hide_ite, ite_self, implies_true, forall_const, foldGrain_hide h_log h_mem h_regs, landFinish_hide h_cores h_fab h_free h_grooms h_host h_log h_outbox h_regs h_regs2, landFault_hide h_fab h_host h_log h_outbox h_regs h_regs2, landSettle_hide h_cores h_fab h_free h_grooms h_host h_log h_mem h_outbox h_regs h_regs2, cursorAdvance_hide h_fab, landPut_hide h_fab, h_cores, h_fab, h_free, h_grooms, h_host, h_log, h_mem, h_outbox, h_regs, h_regs2]; (repeat' (first | (simp only [hide_ite, ite_self, implies_true, forall_const, foldGrain_hide h_log h_mem h_regs, landFinish_hide h_cores h_fab h_free h_grooms h_host h_log h_outbox h_regs h_regs2, landFault_hide h_fab h_host h_log h_outbox h_regs h_regs2, landSettle_hide h_cores h_fab h_free h_grooms h_host h_log h_mem h_outbox h_regs h_regs2, cursorAdvance_hide h_fab, landPut_hide h_fab, h_cores, h_fab, h_free, h_grooms, h_host, h_log, h_mem, h_outbox, h_regs, h_regs2]; done) | split | dsimp only))

theorem foldStaged_hide {L : List Part} (h_cores : Part.cores ∈ L) (h_fab : Part.fab ∈ L) (h_free : Part.free ∈ L) (h_grooms : Part.grooms ∈ L) (h_host : Part.host ∈ L) (h_log : Part.log ∈ L) (h_mem : Part.mem ∈ L) (h_outbox : Part.outbox ∈ L) (h_regs : Part.regs ∈ L) (h_regs2 : Part.regs2 ∈ L) (e p g k0 : Nat) (s : State) :
    hide L (foldStaged e p g k0 s).2 = hide L s := by
  induction k0 generalizing s with
  | zero => rfl
  | succ k ih =>
    unfold foldStaged
    repeat' (first | rfl | (simp only [hide_ite, ite_self, implies_true, forall_const, hide_fab h_fab, foldLand_hide h_cores h_fab h_free h_grooms h_host h_log h_mem h_outbox h_regs h_regs2, h_cores, h_fab, h_free, h_grooms, h_host, h_log, h_mem, h_outbox, h_regs, h_regs2, ih]; done) | dsimp only | split)


theorem rankedGrain_hide {L : List Part} (h_cores : Part.cores ∈ L) (h_fab : Part.fab ∈ L) (h_free : Part.free ∈ L) (h_grooms : Part.grooms ∈ L) (h_host : Part.host ∈ L) (h_log : Part.log ∈ L) (h_mem : Part.mem ∈ L) (h_outbox : Part.outbox ∈ L) (h_regs : Part.regs ∈ L) (h_regs2 : Part.regs2 ∈ L) (l : Landing) (u : CollUse) (f : Flit) (s : State) :
    hide L (rankedGrain l u f s).1 = hide L s := by
  unfold rankedGrain
  simp only [hide_ite, ite_self, implies_true, forall_const, hide_fab h_fab, landFinish_hide h_cores h_fab h_free h_grooms h_host h_log h_outbox h_regs h_regs2, landFault_hide h_fab h_host h_log h_outbox h_regs h_regs2, foldLand_hide h_cores h_fab h_free h_grooms h_host h_log h_mem h_outbox h_regs h_regs2, foldStaged_hide h_cores h_fab h_free h_grooms h_host h_log h_mem h_outbox h_regs h_regs2, regAdd_hide h_regs, h_cores, h_fab, h_free, h_grooms, h_host, h_log, h_mem, h_outbox, h_regs, h_regs2]; (repeat' (first | (simp only [hide_ite, ite_self, implies_true, forall_const, hide_fab h_fab, landFinish_hide h_cores h_fab h_free h_grooms h_host h_log h_outbox h_regs h_regs2, landFault_hide h_fab h_host h_log h_outbox h_regs h_regs2, foldLand_hide h_cores h_fab h_free h_grooms h_host h_log h_mem h_outbox h_regs h_regs2, foldStaged_hide h_cores h_fab h_free h_grooms h_host h_log h_mem h_outbox h_regs h_regs2, regAdd_hide h_regs, h_cores, h_fab, h_free, h_grooms, h_host, h_log, h_mem, h_outbox, h_regs, h_regs2]; done) | split | dsimp only))

theorem landMeta_hide {L : List Part} (h_cores : Part.cores ∈ L) (h_fab : Part.fab ∈ L) (h_free : Part.free ∈ L) (h_grooms : Part.grooms ∈ L) (h_host : Part.host ∈ L) (h_log : Part.log ∈ L) (h_mem : Part.mem ∈ L) (h_outbox : Part.outbox ∈ L) (h_regs : Part.regs ∈ L) (h_regs2 : Part.regs2 ∈ L) (l : Landing) (f : Flit) (s : State) :
    hide L (landMeta l f s).2 = hide L s := by
  unfold landMeta
  simp only [landSettle_hide h_cores h_fab h_free h_grooms h_host h_log h_mem h_outbox h_regs h_regs2, landPut_hide h_fab]

theorem grainErrors_hide {L : List Part} (h_log : Part.log ∈ L) (h_mem : Part.mem ∈ L) (h_regs : Part.regs ∈ L) (l : Landing) (op off : Nat) (s : State) :
    hide L (grainErrors l op off s).2 = hide L s := by
  unfold grainErrors
  simp only [hide_ite, ite_self, implies_true, forall_const, readErrors_hide h_log h_mem h_regs, metaAccess_hide h_log h_mem h_regs, hbmAccess_hide h_log h_mem h_regs, h_log, h_mem, h_regs]; (repeat' (first | (simp only [hide_ite, ite_self, implies_true, forall_const, readErrors_hide h_log h_mem h_regs, metaAccess_hide h_log h_mem h_regs, hbmAccess_hide h_log h_mem h_regs, h_log, h_mem, h_regs]; done) | split | dsimp only))

theorem landGrain_hide {L : List Part} (h_cores : Part.cores ∈ L) (h_fab : Part.fab ∈ L) (h_free : Part.free ∈ L) (h_grooms : Part.grooms ∈ L) (h_host : Part.host ∈ L) (h_log : Part.log ∈ L) (h_mem : Part.mem ∈ L) (h_outbox : Part.outbox ∈ L) (h_regs : Part.regs ∈ L) (h_regs2 : Part.regs2 ∈ L) (l : Landing) (op : Nat) (f : Flit) (s : State) :
    hide L (landGrain l op f s).2 = hide L s := by
  unfold landGrain
  simp only [hide_ite, ite_self, implies_true, forall_const, grainErrors_hide h_log h_mem h_regs, landFinish_hide h_cores h_fab h_free h_grooms h_host h_log h_outbox h_regs h_regs2, landFault_hide h_fab h_host h_log h_outbox h_regs h_regs2, hbmAccess_hide h_log h_mem h_regs, memWrite_hide h_mem, landSettle_hide h_cores h_fab h_free h_grooms h_host h_log h_mem h_outbox h_regs h_regs2, landPut_hide h_fab, h_cores, h_fab, h_free, h_grooms, h_host, h_log, h_mem, h_outbox, h_regs, h_regs2]; (repeat' (first | (simp only [hide_ite, ite_self, implies_true, forall_const, grainErrors_hide h_log h_mem h_regs, landFinish_hide h_cores h_fab h_free h_grooms h_host h_log h_outbox h_regs h_regs2, landFault_hide h_fab h_host h_log h_outbox h_regs h_regs2, hbmAccess_hide h_log h_mem h_regs, memWrite_hide h_mem, landSettle_hide h_cores h_fab h_free h_grooms h_host h_log h_mem h_outbox h_regs h_regs2, landPut_hide h_fab, h_cores, h_fab, h_free, h_grooms, h_host, h_log, h_mem, h_outbox, h_regs, h_regs2]; done) | split | dsimp only))

theorem landFail_hide {L : List Part} (h_cores : Part.cores ∈ L) (h_fab : Part.fab ∈ L) (h_free : Part.free ∈ L) (h_grooms : Part.grooms ∈ L) (h_host : Part.host ∈ L) (h_log : Part.log ∈ L) (h_outbox : Part.outbox ∈ L) (h_regs : Part.regs ∈ L) (h_regs2 : Part.regs2 ∈ L) (l : Landing) (f : Flit) (c : W16) (s : State) :
    hide L (landFail l f c s).1 = hide L s := by
  unfold landFail
  simp only [landFinish_hide h_cores h_fab h_free h_grooms h_host h_log h_outbox h_regs h_regs2, landFault_hide h_fab h_host h_log h_outbox h_regs h_regs2]

theorem landAnswer_hide {L : List Part} (r : Option W16 × State) :
    hide L (landAnswer r).1 = hide L r.2 := by
  unfold landAnswer
  split <;> rfl


theorem landTake_hide {L : List Part} (h_cores : Part.cores ∈ L) (h_fab : Part.fab ∈ L) (h_free : Part.free ∈ L) (h_grooms : Part.grooms ∈ L) (h_host : Part.host ∈ L) (h_log : Part.log ∈ L) (h_mem : Part.mem ∈ L) (h_outbox : Part.outbox ∈ L) (h_regs : Part.regs ∈ L) (h_regs2 : Part.regs2 ∈ L) (l : Landing) (f : Flit) (s : State) :
    hide L (landTake l f s).1 = hide L s := by
  unfold landTake
  simp only [hide_ite, ite_self, implies_true, forall_const, landFinish_hide h_cores h_fab h_free h_grooms h_host h_log h_outbox h_regs h_regs2, landPut_hide h_fab, landFail_hide h_cores h_fab h_free h_grooms h_host h_log h_outbox h_regs h_regs2, landAnswer_hide, landMeta_hide h_cores h_fab h_free h_grooms h_host h_log h_mem h_outbox h_regs h_regs2, rankedGrain_hide h_cores h_fab h_free h_grooms h_host h_log h_mem h_outbox h_regs h_regs2, landGrain_hide h_cores h_fab h_free h_grooms h_host h_log h_mem h_outbox h_regs h_regs2, h_cores, h_fab, h_free, h_grooms, h_host, h_log, h_mem, h_outbox, h_regs, h_regs2]; (repeat' (first | (simp only [hide_ite, ite_self, implies_true, forall_const, landFinish_hide h_cores h_fab h_free h_grooms h_host h_log h_outbox h_regs h_regs2, landPut_hide h_fab, landFail_hide h_cores h_fab h_free h_grooms h_host h_log h_outbox h_regs h_regs2, landAnswer_hide, landMeta_hide h_cores h_fab h_free h_grooms h_host h_log h_mem h_outbox h_regs h_regs2, rankedGrain_hide h_cores h_fab h_free h_grooms h_host h_log h_mem h_outbox h_regs h_regs2, landGrain_hide h_cores h_fab h_free h_grooms h_host h_log h_mem h_outbox h_regs h_regs2, h_cores, h_fab, h_free, h_grooms, h_host, h_log, h_mem, h_outbox, h_regs, h_regs2]; done) | split | dsimp only))

theorem landLearn_hide {L : List Part} (h_cores : Part.cores ∈ L) (h_fab : Part.fab ∈ L) (h_free : Part.free ∈ L) (h_grooms : Part.grooms ∈ L) (h_host : Part.host ∈ L) (h_log : Part.log ∈ L) (h_outbox : Part.outbox ∈ L) (h_regs : Part.regs ∈ L) (h_regs2 : Part.regs2 ∈ L) (l : Landing) (f : Flit) (s : State) :
    hide L (landLearn l f s).1 = hide L s := by
  unfold landLearn
  repeat' (first | (simp only [hide_ite, ite_self, implies_true, forall_const, landFail_hide h_cores h_fab h_free h_grooms h_host h_log h_outbox h_regs h_regs2, landPut_hide h_fab, h_cores, h_fab, h_free, h_grooms, h_host, h_log, h_outbox, h_regs, h_regs2]; done) | split | dsimp only | intro _ _ | (refine (hide_foldl _ _ _ ?_).trans ?_) | (refine (hide_foldl_snd _ _ _ ?_).trans ?_) | (simp only [hide, h_cores, h_fab, h_free, h_grooms, h_host, h_log, h_outbox, h_regs, h_regs2, if_true]; done) | (simp only [hide_ite, ite_self, implies_true, forall_const, landFail_hide h_cores h_fab h_free h_grooms h_host h_log h_outbox h_regs h_regs2, landPut_hide h_fab, h_cores, h_fab, h_free, h_grooms, h_host, h_log, h_outbox, h_regs, h_regs2]; simp only [hide, h_cores, h_fab, h_free, h_grooms, h_host, h_log, h_outbox, h_regs, h_regs2, if_true]; done) | simp only [hide_ite, ite_self, implies_true, forall_const, landFail_hide h_cores h_fab h_free h_grooms h_host h_log h_outbox h_regs h_regs2, landPut_hide h_fab, h_cores, h_fab, h_free, h_grooms, h_host, h_log, h_outbox, h_regs, h_regs2])

theorem landOpen_hide {L : List Part} (h_cores : Part.cores ∈ L) (h_fab : Part.fab ∈ L) (h_free : Part.free ∈ L) (h_grooms : Part.grooms ∈ L) (h_host : Part.host ∈ L) (h_log : Part.log ∈ L) (h_outbox : Part.outbox ∈ L) (h_regs : Part.regs ∈ L) (h_regs2 : Part.regs2 ∈ L) (f : Flit) (s : State) :
    hide L (landOpen f s).1 = hide L s := by
  unfold landOpen
  simp only [hide_ite, ite_self, implies_true, forall_const, hide_fab h_fab, landLearn_hide h_cores h_fab h_free h_grooms h_host h_log h_outbox h_regs h_regs2, bumpFree_hide h_free, landFail_hide h_cores h_fab h_free h_grooms h_host h_log h_outbox h_regs h_regs2, h_cores, h_fab, h_free, h_grooms, h_host, h_log, h_outbox, h_regs, h_regs2]; (repeat' (first | (simp only [hide_ite, ite_self, implies_true, forall_const, hide_fab h_fab, landLearn_hide h_cores h_fab h_free h_grooms h_host h_log h_outbox h_regs h_regs2, bumpFree_hide h_free, landFail_hide h_cores h_fab h_free h_grooms h_host h_log h_outbox h_regs h_regs2, h_cores, h_fab, h_free, h_grooms, h_host, h_log, h_outbox, h_regs, h_regs2]; done) | split | dsimp only))

theorem land_hide {L : List Part} (h_cores : Part.cores ∈ L) (h_fab : Part.fab ∈ L) (h_free : Part.free ∈ L) (h_grooms : Part.grooms ∈ L) (h_host : Part.host ∈ L) (h_log : Part.log ∈ L) (h_mem : Part.mem ∈ L) (h_outbox : Part.outbox ∈ L) (h_regs : Part.regs ∈ L) (h_regs2 : Part.regs2 ∈ L) (f : Flit) (s : State) :
    hide L (land f s).1 = hide L s := by
  unfold land
  repeat' (first | (simp only [hide_ite, ite_self, implies_true, forall_const, landTake_hide h_cores h_fab h_free h_grooms h_host h_log h_mem h_outbox h_regs h_regs2, h_cores, h_fab, h_free, h_grooms, h_host, h_log, h_mem, h_outbox, h_regs, h_regs2]; done) | split | dsimp only | intro _ _ | (refine (hide_foldl _ _ _ ?_).trans ?_) | (refine (hide_foldl_snd _ _ _ ?_).trans ?_) | (simp only [hide, h_cores, h_fab, h_free, h_grooms, h_host, h_log, h_mem, h_outbox, h_regs, h_regs2, if_true]; done) | (simp only [hide_ite, ite_self, implies_true, forall_const, landTake_hide h_cores h_fab h_free h_grooms h_host h_log h_mem h_outbox h_regs h_regs2, h_cores, h_fab, h_free, h_grooms, h_host, h_log, h_mem, h_outbox, h_regs, h_regs2]; simp only [hide, h_cores, h_fab, h_free, h_grooms, h_host, h_log, h_mem, h_outbox, h_regs, h_regs2, if_true]; done) | simp only [hide_ite, ite_self, implies_true, forall_const, landTake_hide h_cores h_fab h_free h_grooms h_host h_log h_mem h_outbox h_regs h_regs2, h_cores, h_fab, h_free, h_grooms, h_host, h_log, h_mem, h_outbox, h_regs, h_regs2])

end Sys2Proof.Machine
end

