-- ==== Sys2Proof/Laws/FramesFabric.lean ====
section
/-!
SUPPORT. The fabric, cages, the host side, reset and power: what each operation leaves alone. `f_hide` says that `f` changes the parts
named in its hypotheses at most.
-/
namespace Sys2Proof.Machine

set_option linter.unusedSimpArgs false
set_option linter.unusedTactic false
set_option linter.unreachableTactic false

theorem portMod_hide {L : List Part} (h_fab : Part.fab ∈ L) (p : Nat) (f : Port → Port) (s : State) :
    hide L (portMod p f s) = hide L s := by
  unfold portMod
  simp only [hide_fab h_fab]

theorem portStateSet_hide {L : List Part} (h_regs : Part.regs ∈ L) (p v : Nat) (s : State) :
    hide L (portStateSet p v s) = hide L s := by
  unfold portStateSet
  simp only [rfSet_hide h_regs]

theorem portLanesSet_hide {L : List Part} (h_regs : Part.regs ∈ L) (p mask : Nat) (s : State) :
    hide L (portLanesSet p mask s) = hide L s := by
  unfold portLanesSet
  simp only [rfSet_hide h_regs]

theorem wireSend_hide {L : List Part} (h_fab : Part.fab ∈ L) (h_outbox : Part.outbox ∈ L) (p : Nat) (b : SentBlk) (s : State) :
    hide L (wireSend p b s) = hide L s := by
  unfold wireSend
  simp only [emit_hide h_outbox, portMod_hide h_fab]

theorem blockSend_hide {L : List Part} (h_fab : Part.fab ∈ L) (h_outbox : Part.outbox ∈ L) (h_regs : Part.regs ∈ L) (p : Nat) (r : List Flit × List Flit × Tab Nat) (s : State) :
    hide L (blockSend p r s) = hide L s := by
  unfold blockSend
  simp only [regAdd64_hide h_regs, wireSend_hide h_fab h_outbox, portMod_hide h_fab]

theorem pumpN_hide {L : List Part} (h_fab : Part.fab ∈ L) (h_outbox : Part.outbox ∈ L) (h_regs : Part.regs ∈ L) (p : Nat) (k0 : Nat) (s : State) :
    hide L (pumpN p k0 s) = hide L s := by
  induction k0 generalizing s with
  | zero => rfl
  | succ k ih =>
    unfold pumpN
    try simp only [hide_ite, ite_self, implies_true, forall_const, blockSend_hide h_fab h_outbox h_regs, h_fab, h_outbox, h_regs, ih]
    repeat' (first | rfl | (simp only [hide_ite, ite_self, implies_true, forall_const, blockSend_hide h_fab h_outbox h_regs, h_fab, h_outbox, h_regs, ih]; done) | split)

theorem pump_hide {L : List Part} (h_fab : Part.fab ∈ L) (h_outbox : Part.outbox ∈ L) (h_regs : Part.regs ∈ L) (p : Nat) (s : State) :
    hide L (pump p s) = hide L s := by
  unfold pump
  simp only [pumpN_hide h_fab h_outbox h_regs]

theorem pumpAll_hide {L : List Part} (h_fab : Part.fab ∈ L) (h_outbox : Part.outbox ∈ L) (h_regs : Part.regs ∈ L) (s : State) :
    hide L (pumpAll s) = hide L s := by
  unfold pumpAll
  simp only [implies_true, pump_hide h_fab h_outbox h_regs, hide_foldl]

theorem linkResend_hide {L : List Part} (h_fab : Part.fab ∈ L) (h_outbox : Part.outbox ∈ L) (h_regs : Part.regs ∈ L) (p : Nat) (s : State) :
    hide L (linkResend p s) = hide L s := by
  unfold linkResend
  simp only [implies_true, regAdd_hide h_regs, wireSend_hide h_fab h_outbox, hide_foldl]

theorem rtSet_hide {L : List Part} (h_fab : Part.fab ∈ L) (p i : Nat) (v : W32) (s : State) :
    hide L (rtSet p i v s) = hide L s := by
  unfold rtSet
  simp only [hide_fab h_fab]

theorem queueOn_hide {L : List Part} (h_fab : Part.fab ∈ L) (p : Nat) (f : Flit) (s : State) :
    hide L (queueOn p f s) = hide L s := by
  unfold queueOn
  simp only [portMod_hide h_fab]

theorem bcastSend_hide {L : List Part} (h_fab : Part.fab ∈ L) (h_outbox : Part.outbox ∈ L) (h_regs : Part.regs ∈ L) (p lane : Nat) (s : State) :
    hide L (bcastSend p lane s) = hide L s := by
  unfold bcastSend
  simp only [hide_ite, ite_self, emit_hide h_outbox, regAdd64_hide h_regs, portMod_hide h_fab]

theorem groupOn_hide {L : List Part} (h_fab : Part.fab ∈ L) (h_outbox : Part.outbox ∈ L) (h_regs : Part.regs ∈ L) (f : Flit) (s : State) (p : Nat) :
    hide L (groupOn f s p) = hide L s := by
  unfold groupOn
  simp only [hide_ite, ite_self, implies_true, forall_const, portMod_hide h_fab, bcastSend_hide h_fab h_outbox h_regs, queueOn_hide h_fab, h_fab, h_outbox, h_regs]; (repeat' (first | (simp only [hide_ite, ite_self, implies_true, forall_const, portMod_hide h_fab, bcastSend_hide h_fab h_outbox h_regs, queueOn_hide h_fab, h_fab, h_outbox, h_regs]; done) | split | dsimp only))

theorem countForward_hide {L : List Part} (h_regs : Part.regs ∈ L) (src : Nat) (s : State) :
    hide L (countForward src s) = hide L s := by
  unfold countForward
  simp only [hide_ite, ite_self, regAdd_hide h_regs]

theorem routeFlit_hide {L : List Part} (h_fab : Part.fab ∈ L) (h_outbox : Part.outbox ∈ L) (h_regs : Part.regs ∈ L) (src : Nat) (f : Flit) (s : State) :
    hide L (routeFlit src f s).1 = hide L s := by
  unfold routeFlit
  simp only [hide_ite, ite_self, implies_true, forall_const, hide_fab h_fab, groupOn_hide h_fab h_outbox h_regs, countForward_hide h_regs, queueOn_hide h_fab, h_fab, h_outbox, h_regs, hide_foldl, hide_foldl_fst, hide_foldl_snd]; (repeat' (first | (simp only [hide_ite, ite_self, implies_true, forall_const, hide_fab h_fab, groupOn_hide h_fab h_outbox h_regs, countForward_hide h_regs, queueOn_hide h_fab, h_fab, h_outbox, h_regs, hide_foldl, hide_foldl_fst, hide_foldl_snd]; done) | split | dsimp only))

theorem holdInj_hide {L : List Part} (h_fab : Part.fab ∈ L) (f : Flit) (s : State) :
    hide L (holdInj f s) = hide L s := by
  unfold holdInj
  simp only [hide_fab h_fab]

theorem txPut_hide {L : List Part} (h_fab : Part.fab ∈ L) (k : Nat) (t : E2eTx) (s : State) :
    hide L (txPut k t s) = hide L s := by
  unfold txPut
  simp only [hide_fab h_fab]

theorem rxTake_hide {L : List Part} (h_fab : Part.fab ∈ L) (k seq : Nat) (s : State) :
    hide L (rxTake k seq s) = hide L s := by
  unfold rxTake
  simp only [hide_fab h_fab]

theorem respond_hide {L : List Part} (h_fab : Part.fab ∈ L) (h_free : Part.free ∈ L) (h_outbox : Part.outbox ∈ L) (h_regs : Part.regs ∈ L) (dst space seq : Nat) (fault : Option W16) (busy : Bool) (s : State) :
    hide L (respond dst space seq fault busy s) = hide L s := by
  unfold respond
  simp only [hide_ite, ite_self, hide_free h_free, emit_hide h_outbox, holdInj_hide h_fab, routeFlit_hide h_fab h_outbox h_regs]

theorem landRespond_hide {L : List Part} (h_fab : Part.fab ∈ L) (h_free : Part.free ∈ L) (h_outbox : Part.outbox ∈ L) (h_regs : Part.regs ∈ L) (f : Flit) (r : State × LandRes) :
    hide L (landRespond f r) = hide L r.1 := by
  unfold landRespond
  dsimp only
  split
  · simp only [hide_ite, ite_self, implies_true, forall_const, respond_hide h_fab h_free h_outbox h_regs, rxTake_hide h_fab, h_fab, h_free, h_outbox, h_regs, hide_foldl, hide_foldl_fst, hide_foldl_snd]
  · refine (hide_foldl _ _ _ (fun s x => ?_)).trans ?_ <;> simp only [hide_ite, ite_self, implies_true, forall_const, respond_hide h_fab h_free h_outbox h_regs, rxTake_hide h_fab, h_fab, h_free, h_outbox, h_regs, hide_foldl, hide_foldl_fst, hide_foldl_snd]
  · simp only [hide_ite, ite_self, implies_true, forall_const, respond_hide h_fab h_free h_outbox h_regs, rxTake_hide h_fab, h_fab, h_free, h_outbox, h_regs, hide_foldl, hide_foldl_fst, hide_foldl_snd]


theorem deliverData_hide {L : List Part} (h_cores : Part.cores ∈ L) (h_fab : Part.fab ∈ L) (h_free : Part.free ∈ L) (h_grooms : Part.grooms ∈ L) (h_host : Part.host ∈ L) (h_log : Part.log ∈ L) (h_mem : Part.mem ∈ L) (h_outbox : Part.outbox ∈ L) (h_regs : Part.regs ∈ L) (h_regs2 : Part.regs2 ∈ L) (f : Flit) (s : State) :
    hide L (deliverData f s) = hide L s := by
  unfold deliverData
  simp only [hide_ite, ite_self, implies_true, forall_const, hide_fab h_fab, respond_hide h_fab h_free h_outbox h_regs, regAdd_hide h_regs, landOpen_hide h_cores h_fab h_free h_grooms h_host h_log h_outbox h_regs h_regs2, landRespond_hide h_fab h_free h_outbox h_regs, land_hide h_cores h_fab h_free h_grooms h_host h_log h_mem h_outbox h_regs h_regs2, h_cores, h_fab, h_free, h_grooms, h_host, h_log, h_mem, h_outbox, h_regs, h_regs2]; (repeat' (first | (simp only [hide_ite, ite_self, implies_true, forall_const, hide_fab h_fab, respond_hide h_fab h_free h_outbox h_regs, regAdd_hide h_regs, landOpen_hide h_cores h_fab h_free h_grooms h_host h_log h_outbox h_regs h_regs2, landRespond_hide h_fab h_free h_outbox h_regs, land_hide h_cores h_fab h_free h_grooms h_host h_log h_mem h_outbox h_regs h_regs2, h_cores, h_fab, h_free, h_grooms, h_host, h_log, h_mem, h_outbox, h_regs, h_regs2]; done) | split | dsimp only))

theorem deliverCtl_hide {L : List Part} (h_fab : Part.fab ∈ L) (h_free : Part.free ∈ L) (h_log : Part.log ∈ L) (h_outbox : Part.outbox ∈ L) (h_regs : Part.regs ∈ L) (f : Flit) (s : State) :
    hide L (deliverCtl f s) = hide L s := by
  unfold deliverCtl
  simp only [hide_ite, ite_self, hide_log h_log, respond_hide h_fab h_free h_outbox h_regs, regAdd_hide h_regs, rxTake_hide h_fab]

theorem heldSet_hide {L : List Part} (h_regs : Part.regs ∈ L) (slot v : Nat) (s : State) :
    hide L (heldSet slot v s) = hide L s := by
  unfold heldSet
  simp only [reg64Set_hide h_regs]

theorem shadowWrite_hide {L : List Part} (h_ckpt : Part.ckpt ∈ L) (h_log : Part.log ∈ L) (h_mem : Part.mem ∈ L) (h_regs : Part.regs ∈ L) (f : Flit) (s : State) :
    hide L (shadowWrite f s) = hide L s := by
  unfold shadowWrite
  simp only [hide_ite, ite_self, hide_ckpt h_ckpt, heldSet_hide h_regs, hbmAccess_hide h_log h_mem h_regs, memWrite_hide h_mem]

theorem shadowGrain_hide {L : List Part} (h_ckpt : Part.ckpt ∈ L) (h_fab : Part.fab ∈ L) (h_free : Part.free ∈ L) (h_host : Part.host ∈ L) (h_log : Part.log ∈ L) (h_mem : Part.mem ∈ L) (h_outbox : Part.outbox ∈ L) (h_regs : Part.regs ∈ L) (h_regs2 : Part.regs2 ∈ L) (f : Flit) (s : State) :
    hide L (shadowGrain f s) = hide L s := by
  unfold shadowGrain
  simp only [hide_ite, ite_self, hide_fab h_fab, respond_hide h_fab h_free h_outbox h_regs, rxTake_hide h_fab, record_hide h_host h_log h_outbox h_regs h_regs2, regAdd_hide h_regs, shadowWrite_hide h_ckpt h_log h_mem h_regs]

theorem deliver_hide {L : List Part} (h_ckpt : Part.ckpt ∈ L) (h_cores : Part.cores ∈ L) (h_fab : Part.fab ∈ L) (h_free : Part.free ∈ L) (h_grooms : Part.grooms ∈ L) (h_host : Part.host ∈ L) (h_log : Part.log ∈ L) (h_mem : Part.mem ∈ L) (h_outbox : Part.outbox ∈ L) (h_regs : Part.regs ∈ L) (h_regs2 : Part.regs2 ∈ L) (f : Flit) (s : State) :
    hide L (deliver f s) = hide L s := by
  unfold deliver
  simp only [hide_ite, ite_self, deliverCtl_hide h_fab h_free h_log h_outbox h_regs, shadowGrain_hide h_ckpt h_fab h_free h_host h_log h_mem h_outbox h_regs h_regs2, deliverData_hide h_cores h_fab h_free h_grooms h_host h_log h_mem h_outbox h_regs h_regs2]

theorem drainArrivals_hide {L : List Part} (h_ckpt : Part.ckpt ∈ L) (h_cores : Part.cores ∈ L) (h_fab : Part.fab ∈ L) (h_free : Part.free ∈ L) (h_grooms : Part.grooms ∈ L) (h_host : Part.host ∈ L) (h_log : Part.log ∈ L) (h_mem : Part.mem ∈ L) (h_outbox : Part.outbox ∈ L) (h_regs : Part.regs ∈ L) (h_regs2 : Part.regs2 ∈ L) (s : State) :
    hide L (drainArrivals s) = hide L s := by
  unfold drainArrivals
  simp only [implies_true, hide_fab h_fab, deliver_hide h_ckpt h_cores h_fab h_free h_grooms h_host h_log h_mem h_outbox h_regs h_regs2, hide_foldl]

theorem injectGo_hide {L : List Part} (h_ckpt : Part.ckpt ∈ L) (h_cores : Part.cores ∈ L) (h_fab : Part.fab ∈ L) (h_free : Part.free ∈ L) (h_grooms : Part.grooms ∈ L) (h_host : Part.host ∈ L) (h_log : Part.log ∈ L) (h_mem : Part.mem ∈ L) (h_outbox : Part.outbox ∈ L) (h_regs : Part.regs ∈ L) (h_regs2 : Part.regs2 ∈ L) (f : Flit) (s : State) :
    hide L (injectGo f s) = hide L s := by
  unfold injectGo
  simp only [hide_ite, ite_self, implies_true, forall_const, queueOn_hide h_fab, routeFlit_hide h_fab h_outbox h_regs, bumpFree_hide h_free, deliver_hide h_ckpt h_cores h_fab h_free h_grooms h_host h_log h_mem h_outbox h_regs h_regs2, h_ckpt, h_cores, h_fab, h_free, h_grooms, h_host, h_log, h_mem, h_outbox, h_regs, h_regs2]; (repeat' (first | (simp only [hide_ite, ite_self, implies_true, forall_const, queueOn_hide h_fab, routeFlit_hide h_fab h_outbox h_regs, bumpFree_hide h_free, deliver_hide h_ckpt h_cores h_fab h_free h_grooms h_host h_log h_mem h_outbox h_regs h_regs2, h_ckpt, h_cores, h_fab, h_free, h_grooms, h_host, h_log, h_mem, h_outbox, h_regs, h_regs2]; done) | split | dsimp only))

theorem inject_hide {L : List Part} (h_ckpt : Part.ckpt ∈ L) (h_cores : Part.cores ∈ L) (h_fab : Part.fab ∈ L) (h_free : Part.free ∈ L) (h_grooms : Part.grooms ∈ L) (h_host : Part.host ∈ L) (h_log : Part.log ∈ L) (h_mem : Part.mem ∈ L) (h_outbox : Part.outbox ∈ L) (h_regs : Part.regs ∈ L) (h_regs2 : Part.regs2 ∈ L) (f : Flit) (s : State) :
    hide L (inject f s) = hide L s := by
  unfold inject
  simp only [hide_ite, ite_self, holdInj_hide h_fab, injectGo_hide h_ckpt h_cores h_fab h_free h_grooms h_host h_log h_mem h_outbox h_regs h_regs2]

theorem spaceGo_hide {L : List Part} (h_ckpt : Part.ckpt ∈ L) (h_cores : Part.cores ∈ L) (h_fab : Part.fab ∈ L) (h_free : Part.free ∈ L) (h_grooms : Part.grooms ∈ L) (h_host : Part.host ∈ L) (h_log : Part.log ∈ L) (h_mem : Part.mem ∈ L) (h_outbox : Part.outbox ∈ L) (h_regs : Part.regs ∈ L) (h_regs2 : Part.regs2 ∈ L) (k : Nat) (u : Unacked) (l : List Unacked) (s : State) :
    hide L (spaceGo k u l s) = hide L s := by
  unfold spaceGo
  simp only [inject_hide h_ckpt h_cores h_fab h_free h_grooms h_host h_log h_mem h_outbox h_regs h_regs2, txPut_hide h_fab]

theorem spaceSend_hide {L : List Part} (h_ckpt : Part.ckpt ∈ L) (h_cores : Part.cores ∈ L) (h_fab : Part.fab ∈ L) (h_free : Part.free ∈ L) (h_grooms : Part.grooms ∈ L) (h_host : Part.host ∈ L) (h_log : Part.log ∈ L) (h_mem : Part.mem ∈ L) (h_outbox : Part.outbox ∈ L) (h_regs : Part.regs ∈ L) (h_regs2 : Part.regs2 ∈ L) (dst space : Nat) (u : Unacked) (s : State) :
    hide L (spaceSend dst space u s) = hide L s := by
  unfold spaceSend
  simp only [hide_ite, ite_self, spaceGo_hide h_ckpt h_cores h_fab h_free h_grooms h_host h_log h_mem h_outbox h_regs h_regs2, txPut_hide h_fab]

theorem spaceDrain_hide {L : List Part} (h_ckpt : Part.ckpt ∈ L) (h_cores : Part.cores ∈ L) (h_fab : Part.fab ∈ L) (h_free : Part.free ∈ L) (h_grooms : Part.grooms ∈ L) (h_host : Part.host ∈ L) (h_log : Part.log ∈ L) (h_mem : Part.mem ∈ L) (h_outbox : Part.outbox ∈ L) (h_regs : Part.regs ∈ L) (h_regs2 : Part.regs2 ∈ L) (k : Nat) (k0 : Nat) (s : State) :
    hide L (spaceDrain k k0 s) = hide L s := by
  induction k0 generalizing s with
  | zero => rfl
  | succ k ih =>
    unfold spaceDrain
    try simp only [hide_ite, ite_self, implies_true, forall_const, spaceGo_hide h_ckpt h_cores h_fab h_free h_grooms h_host h_log h_mem h_outbox h_regs h_regs2, h_ckpt, h_cores, h_fab, h_free, h_grooms, h_host, h_log, h_mem, h_outbox, h_regs, h_regs2, ih]
    repeat' (first | rfl | (simp only [hide_ite, ite_self, implies_true, forall_const, spaceGo_hide h_ckpt h_cores h_fab h_free h_grooms h_host h_log h_mem h_outbox h_regs h_regs2, h_ckpt, h_cores, h_fab, h_free, h_grooms, h_host, h_log, h_mem, h_outbox, h_regs, h_regs2, ih]; done) | split)

theorem drainAll_hide {L : List Part} (h_ckpt : Part.ckpt ∈ L) (h_cores : Part.cores ∈ L) (h_fab : Part.fab ∈ L) (h_free : Part.free ∈ L) (h_grooms : Part.grooms ∈ L) (h_host : Part.host ∈ L) (h_log : Part.log ∈ L) (h_mem : Part.mem ∈ L) (h_outbox : Part.outbox ∈ L) (h_regs : Part.regs ∈ L) (h_regs2 : Part.regs2 ∈ L) (s : State) :
    hide L (drainAll s) = hide L s := by
  unfold drainAll
  simp only [implies_true, spaceDrain_hide h_ckpt h_cores h_fab h_free h_grooms h_host h_log h_mem h_outbox h_regs h_regs2, hide_foldl]

theorem txMap_hide {L : List Part} (h_fab : Part.fab ∈ L) (f : E2eTx → E2eTx) (s : State) :
    hide L (txMap f s) = hide L s := by
  unfold txMap
  simp only [hide_fab h_fab]

theorem copyForget_hide {L : List Part} (h_fab : Part.fab ∈ L) (n : Nat) (q : Q) (sn : Nat) (s : State) :
    hide L (copyForget n q sn s) = hide L s := by
  unfold copyForget
  simp only [txMap_hide h_fab]

theorem barrowDrop_hide {L : List Part} (h_cores : Part.cores ∈ L) (h_fab : Part.fab ∈ L) (n : Nat) (q : Q) (sn : Nat) (s : State) :
    hide L (barrowDrop n q sn s) = hide L s := by
  unfold barrowDrop
  simp only [coreMod_hide h_cores, txMap_hide h_fab]

theorem copyFault_hide {L : List Part} (h_cores : Part.cores ∈ L) (h_fab : Part.fab ∈ L) (h_host : Part.host ∈ L) (h_log : Part.log ∈ L) (h_outbox : Part.outbox ∈ L) (h_regs : Part.regs ∈ L) (h_regs2 : Part.regs2 ∈ L) (n : Nat) (q : Q) (sn : Nat) (code : W16) (s : State) :
    hide L (copyFault n q sn code s) = hide L s := by
  unfold copyFault
  simp only [implies_true, rfSet_hide h_regs, halt_hide h_cores h_host h_log h_outbox h_regs h_regs2, barrowDrop_hide h_cores h_fab, hide_foldl]

theorem sendTo_hide {L : List Part} (h_ckpt : Part.ckpt ∈ L) (h_cores : Part.cores ∈ L) (h_fab : Part.fab ∈ L) (h_free : Part.free ∈ L) (h_grooms : Part.grooms ∈ L) (h_host : Part.host ∈ L) (h_log : Part.log ∈ L) (h_mem : Part.mem ∈ L) (h_outbox : Part.outbox ∈ L) (h_regs : Part.regs ∈ L) (h_regs2 : Part.regs2 ∈ L) (dst : Nat) (m : Msg) (s : State) :
    hide L (sendTo dst m s) = hide L s := by
  unfold sendTo
  simp only [hide_ite, ite_self, hide_free h_free, emit_hide h_outbox, evAdvance_hide h_log, spaceSend_hide h_ckpt h_cores h_fab h_free h_grooms h_host h_log h_mem h_outbox h_regs h_regs2]

theorem sendRank_hide {L : List Part} (h_ckpt : Part.ckpt ∈ L) (h_cores : Part.cores ∈ L) (h_fab : Part.fab ∈ L) (h_free : Part.free ∈ L) (h_grooms : Part.grooms ∈ L) (h_host : Part.host ∈ L) (h_log : Part.log ∈ L) (h_mem : Part.mem ∈ L) (h_outbox : Part.outbox ∈ L) (h_regs : Part.regs ∈ L) (h_regs2 : Part.regs2 ∈ L) (r : Nat) (m : Msg) (s : State) :
    hide L (sendRank r m s) = hide L s := by
  unfold sendRank
  repeat' (first | (simp only [hide_ite, ite_self, implies_true, forall_const, sendTo_hide h_ckpt h_cores h_fab h_free h_grooms h_host h_log h_mem h_outbox h_regs h_regs2, record_hide h_host h_log h_outbox h_regs h_regs2, h_ckpt, h_cores, h_fab, h_free, h_grooms, h_host, h_log, h_mem, h_outbox, h_regs, h_regs2]; done) | split | dsimp only | intro _ _ | (refine (hide_foldl _ _ _ ?_).trans ?_) | (refine (hide_foldl_snd _ _ _ ?_).trans ?_) | (simp only [hide, h_ckpt, h_cores, h_fab, h_free, h_grooms, h_host, h_log, h_mem, h_outbox, h_regs, h_regs2, if_true]; done) | (simp only [hide_ite, ite_self, implies_true, forall_const, sendTo_hide h_ckpt h_cores h_fab h_free h_grooms h_host h_log h_mem h_outbox h_regs h_regs2, record_hide h_host h_log h_outbox h_regs h_regs2, h_ckpt, h_cores, h_fab, h_free, h_grooms, h_host, h_log, h_mem, h_outbox, h_regs, h_regs2]; simp only [hide, h_ckpt, h_cores, h_fab, h_free, h_grooms, h_host, h_log, h_mem, h_outbox, h_regs, h_regs2, if_true]; done) | simp only [hide_ite, ite_self, implies_true, forall_const, sendTo_hide h_ckpt h_cores h_fab h_free h_grooms h_host h_log h_mem h_outbox h_regs h_regs2, record_hide h_host h_log h_outbox h_regs h_regs2, h_ckpt, h_cores, h_fab, h_free, h_grooms, h_host, h_log, h_mem, h_outbox, h_regs, h_regs2])

theorem sendAll_hide {L : List Part} (h_ckpt : Part.ckpt ∈ L) (h_cores : Part.cores ∈ L) (h_fab : Part.fab ∈ L) (h_free : Part.free ∈ L) (h_grooms : Part.grooms ∈ L) (h_host : Part.host ∈ L) (h_log : Part.log ∈ L) (h_mem : Part.mem ∈ L) (h_outbox : Part.outbox ∈ L) (h_regs : Part.regs ∈ L) (h_regs2 : Part.regs2 ∈ L) (m : Msg) (s : State) :
    hide L (sendAll m s) = hide L s := by
  unfold sendAll
  simp only [implies_true, sendRank_hide h_ckpt h_cores h_fab h_free h_grooms h_host h_log h_mem h_outbox h_regs h_regs2, hide_foldl]

theorem shadowEnd_hide {L : List Part} (h_ckpt : Part.ckpt ∈ L) (h_cores : Part.cores ∈ L) (h_fab : Part.fab ∈ L) (h_free : Part.free ∈ L) (h_grooms : Part.grooms ∈ L) (h_host : Part.host ∈ L) (h_log : Part.log ∈ L) (h_mem : Part.mem ∈ L) (h_outbox : Part.outbox ∈ L) (h_regs : Part.regs ∈ L) (h_regs2 : Part.regs2 ∈ L) (s : State) (slot : Nat) :
    hide L (shadowEnd s slot) = hide L s := by
  unfold shadowEnd
  simp only [hide_ite, ite_self, hide_ckpt h_ckpt, sendTo_hide h_ckpt h_cores h_fab h_free h_grooms h_host h_log h_mem h_outbox h_regs h_regs2, heldSet_hide h_regs]

theorem shadowEnds_hide {L : List Part} (h_ckpt : Part.ckpt ∈ L) (h_cores : Part.cores ∈ L) (h_fab : Part.fab ∈ L) (h_free : Part.free ∈ L) (h_grooms : Part.grooms ∈ L) (h_host : Part.host ∈ L) (h_log : Part.log ∈ L) (h_mem : Part.mem ∈ L) (h_outbox : Part.outbox ∈ L) (h_regs : Part.regs ∈ L) (h_regs2 : Part.regs2 ∈ L) (s : State) :
    hide L (shadowEnds s) = hide L s := by
  unfold shadowEnds
  simp only [implies_true, shadowEnd_hide h_ckpt h_cores h_fab h_free h_grooms h_host h_log h_mem h_outbox h_regs h_regs2, hide_foldl]

theorem arrivalsGo_hide {L : List Part} (h_ckpt : Part.ckpt ∈ L) (h_cores : Part.cores ∈ L) (h_fab : Part.fab ∈ L) (h_free : Part.free ∈ L) (h_grooms : Part.grooms ∈ L) (h_host : Part.host ∈ L) (h_log : Part.log ∈ L) (h_mem : Part.mem ∈ L) (h_outbox : Part.outbox ∈ L) (h_regs : Part.regs ∈ L) (h_regs2 : Part.regs2 ∈ L) (s : State) :
    hide L (arrivalsGo s) = hide L s := by
  unfold arrivalsGo
  simp only [shadowEnds_hide h_ckpt h_cores h_fab h_free h_grooms h_host h_log h_mem h_outbox h_regs h_regs2, pumpAll_hide h_fab h_outbox h_regs, drainArrivals_hide h_ckpt h_cores h_fab h_free h_grooms h_host h_log h_mem h_outbox h_regs h_regs2]

theorem retryStuck_hide {L : List Part} (h_ckpt : Part.ckpt ∈ L) (h_cores : Part.cores ∈ L) (h_fab : Part.fab ∈ L) (h_free : Part.free ∈ L) (h_grooms : Part.grooms ∈ L) (h_host : Part.host ∈ L) (h_log : Part.log ∈ L) (h_mem : Part.mem ∈ L) (h_outbox : Part.outbox ∈ L) (h_regs : Part.regs ∈ L) (h_regs2 : Part.regs2 ∈ L) (s : State) :
    hide L (retryStuck s) = hide L s := by
  unfold retryStuck
  simp only [hide_ite, ite_self, implies_true, hide_fab h_fab, holdInj_hide h_fab, routeFlit_hide h_fab h_outbox h_regs, deliver_hide h_ckpt h_cores h_fab h_free h_grooms h_host h_log h_mem h_outbox h_regs h_regs2, hide_foldl]

theorem releaseHeld_hide {L : List Part} (h_ckpt : Part.ckpt ∈ L) (h_cores : Part.cores ∈ L) (h_fab : Part.fab ∈ L) (h_free : Part.free ∈ L) (h_grooms : Part.grooms ∈ L) (h_host : Part.host ∈ L) (h_log : Part.log ∈ L) (h_mem : Part.mem ∈ L) (h_outbox : Part.outbox ∈ L) (h_regs : Part.regs ∈ L) (h_regs2 : Part.regs2 ∈ L) (s : State) :
    hide L (releaseHeld s) = hide L s := by
  unfold releaseHeld
  simp only [implies_true, hide_fab h_fab, inject_hide h_ckpt h_cores h_fab h_free h_grooms h_host h_log h_mem h_outbox h_regs h_regs2, hide_foldl]

theorem linkClear_hide {L : List Part} (h_fab : Part.fab ∈ L) (p : Nat) (s : State) :
    hide L (linkClear p s) = hide L s := by
  unfold linkClear
  simp only [portMod_hide h_fab]

theorem portOut_hide {L : List Part} (h_fab : Part.fab ∈ L) (p : Nat) (s : State) :
    hide L (portOut p s) = hide L s := by
  unfold portOut
  simp only [portMod_hide h_fab, linkClear_hide h_fab]

theorem portDown_hide {L : List Part} (h_fab : Part.fab ∈ L) (h_host : Part.host ∈ L) (h_log : Part.log ∈ L) (h_outbox : Part.outbox ∈ L) (h_regs : Part.regs ∈ L) (h_regs2 : Part.regs2 ∈ L) (p : Nat) (s : State) :
    hide L (portDown p s) = hide L s := by
  unfold portDown
  simp only [raise_hide h_log h_regs, record_hide h_host h_log h_outbox h_regs h_regs2, portOut_hide h_fab, portStateSet_hide h_regs]

theorem tapReceive_hide {L : List Part} (h_fab : Part.fab ∈ L) (h_regs : Part.regs ∈ L) (p lane : Nat) (b : Block) (s : State) :
    hide L (tapReceive p lane b s) = hide L s := by
  unfold tapReceive
  simp only [hide_ite, ite_self, implies_true, forall_const, portMod_hide h_fab, regAdd_hide h_regs, regAdd64_hide h_regs, h_fab, h_regs]; (repeat' (first | (simp only [hide_ite, ite_self, implies_true, forall_const, portMod_hide h_fab, regAdd_hide h_regs, regAdd64_hide h_regs, h_fab, h_regs]; done) | split | dsimp only))

theorem peerLanes_hide {L : List Part} (h_fab : Part.fab ∈ L) (h_host : Part.host ∈ L) (h_log : Part.log ∈ L) (h_outbox : Part.outbox ∈ L) (h_regs : Part.regs ∈ L) (h_regs2 : Part.regs2 ∈ L) (p lanes : Nat) (s : State) :
    hide L (peerLanes p lanes s) = hide L s := by
  unfold peerLanes
  simp only [hide_ite, ite_self, portDown_hide h_fab h_host h_log h_outbox h_regs h_regs2, portLanesSet_hide h_regs]

theorem blockReceive_hide {L : List Part} (h_fab : Part.fab ∈ L) (h_free : Part.free ∈ L) (h_host : Part.host ∈ L) (h_log : Part.log ∈ L) (h_outbox : Part.outbox ∈ L) (h_regs : Part.regs ∈ L) (h_regs2 : Part.regs2 ∈ L) (p : Nat) (b : Block) (s : State) :
    hide L (blockReceive p b s) = hide L s := by
  unfold blockReceive
  simp only [hide_ite, ite_self, implies_true, forall_const, tapReceive_hide h_fab h_regs, regAdd_hide h_regs, regFree_hide h_free h_regs, portMod_hide h_fab, regAdd64_hide h_regs, peerLanes_hide h_fab h_host h_log h_outbox h_regs h_regs2, linkResend_hide h_fab h_outbox h_regs, pump_hide h_fab h_outbox h_regs, h_fab, h_free, h_host, h_log, h_outbox, h_regs, h_regs2]; (repeat' (first | (simp only [hide_ite, ite_self, implies_true, forall_const, tapReceive_hide h_fab h_regs, regAdd_hide h_regs, regFree_hide h_free h_regs, portMod_hide h_fab, regAdd64_hide h_regs, peerLanes_hide h_fab h_host h_log h_outbox h_regs h_regs2, linkResend_hide h_fab h_outbox h_regs, pump_hide h_fab h_outbox h_regs, h_fab, h_free, h_host, h_log, h_outbox, h_regs, h_regs2]; done) | split | dsimp only))

theorem linkAckTimeout_hide {L : List Part} (h_fab : Part.fab ∈ L) (h_outbox : Part.outbox ∈ L) (h_regs : Part.regs ∈ L) (p : Nat) (s : State) :
    hide L (linkAckTimeout p s) = hide L s := by
  unfold linkAckTimeout
  simp only [hide_ite, ite_self, linkResend_hide h_fab h_outbox h_regs]

theorem blockPadTimeout_hide {L : List Part} (h_fab : Part.fab ∈ L) (h_outbox : Part.outbox ∈ L) (h_regs : Part.regs ∈ L) (p : Nat) (s : State) :
    hide L (blockPadTimeout p s) = hide L s := by
  unfold blockPadTimeout
  simp only [hide_ite, ite_self, implies_true, forall_const, bcastSend_hide h_fab h_outbox h_regs, blockSend_hide h_fab h_outbox h_regs, h_fab, h_outbox, h_regs]; (repeat' (first | (simp only [hide_ite, ite_self, implies_true, forall_const, bcastSend_hide h_fab h_outbox h_regs, blockSend_hide h_fab h_outbox h_regs, h_fab, h_outbox, h_regs]; done) | split | dsimp only))

theorem paddockReject_hide {L : List Part} (h_host : Part.host ∈ L) (h_log : Part.log ∈ L) (h_outbox : Part.outbox ∈ L) (h_regs : Part.regs ∈ L) (h_regs2 : Part.regs2 ∈ L) (p : Nat) (s : State) :
    hide L (paddockReject p s) = hide L s := by
  unfold paddockReject
  simp only [raise_hide h_log h_regs, record_hide h_host h_log h_outbox h_regs h_regs2, regAdd_hide h_regs]

theorem takeFlit_hide {L : List Part} (h_fab : Part.fab ∈ L) (p vc : Nat) (s : State) :
    hide L (takeFlit p vc s).2 = hide L s := by
  unfold takeFlit
  simp only [hide_ite, ite_self, implies_true, forall_const, portMod_hide h_fab, h_fab]; (repeat' (first | (simp only [hide_ite, ite_self, implies_true, forall_const, portMod_hide h_fab, h_fab]; done) | split | dsimp only))

theorem flitReceive_hide {L : List Part} (h_ckpt : Part.ckpt ∈ L) (h_cores : Part.cores ∈ L) (h_fab : Part.fab ∈ L) (h_free : Part.free ∈ L) (h_grooms : Part.grooms ∈ L) (h_host : Part.host ∈ L) (h_log : Part.log ∈ L) (h_mem : Part.mem ∈ L) (h_outbox : Part.outbox ∈ L) (h_regs : Part.regs ∈ L) (h_regs2 : Part.regs2 ∈ L) (p vc : Nat) (s : State) :
    hide L (flitReceive p vc s) = hide L s := by
  unfold flitReceive
  simp only [hide_ite, ite_self, implies_true, forall_const, takeFlit_hide h_fab, paddockReject_hide h_host h_log h_outbox h_regs h_regs2, pumpAll_hide h_fab h_outbox h_regs, deliver_hide h_ckpt h_cores h_fab h_free h_grooms h_host h_log h_mem h_outbox h_regs h_regs2, routeFlit_hide h_fab h_outbox h_regs, shadowEnds_hide h_ckpt h_cores h_fab h_free h_grooms h_host h_log h_mem h_outbox h_regs h_regs2, h_ckpt, h_cores, h_fab, h_free, h_grooms, h_host, h_log, h_mem, h_outbox, h_regs, h_regs2]; (repeat' (first | (simp only [hide_ite, ite_self, implies_true, forall_const, takeFlit_hide h_fab, paddockReject_hide h_host h_log h_outbox h_regs h_regs2, pumpAll_hide h_fab h_outbox h_regs, deliver_hide h_ckpt h_cores h_fab h_free h_grooms h_host h_log h_mem h_outbox h_regs h_regs2, routeFlit_hide h_fab h_outbox h_regs, shadowEnds_hide h_ckpt h_cores h_fab h_free h_grooms h_host h_log h_mem h_outbox h_regs h_regs2, h_ckpt, h_cores, h_fab, h_free, h_grooms, h_host, h_log, h_mem, h_outbox, h_regs, h_regs2]; done) | split | dsimp only))

theorem noRouteTimeout_hide {L : List Part} (h_fab : Part.fab ∈ L) (h_log : Part.log ∈ L) (h_regs : Part.regs ∈ L) (src : Nat) (s : State) :
    hide L (noRouteTimeout src s) = hide L s := by
  unfold noRouteTimeout
  simp only [hide_ite, ite_self, implies_true, forall_const, hide_fab h_fab, regAdd_hide h_regs, raise_hide h_log h_regs, h_fab, h_log, h_regs]; (repeat' (first | (simp only [hide_ite, ite_self, implies_true, forall_const, hide_fab h_fab, regAdd_hide h_regs, raise_hide h_log h_regs, h_fab, h_log, h_regs]; done) | split | dsimp only))

theorem e2eResponse_hide {L : List Part} (h_ckpt : Part.ckpt ∈ L) (h_cores : Part.cores ∈ L) (h_fab : Part.fab ∈ L) (h_free : Part.free ∈ L) (h_grooms : Part.grooms ∈ L) (h_host : Part.host ∈ L) (h_log : Part.log ∈ L) (h_mem : Part.mem ∈ L) (h_outbox : Part.outbox ∈ L) (h_regs : Part.regs ∈ L) (h_regs2 : Part.regs2 ∈ L) (src space : Nat) (cum : W16) (bitmap : List Nat) (fault : Option (W16 × W16)) (s : State) :
    hide L (e2eResponse src space cum bitmap fault s) = hide L s := by
  unfold e2eResponse
  simp only [hide_ite, ite_self, implies_true, forall_const, txPut_hide h_fab, copyFault_hide h_cores h_fab h_host h_log h_outbox h_regs h_regs2, pumpAll_hide h_fab h_outbox h_regs, drainAll_hide h_ckpt h_cores h_fab h_free h_grooms h_host h_log h_mem h_outbox h_regs h_regs2, h_ckpt, h_cores, h_fab, h_free, h_grooms, h_host, h_log, h_mem, h_outbox, h_regs, h_regs2]; (repeat' (first | (simp only [hide_ite, ite_self, implies_true, forall_const, txPut_hide h_fab, copyFault_hide h_cores h_fab h_host h_log h_outbox h_regs h_regs2, pumpAll_hide h_fab h_outbox h_regs, drainAll_hide h_ckpt h_cores h_fab h_free h_grooms h_host h_log h_mem h_outbox h_regs h_regs2, h_ckpt, h_cores, h_fab, h_free, h_grooms, h_host, h_log, h_mem, h_outbox, h_regs, h_regs2]; done) | split | dsimp only))

theorem resendOne_hide {L : List Part} (h_ckpt : Part.ckpt ∈ L) (h_cores : Part.cores ∈ L) (h_fab : Part.fab ∈ L) (h_free : Part.free ∈ L) (h_grooms : Part.grooms ∈ L) (h_host : Part.host ∈ L) (h_log : Part.log ∈ L) (h_mem : Part.mem ∈ L) (h_outbox : Part.outbox ∈ L) (h_regs : Part.regs ∈ L) (h_regs2 : Part.regs2 ∈ L) (u : Unacked) (s : State) :
    hide L (resendOne u s) = hide L s := by
  unfold resendOne
  simp only [hide_ite, ite_self, implies_true, inject_hide h_ckpt h_cores h_fab h_free h_grooms h_host h_log h_mem h_outbox h_regs h_regs2, hide_foldl]

theorem e2eResendTimeout_hide {L : List Part} (h_ckpt : Part.ckpt ∈ L) (h_cores : Part.cores ∈ L) (h_fab : Part.fab ∈ L) (h_free : Part.free ∈ L) (h_grooms : Part.grooms ∈ L) (h_host : Part.host ∈ L) (h_log : Part.log ∈ L) (h_mem : Part.mem ∈ L) (h_outbox : Part.outbox ∈ L) (h_regs : Part.regs ∈ L) (h_regs2 : Part.regs2 ∈ L) (dst space : Nat) (seq : W16) (s : State) :
    hide L (e2eResendTimeout dst space seq s) = hide L s := by
  unfold e2eResendTimeout
  repeat' (first | (simp only [hide_ite, ite_self, implies_true, forall_const, pumpAll_hide h_fab h_outbox h_regs, resendOne_hide h_ckpt h_cores h_fab h_free h_grooms h_host h_log h_mem h_outbox h_regs h_regs2, regAdd_hide h_regs, h_ckpt, h_cores, h_fab, h_free, h_grooms, h_host, h_log, h_mem, h_outbox, h_regs, h_regs2]; done) | split | dsimp only | intro _ _ | (refine (hide_foldl _ _ _ ?_).trans ?_) | (refine (hide_foldl_snd _ _ _ ?_).trans ?_) | (simp only [hide, h_ckpt, h_cores, h_fab, h_free, h_grooms, h_host, h_log, h_mem, h_outbox, h_regs, h_regs2, if_true]; done) | (simp only [hide_ite, ite_self, implies_true, forall_const, pumpAll_hide h_fab h_outbox h_regs, resendOne_hide h_ckpt h_cores h_fab h_free h_grooms h_host h_log h_mem h_outbox h_regs h_regs2, regAdd_hide h_regs, h_ckpt, h_cores, h_fab, h_free, h_grooms, h_host, h_log, h_mem, h_outbox, h_regs, h_regs2]; simp only [hide, h_ckpt, h_cores, h_fab, h_free, h_grooms, h_host, h_log, h_mem, h_outbox, h_regs, h_regs2, if_true]; done) | simp only [hide_ite, ite_self, implies_true, forall_const, pumpAll_hide h_fab h_outbox h_regs, resendOne_hide h_ckpt h_cores h_fab h_free h_grooms h_host h_log h_mem h_outbox h_regs h_regs2, regAdd_hide h_regs, h_ckpt, h_cores, h_fab, h_free, h_grooms, h_host, h_log, h_mem, h_outbox, h_regs, h_regs2])

theorem busyRetry_hide {L : List Part} (h_ckpt : Part.ckpt ∈ L) (h_cores : Part.cores ∈ L) (h_fab : Part.fab ∈ L) (h_free : Part.free ∈ L) (h_grooms : Part.grooms ∈ L) (h_host : Part.host ∈ L) (h_log : Part.log ∈ L) (h_mem : Part.mem ∈ L) (h_outbox : Part.outbox ∈ L) (h_regs : Part.regs ∈ L) (h_regs2 : Part.regs2 ∈ L) (dst space : Nat) (seq : W16) (s : State) :
    hide L (busyRetry dst space seq s) = hide L s := by
  unfold busyRetry
  repeat' (first | (simp only [hide_ite, ite_self, implies_true, forall_const, pumpAll_hide h_fab h_outbox h_regs, resendOne_hide h_ckpt h_cores h_fab h_free h_grooms h_host h_log h_mem h_outbox h_regs h_regs2, regAdd_hide h_regs, h_ckpt, h_cores, h_fab, h_free, h_grooms, h_host, h_log, h_mem, h_outbox, h_regs, h_regs2]; done) | split | dsimp only | intro _ _ | (refine (hide_foldl _ _ _ ?_).trans ?_) | (refine (hide_foldl_snd _ _ _ ?_).trans ?_) | (simp only [hide, h_ckpt, h_cores, h_fab, h_free, h_grooms, h_host, h_log, h_mem, h_outbox, h_regs, h_regs2, if_true]; done) | (simp only [hide_ite, ite_self, implies_true, forall_const, pumpAll_hide h_fab h_outbox h_regs, resendOne_hide h_ckpt h_cores h_fab h_free h_grooms h_host h_log h_mem h_outbox h_regs h_regs2, regAdd_hide h_regs, h_ckpt, h_cores, h_fab, h_free, h_grooms, h_host, h_log, h_mem, h_outbox, h_regs, h_regs2]; simp only [hide, h_ckpt, h_cores, h_fab, h_free, h_grooms, h_host, h_log, h_mem, h_outbox, h_regs, h_regs2, if_true]; done) | simp only [hide_ite, ite_self, implies_true, forall_const, pumpAll_hide h_fab h_outbox h_regs, resendOne_hide h_ckpt h_cores h_fab h_free h_grooms h_host h_log h_mem h_outbox h_regs h_regs2, regAdd_hide h_regs, h_ckpt, h_cores, h_fab, h_free, h_grooms, h_host, h_log, h_mem, h_outbox, h_regs, h_regs2])

theorem deliveryLost_hide {L : List Part} (h_cores : Part.cores ∈ L) (h_fab : Part.fab ∈ L) (h_host : Part.host ∈ L) (h_log : Part.log ∈ L) (h_outbox : Part.outbox ∈ L) (h_regs : Part.regs ∈ L) (h_regs2 : Part.regs2 ∈ L) (dst space : Nat) (seq : W16) (s : State) :
    hide L (deliveryLost dst space seq s) = hide L s := by
  unfold deliveryLost
  simp only [hide_ite, ite_self, implies_true, forall_const, txPut_hide h_fab, copyForget_hide h_fab, copyFault_hide h_cores h_fab h_host h_log h_outbox h_regs h_regs2, record_hide h_host h_log h_outbox h_regs h_regs2, h_cores, h_fab, h_host, h_log, h_outbox, h_regs, h_regs2]; (repeat' (first | (simp only [hide_ite, ite_self, implies_true, forall_const, txPut_hide h_fab, copyForget_hide h_fab, copyFault_hide h_cores h_fab h_host h_log h_outbox h_regs h_regs2, record_hide h_host h_log h_outbox h_regs h_regs2, h_cores, h_fab, h_host, h_log, h_outbox, h_regs, h_regs2]; done) | split | dsimp only))

theorem coordPut_hide {L : List Part} (h_hitch : Part.hitch ∈ L) (h : HitchC) (s : State) :
    hide L (coordPut h s) = hide L s := by
  unfold coordPut
  simp only [hide_hitch h_hitch]

theorem partPut_hide {L : List Part} (h_hitch : Part.hitch ∈ L) (h : HitchP) (s : State) :
    hide L (partPut h s) = hide L s := by
  unfold partPut
  simp only [hide_hitch h_hitch]

theorem partDrop_hide {L : List Part} (h_hitch : Part.hitch ∈ L) (num : W16) (s : State) :
    hide L (partDrop num s) = hide L s := by
  unfold partDrop
  simp only [hide_hitch h_hitch]

theorem coordSend_hide {L : List Part} (h_ckpt : Part.ckpt ∈ L) (h_cores : Part.cores ∈ L) (h_fab : Part.fab ∈ L) (h_free : Part.free ∈ L) (h_grooms : Part.grooms ∈ L) (h_host : Part.host ∈ L) (h_log : Part.log ∈ L) (h_mem : Part.mem ∈ L) (h_outbox : Part.outbox ∈ L) (h_regs : Part.regs ∈ L) (h_regs2 : Part.regs2 ∈ L) (h : HitchC) (m : Msg) (s : State) :
    hide L (coordSend h m s) = hide L s := by
  unfold coordSend
  simp only [hide_ite, ite_self, implies_true, sendRank_hide h_ckpt h_cores h_fab h_free h_grooms h_host h_log h_mem h_outbox h_regs h_regs2, hide_foldl]

theorem prepareSend_hide {L : List Part} (h_ckpt : Part.ckpt ∈ L) (h_cores : Part.cores ∈ L) (h_fab : Part.fab ∈ L) (h_free : Part.free ∈ L) (h_grooms : Part.grooms ∈ L) (h_hitch : Part.hitch ∈ L) (h_host : Part.host ∈ L) (h_log : Part.log ∈ L) (h_mem : Part.mem ∈ L) (h_outbox : Part.outbox ∈ L) (h_regs : Part.regs ∈ L) (h_regs2 : Part.regs2 ∈ L) (h : HitchC) (s : State) :
    hide L (prepareSend h s) = hide L s := by
  unfold prepareSend
  simp only [hide_ite, ite_self, implies_true, forall_const, coordPut_hide h_hitch, coordSend_hide h_ckpt h_cores h_fab h_free h_grooms h_host h_log h_mem h_outbox h_regs h_regs2, sendRank_hide h_ckpt h_cores h_fab h_free h_grooms h_host h_log h_mem h_outbox h_regs h_regs2, h_ckpt, h_cores, h_fab, h_free, h_grooms, h_hitch, h_host, h_log, h_mem, h_outbox, h_regs, h_regs2]; (repeat' (first | (simp only [hide_ite, ite_self, implies_true, forall_const, coordPut_hide h_hitch, coordSend_hide h_ckpt h_cores h_fab h_free h_grooms h_host h_log h_mem h_outbox h_regs h_regs2, sendRank_hide h_ckpt h_cores h_fab h_free h_grooms h_host h_log h_mem h_outbox h_regs h_regs2, h_ckpt, h_cores, h_fab, h_free, h_grooms, h_hitch, h_host, h_log, h_mem, h_outbox, h_regs, h_regs2]; done) | split | dsimp only))

theorem hitchNew_hide {L : List Part} (h_hitch : Part.hitch ∈ L) (ranks : List Nat) (limit : Nat) (acts : List (Nat × Action)) (src : HSource) (s : State) :
    hide L (hitchNew ranks limit acts src s).2 = hide L s := by
  unfold hitchNew
  simp only [hide_hitch h_hitch]

theorem yardHitch_hide {L : List Part} (h_ckpt : Part.ckpt ∈ L) (h_cores : Part.cores ∈ L) (h_fab : Part.fab ∈ L) (h_free : Part.free ∈ L) (h_grooms : Part.grooms ∈ L) (h_hitch : Part.hitch ∈ L) (h_host : Part.host ∈ L) (h_log : Part.log ∈ L) (h_mem : Part.mem ∈ L) (h_outbox : Part.outbox ∈ L) (h_regs : Part.regs ∈ L) (h_regs2 : Part.regs2 ∈ L) (ranks : List Nat) (acts : List (Nat × Action)) (s : State) :
    hide L (yardHitch ranks acts s) = hide L s := by
  unfold yardHitch
  simp only [hitchNew_hide h_hitch, prepareSend_hide h_ckpt h_cores h_fab h_free h_grooms h_hitch h_host h_log h_mem h_outbox h_regs h_regs2]

theorem laneAddHitch_hide {L : List Part} (h_ckpt : Part.ckpt ∈ L) (h_cores : Part.cores ∈ L) (h_fab : Part.fab ∈ L) (h_free : Part.free ∈ L) (h_grooms : Part.grooms ∈ L) (h_hitch : Part.hitch ∈ L) (h_host : Part.host ∈ L) (h_log : Part.log ∈ L) (h_mem : Part.mem ∈ L) (h_outbox : Part.outbox ∈ L) (h_regs : Part.regs ∈ L) (h_regs2 : Part.regs2 ∈ L) (p : Nat) (lanes : List Nat) (s : State) :
    hide L (laneAddHitch p lanes s) = hide L s := by
  unfold laneAddHitch
  simp only [hide_ite, ite_self, portMod_hide h_fab, yardHitch_hide h_ckpt h_cores h_fab h_free h_grooms h_hitch h_host h_log h_mem h_outbox h_regs h_regs2]

theorem laneAddRetry_hide {L : List Part} (h_ckpt : Part.ckpt ∈ L) (h_cores : Part.cores ∈ L) (h_fab : Part.fab ∈ L) (h_free : Part.free ∈ L) (h_grooms : Part.grooms ∈ L) (h_hitch : Part.hitch ∈ L) (h_host : Part.host ∈ L) (h_log : Part.log ∈ L) (h_mem : Part.mem ∈ L) (h_outbox : Part.outbox ∈ L) (h_regs : Part.regs ∈ L) (h_regs2 : Part.regs2 ∈ L) (s : State) :
    hide L (laneAddRetry s) = hide L s := by
  unfold laneAddRetry
  simp only [hide_ite, ite_self, implies_true, laneAddHitch_hide h_ckpt h_cores h_fab h_free h_grooms h_hitch h_host h_log h_mem h_outbox h_regs h_regs2, portMod_hide h_fab, hide_foldl]

theorem shedLane_hide {L : List Part} (h_fab : Part.fab ∈ L) (h_host : Part.host ∈ L) (h_log : Part.log ∈ L) (h_outbox : Part.outbox ∈ L) (h_regs : Part.regs ∈ L) (h_regs2 : Part.regs2 ∈ L) (p lane : Nat) (s : State) :
    hide L (shedLane p lane s) = hide L s := by
  unfold shedLane
  simp only [hide_ite, ite_self, portLanesSet_hide h_regs, regAdd_hide h_regs, raise_hide h_log h_regs, record_hide h_host h_log h_outbox h_regs h_regs2, portDown_hide h_fab h_host h_log h_outbox h_regs h_regs2, portStateSet_hide h_regs]

theorem laneShed_hide {L : List Part} (h_fab : Part.fab ∈ L) (h_host : Part.host ∈ L) (h_log : Part.log ∈ L) (h_outbox : Part.outbox ∈ L) (h_regs : Part.regs ∈ L) (h_regs2 : Part.regs2 ∈ L) (p lane : Nat) (s : State) :
    hide L (laneShed p lane s) = hide L s := by
  unfold laneShed
  simp only [hide_ite, ite_self, portMod_hide h_fab, shedLane_hide h_fab h_host h_log h_outbox h_regs h_regs2]

theorem laneReacquire_hide {L : List Part} (h_fab : Part.fab ∈ L) (p lane : Nat) (s : State) :
    hide L (laneReacquire p lane s) = hide L s := by
  unfold laneReacquire
  simp only [portMod_hide h_fab]

theorem laneShedResume_hide {L : List Part} (h_ckpt : Part.ckpt ∈ L) (h_cores : Part.cores ∈ L) (h_fab : Part.fab ∈ L) (h_free : Part.free ∈ L) (h_grooms : Part.grooms ∈ L) (h_host : Part.host ∈ L) (h_log : Part.log ∈ L) (h_mem : Part.mem ∈ L) (h_outbox : Part.outbox ∈ L) (h_regs : Part.regs ∈ L) (h_regs2 : Part.regs2 ∈ L) (p : Nat) (s : State) :
    hide L (laneShedResume p s) = hide L s := by
  unfold laneShedResume
  simp only [hide_ite, ite_self, pumpAll_hide h_fab h_outbox h_regs, retryStuck_hide h_ckpt h_cores h_fab h_free h_grooms h_host h_log h_mem h_outbox h_regs h_regs2, linkResend_hide h_fab h_outbox h_regs, portStateSet_hide h_regs, regFree_hide h_free h_regs]

theorem portTrain_hide {L : List Part} (h_regs : Part.regs ∈ L) (p : Nat) (s : State) :
    hide L (portTrain p s) = hide L s := by
  unfold portTrain
  simp only [hide_ite, ite_self, portStateSet_hide h_regs]

theorem pairingSend_hide {L : List Part} (h_ckpt : Part.ckpt ∈ L) (h_cores : Part.cores ∈ L) (h_fab : Part.fab ∈ L) (h_free : Part.free ∈ L) (h_grooms : Part.grooms ∈ L) (h_host : Part.host ∈ L) (h_log : Part.log ∈ L) (h_mem : Part.mem ∈ L) (h_outbox : Part.outbox ∈ L) (h_regs : Part.regs ∈ L) (h_regs2 : Part.regs2 ∈ L) (p : Nat) (s : State) :
    hide L (pairingSend p s) = hide L s := by
  unfold pairingSend
  simp only [hide_ite, ite_self, hide_ckpt h_ckpt, sendTo_hide h_ckpt h_cores h_fab h_free h_grooms h_host h_log h_mem h_outbox h_regs h_regs2]

theorem imagesOffer_hide {L : List Part} (h_outbox : Part.outbox ∈ L) (p : Nat) (s : State) :
    hide L (imagesOffer p s) = hide L s := by
  unfold imagesOffer
  simp only [hide_ite, ite_self, emit_hide h_outbox]

theorem portTrainDone_hide {L : List Part} (h_ckpt : Part.ckpt ∈ L) (h_cores : Part.cores ∈ L) (h_fab : Part.fab ∈ L) (h_free : Part.free ∈ L) (h_grooms : Part.grooms ∈ L) (h_host : Part.host ∈ L) (h_log : Part.log ∈ L) (h_mem : Part.mem ∈ L) (h_outbox : Part.outbox ∈ L) (h_regs : Part.regs ∈ L) (h_regs2 : Part.regs2 ∈ L) (p lanes : Nat) (seen : W32) (s : State) :
    hide L (portTrainDone p lanes seen s) = hide L s := by
  unfold portTrainDone
  simp only [hide_ite, ite_self, portStateSet_hide h_regs, portLanesSet_hide h_regs, regSet_hide h_regs, raise_hide h_log h_regs, record_hide h_host h_log h_outbox h_regs h_regs2, portOut_hide h_fab, linkClear_hide h_fab, portDown_hide h_fab h_host h_log h_outbox h_regs h_regs2, pumpAll_hide h_fab h_outbox h_regs, retryStuck_hide h_ckpt h_cores h_fab h_free h_grooms h_host h_log h_mem h_outbox h_regs h_regs2, imagesOffer_hide h_outbox, pairingSend_hide h_ckpt h_cores h_fab h_free h_grooms h_host h_log h_mem h_outbox h_regs h_regs2]

theorem lanesApply_hide {L : List Part} (h_fab : Part.fab ∈ L) (h_host : Part.host ∈ L) (h_log : Part.log ∈ L) (h_outbox : Part.outbox ∈ L) (h_regs : Part.regs ∈ L) (h_regs2 : Part.regs2 ∈ L) (p mask : Nat) (s : State) :
    hide L (lanesApply p mask s) = hide L s := by
  unfold lanesApply
  simp only [hide_ite, ite_self, portLanesSet_hide h_regs, raise_hide h_log h_regs, portMod_hide h_fab, portStateSet_hide h_regs, portDown_hide h_fab h_host h_log h_outbox h_regs h_regs2]

theorem swapNotice_hide {L : List Part} (h_ckpt : Part.ckpt ∈ L) (h_cores : Part.cores ∈ L) (h_fab : Part.fab ∈ L) (h_free : Part.free ∈ L) (h_grooms : Part.grooms ∈ L) (h_host : Part.host ∈ L) (h_log : Part.log ∈ L) (h_mem : Part.mem ∈ L) (h_outbox : Part.outbox ∈ L) (h_regs : Part.regs ∈ L) (h_regs2 : Part.regs2 ∈ L) (p lane : Nat) (s : State) :
    hide L (swapNotice p lane s) = hide L s := by
  unfold swapNotice
  simp only [hide_ite, ite_self, sendTo_hide h_ckpt h_cores h_fab h_free h_grooms h_host h_log h_mem h_outbox h_regs h_regs2, portMod_hide h_fab]

theorem swapMaskExpire_hide {L : List Part} (h_fab : Part.fab ∈ L) (h_host : Part.host ∈ L) (h_log : Part.log ∈ L) (h_outbox : Part.outbox ∈ L) (h_regs : Part.regs ∈ L) (h_regs2 : Part.regs2 ∈ L) (p lane : Nat) (s : State) :
    hide L (swapMaskExpire p lane s) = hide L s := by
  unfold swapMaskExpire
  simp only [hide_ite, ite_self, portMod_hide h_fab, shedLane_hide h_fab h_host h_log h_outbox h_regs h_regs2]

theorem cageMod_hide {L : List Part} (h_cages : Part.cages ∈ L) (g : Nat) (f : Cage → Cage) (s : State) :
    hide L (cageMod g f s) = hide L s := by
  unfold cageMod
  simp only [hide_cages h_cages]

theorem cageStateSet_hide {L : List Part} (h_regs : Part.regs ∈ L) (g v : Nat) (s : State) :
    hide L (cageStateSet g v s) = hide L s := by
  unfold cageStateSet
  simp only [rfSet_hide h_regs]

theorem ringStateSet_hide {L : List Part} (h_regs : Part.regs ∈ L) (g r v : Nat) (s : State) :
    hide L (ringStateSet g r v s) = hide L s := by
  unfold ringStateSet
  simp only [rfSet_hide h_regs]

theorem ringCode_hide {L : List Part} (h_regs : Part.regs ∈ L) (g r v : Nat) (s : State) :
    hide L (ringCode g r v s) = hide L s := by
  unfold ringCode
  simp only [rfSet_hide h_regs]

theorem laserPosSet_hide {L : List Part} (h_regs : Part.regs ∈ L) (g l v : Nat) (s : State) :
    hide L (laserPosSet g l v s) = hide L s := by
  unfold laserPosSet
  simp only [rfSet_hide h_regs]

theorem beatStop_hide {L : List Part} (h_cages : Part.cages ∈ L) (g : Nat) (s : State) :
    hide L (beatStop g s) = hide L s := by
  unfold beatStop
  simp only [cageMod_hide h_cages]

theorem laserPut_hide {L : List Part} (h_cages : Part.cages ∈ L) (h_regs : Part.regs ∈ L) (g l word pos : Nat) (s : State) :
    hide L (laserPut g l word pos s) = hide L s := by
  unfold laserPut
  simp only [laserPosSet_hide h_regs, cageMod_hide h_cages]

theorem spareSeen_hide {L : List Part} (h_cages : Part.cages ∈ L) (h_regs : Part.regs ∈ L) (g : Nat) (x : Option (Fin 4 × Fin 8)) (s : State) :
    hide L (spareSeen g x s) = hide L s := by
  unfold spareSeen
  simp only [hide_ite, ite_self, implies_true, forall_const, rfSet_hide h_regs, cageMod_hide h_cages, laserPosSet_hide h_regs, h_cages, h_regs]; (repeat' (first | (simp only [hide_ite, ite_self, implies_true, forall_const, rfSet_hide h_regs, cageMod_hide h_cages, laserPosSet_hide h_regs, h_cages, h_regs]; done) | split | dsimp only))

theorem lasersOn_hide {L : List Part} (h_cages : Part.cages ∈ L) (h_regs : Part.regs ∈ L) (g : Nat) (s : State) :
    hide L (lasersOn g s) = hide L s := by
  unfold lasersOn
  simp only [hide_ite, ite_self, implies_true, forall_const, laserPut_hide h_cages h_regs, h_cages, h_regs, hide_foldl, hide_foldl_fst, hide_foldl_snd]; (repeat' (first | (simp only [hide_ite, ite_self, implies_true, forall_const, laserPut_hide h_cages h_regs, h_cages, h_regs, hide_foldl, hide_foldl_fst, hide_foldl_snd]; done) | split | dsimp only))

theorem bringupBegin_hide {L : List Part} (h_cages : Part.cages ∈ L) (h_host : Part.host ∈ L) (h_log : Part.log ∈ L) (h_outbox : Part.outbox ∈ L) (h_regs : Part.regs ∈ L) (h_regs2 : Part.regs2 ∈ L) (g : Nat) (rec : Option StoterRecord) (spare : Option (Fin 4 × Fin 8)) (s : State) :
    hide L (bringupBegin g rec spare s) = hide L s := by
  unfold bringupBegin
  simp only [hide_ite, ite_self, implies_true, forall_const, cageStateSet_hide h_regs, cageMod_hide h_cages, lasersOn_hide h_cages h_regs, spareSeen_hide h_cages h_regs, record_hide h_host h_log h_outbox h_regs h_regs2, beatStop_hide h_cages, raise_hide h_log h_regs, h_cages, h_host, h_log, h_outbox, h_regs, h_regs2]; (repeat' (first | (simp only [hide_ite, ite_self, implies_true, forall_const, cageStateSet_hide h_regs, cageMod_hide h_cages, lasersOn_hide h_cages h_regs, spareSeen_hide h_cages h_regs, record_hide h_host h_log h_outbox h_regs h_regs2, beatStop_hide h_cages, raise_hide h_log h_regs, h_cages, h_host, h_log, h_outbox, h_regs, h_regs2]; done) | split | dsimp only))

theorem monNote_hide {L : List Part} (h_cages : Part.cages ∈ L) (h_regs : Part.regs ∈ L) (g : Nat) (samples : List W16) (s : State) :
    hide L (monNote g samples s) = hide L s := by
  unfold monNote
  simp only [hide_ite, ite_self, implies_true, cageMod_hide h_cages, regSet_hide h_regs, hide_foldl]

theorem oclFrameReceive_hide {L : List Part} (h_cages : Part.cages ∈ L) (h_free : Part.free ∈ L) (h_host : Part.host ∈ L) (h_log : Part.log ∈ L) (h_outbox : Part.outbox ∈ L) (h_regs : Part.regs ∈ L) (h_regs2 : Part.regs2 ∈ L) (g : Nat) (f : OclFrame) (rec : Option StoterRecord) (spare : Option (Fin 4 × Fin 8)) (s : State) :
    hide L (oclFrameReceive g f rec spare s) = hide L s := by
  unfold oclFrameReceive
  simp only [hide_ite, ite_self, regAdd_hide h_regs, cageMod_hide h_cages, countOn_hide h_free h_regs, rfSet_hide h_regs, monNote_hide h_cages h_regs, bringupBegin_hide h_cages h_host h_log h_outbox h_regs h_regs2]

theorem oclFrameSend_hide {L : List Part} (h_cages : Part.cages ∈ L) (h_free : Part.free ∈ L) (h_outbox : Part.outbox ∈ L) (g : Nat) (s : State) :
    hide L (oclFrameSend g s) = hide L s := by
  unfold oclFrameSend
  simp only [hide_ite, ite_self, hide_free h_free, emit_hide h_outbox, cageMod_hide h_cages]

theorem cageQuarantine_hide {L : List Part} (h_cages : Part.cages ∈ L) (h_fab : Part.fab ∈ L) (h_host : Part.host ∈ L) (h_log : Part.log ∈ L) (h_outbox : Part.outbox ∈ L) (h_regs : Part.regs ∈ L) (h_regs2 : Part.regs2 ∈ L) (g : Nat) (s : State) :
    hide L (cageQuarantine g s) = hide L s := by
  unfold cageQuarantine
  simp only [hide_ite, ite_self, implies_true, forall_const, ringStateSet_hide h_regs, cageMod_hide h_cages, portLanesSet_hide h_regs, portDown_hide h_fab h_host h_log h_outbox h_regs h_regs2, h_cages, h_fab, h_host, h_log, h_outbox, h_regs, h_regs2, hide_foldl, hide_foldl_fst, hide_foldl_snd]; (repeat' (first | (simp only [hide_ite, ite_self, implies_true, forall_const, ringStateSet_hide h_regs, cageMod_hide h_cages, portLanesSet_hide h_regs, portDown_hide h_fab h_host h_log h_outbox h_regs h_regs2, h_cages, h_fab, h_host, h_log, h_outbox, h_regs, h_regs2, hide_foldl, hide_foldl_fst, hide_foldl_snd]; done) | split | dsimp only))

theorem cageLost_hide {L : List Part} (h_cages : Part.cages ∈ L) (h_fab : Part.fab ∈ L) (h_host : Part.host ∈ L) (h_log : Part.log ∈ L) (h_outbox : Part.outbox ∈ L) (h_regs : Part.regs ∈ L) (h_regs2 : Part.regs2 ∈ L) (g : Nat) (s : State) :
    hide L (cageLost g s) = hide L s := by
  unfold cageLost
  simp only [hide_ite, ite_self, cageQuarantine_hide h_cages h_fab h_host h_log h_outbox h_regs h_regs2, beatStop_hide h_cages, raise_hide h_log h_regs, record_hide h_host h_log h_outbox h_regs h_regs2, rfSet_hide h_regs, cageStateSet_hide h_regs, laserPut_hide h_cages h_regs, cageMod_hide h_cages]

theorem cageLinkLost_hide {L : List Part} (h_cages : Part.cages ∈ L) (h_fab : Part.fab ∈ L) (h_free : Part.free ∈ L) (h_host : Part.host ∈ L) (h_log : Part.log ∈ L) (h_outbox : Part.outbox ∈ L) (h_regs : Part.regs ∈ L) (h_regs2 : Part.regs2 ∈ L) (g : Nat) (s : State) :
    hide L (cageLinkLost g s) = hide L s := by
  unfold cageLinkLost
  simp only [hide_ite, ite_self, cageLost_hide h_cages h_fab h_host h_log h_outbox h_regs h_regs2, bumpFree_hide h_free, regAdd_hide h_regs]

theorem ringLoopTick_hide {L : List Part} (h_cages : Part.cages ∈ L) (h_free : Part.free ∈ L) (h_regs : Part.regs ∈ L) (g : Nat) (s : State) :
    hide L (ringLoopTick g s) = hide L s := by
  unfold ringLoopTick
  simp only [hide_ite, ite_self, implies_true, hide_free h_free, ringCode_hide h_regs, cageMod_hide h_cages, hide_foldl]

theorem ringNote_hide {L : List Part} (h_regs : Part.regs ∈ L) (g r : Nat) (x : ToneReading) (s : State) :
    hide L (ringNote g r x s) = hide L s := by
  unfold ringNote
  simp only [hide_ite, ite_self, implies_true, forall_const, rfSet_hide h_regs, h_regs]; (repeat' (first | (simp only [hide_ite, ite_self, implies_true, forall_const, rfSet_hide h_regs, h_regs]; done) | split | dsimp only))

theorem lanesReturn_hide {L : List Part} (h_ckpt : Part.ckpt ∈ L) (h_cores : Part.cores ∈ L) (h_fab : Part.fab ∈ L) (h_free : Part.free ∈ L) (h_grooms : Part.grooms ∈ L) (h_hitch : Part.hitch ∈ L) (h_host : Part.host ∈ L) (h_log : Part.log ∈ L) (h_mem : Part.mem ∈ L) (h_outbox : Part.outbox ∈ L) (h_regs : Part.regs ∈ L) (h_regs2 : Part.regs2 ∈ L) (g : Nat) (lanes : List Nat) (s : State) :
    hide L (lanesReturn g lanes s) = hide L s := by
  unfold lanesReturn
  repeat' (first | (simp only [hide_ite, ite_self, implies_true, forall_const, laneAddHitch_hide h_ckpt h_cores h_fab h_free h_grooms h_hitch h_host h_log h_mem h_outbox h_regs h_regs2, h_ckpt, h_cores, h_fab, h_free, h_grooms, h_hitch, h_host, h_log, h_mem, h_outbox, h_regs, h_regs2]; done) | split | dsimp only | intro _ _ | (refine (hide_foldl _ _ _ ?_).trans ?_) | (refine (hide_foldl_snd _ _ _ ?_).trans ?_) | (simp only [hide, h_ckpt, h_cores, h_fab, h_free, h_grooms, h_hitch, h_host, h_log, h_mem, h_outbox, h_regs, h_regs2, if_true]; done) | (simp only [hide_ite, ite_self, implies_true, forall_const, laneAddHitch_hide h_ckpt h_cores h_fab h_free h_grooms h_hitch h_host h_log h_mem h_outbox h_regs h_regs2, h_ckpt, h_cores, h_fab, h_free, h_grooms, h_hitch, h_host, h_log, h_mem, h_outbox, h_regs, h_regs2]; simp only [hide, h_ckpt, h_cores, h_fab, h_free, h_grooms, h_hitch, h_host, h_log, h_mem, h_outbox, h_regs, h_regs2, if_true]; done) | simp only [hide_ite, ite_self, implies_true, forall_const, laneAddHitch_hide h_ckpt h_cores h_fab h_free h_grooms h_hitch h_host h_log h_mem h_outbox h_regs h_regs2, h_ckpt, h_cores, h_fab, h_free, h_grooms, h_hitch, h_host, h_log, h_mem, h_outbox, h_regs, h_regs2])

theorem ringNoLock_hide {L : List Part} (h_host : Part.host ∈ L) (h_log : Part.log ∈ L) (h_outbox : Part.outbox ∈ L) (h_regs : Part.regs ∈ L) (h_regs2 : Part.regs2 ∈ L) (g r : Nat) (s : State) :
    hide L (ringNoLock g r s) = hide L s := by
  unfold ringNoLock
  simp only [raise_hide h_log h_regs, record_hide h_host h_log h_outbox h_regs h_regs2, ringStateSet_hide h_regs]

theorem cageSettle_hide {L : List Part} (h_cages : Part.cages ∈ L) (h_ckpt : Part.ckpt ∈ L) (h_cores : Part.cores ∈ L) (h_fab : Part.fab ∈ L) (h_free : Part.free ∈ L) (h_grooms : Part.grooms ∈ L) (h_hitch : Part.hitch ∈ L) (h_host : Part.host ∈ L) (h_log : Part.log ∈ L) (h_mem : Part.mem ∈ L) (h_outbox : Part.outbox ∈ L) (h_regs : Part.regs ∈ L) (h_regs2 : Part.regs2 ∈ L) (g : Nat) (s : State) :
    hide L (cageSettle g s) = hide L s := by
  unfold cageSettle
  simp only [hide_ite, ite_self, cageMod_hide h_cages, cageStateSet_hide h_regs, lanesReturn_hide h_ckpt h_cores h_fab h_free h_grooms h_hitch h_host h_log h_mem h_outbox h_regs h_regs2]

theorem ringPark_hide {L : List Part} (h_cages : Part.cages ∈ L) (h_regs : Part.regs ∈ L) (g r : Nat) (s : State) :
    hide L (ringPark g r s) = hide L s := by
  unfold ringPark
  simp only [cageMod_hide h_cages, ringStateSet_hide h_regs, ringCode_hide h_regs]

theorem calibPut_hide {L : List Part} (h_cages : Part.cages ∈ L) (g r : Nat) (found : List (Nat × ToneReading)) (s : State) (j : Nat) :
    hide L (calibPut g r found s j) = hide L s := by
  unfold calibPut
  repeat' (first | (simp only [hide_ite, ite_self, implies_true, forall_const, cageMod_hide h_cages, h_cages]; done) | split | dsimp only | intro _ _ | (refine (hide_foldl _ _ _ ?_).trans ?_) | (refine (hide_foldl_snd _ _ _ ?_).trans ?_) | (simp only [hide, h_cages, if_true]; done) | (simp only [hide_ite, ite_self, implies_true, forall_const, cageMod_hide h_cages, h_cages]; simp only [hide, h_cages, if_true]; done) | simp only [hide_ite, ite_self, implies_true, forall_const, cageMod_hide h_cages, h_cages])

theorem searchTone_hide {L : List Part} (h_regs : Part.regs ∈ L) (g r : Nat) (found : List (Nat × ToneReading)) (s : State) :
    hide L (searchTone g r found s) = hide L s := by
  unfold searchTone
  repeat' (first | (simp only [hide_ite, ite_self, implies_true, forall_const, rfSet_hide h_regs, h_regs]; done) | split | dsimp only | intro _ _ | (refine (hide_foldl _ _ _ ?_).trans ?_) | (refine (hide_foldl_snd _ _ _ ?_).trans ?_) | (simp only [hide, h_regs, if_true]; done) | (simp only [hide_ite, ite_self, implies_true, forall_const, rfSet_hide h_regs, h_regs]; simp only [hide, h_regs, if_true]; done) | simp only [hide_ite, ite_self, implies_true, forall_const, rfSet_hide h_regs, h_regs])

theorem ringSearched_hide {L : List Part} (h_cages : Part.cages ∈ L) (h_host : Part.host ∈ L) (h_log : Part.log ∈ L) (h_outbox : Part.outbox ∈ L) (h_regs : Part.regs ∈ L) (h_regs2 : Part.regs2 ∈ L) (g r : Nat) (w : RingSweep) (s : State) :
    hide L (ringSearched g r w s) = hide L s := by
  unfold ringSearched
  simp only [hide_ite, ite_self, implies_true, searchTone_hide h_regs, calibPut_hide h_cages, raise_hide h_log h_regs, record_hide h_host h_log h_outbox h_regs h_regs2, cageMod_hide h_cages, ringPark_hide h_cages h_regs, ringNoLock_hide h_host h_log h_outbox h_regs h_regs2, hide_foldl]

theorem decoupleSet_hide {L : List Part} (h_regs : Part.regs ∈ L) (g : Nat) (dec : List (List W16)) (s : State) :
    hide L (decoupleSet g dec s) = hide L s := by
  unfold decoupleSet
  simp only [implies_true, regSet_hide h_regs, hide_foldl]

theorem spareRings_hide {L : List Part} (h_regs : Part.regs ∈ L) (g : Nat) (s : State) :
    hide L (spareRings g s) = hide L s := by
  unfold spareRings
  simp only [hide_ite, ite_self, implies_true, ringStateSet_hide h_regs, ringCode_hide h_regs, hide_foldl]

theorem cageBringupSearched_hide {L : List Part} (h_cages : Part.cages ∈ L) (h_ckpt : Part.ckpt ∈ L) (h_cores : Part.cores ∈ L) (h_fab : Part.fab ∈ L) (h_free : Part.free ∈ L) (h_grooms : Part.grooms ∈ L) (h_hitch : Part.hitch ∈ L) (h_host : Part.host ∈ L) (h_log : Part.log ∈ L) (h_mem : Part.mem ∈ L) (h_outbox : Part.outbox ∈ L) (h_regs : Part.regs ∈ L) (h_regs2 : Part.regs2 ∈ L) (g : Nat) (sweeps : List RingSweep) (dec : List (List W16)) (s : State) :
    hide L (cageBringupSearched g sweeps dec s) = hide L s := by
  unfold cageBringupSearched
  simp only [hide_ite, ite_self, implies_true, ringSearched_hide h_cages h_host h_log h_outbox h_regs h_regs2, decoupleSet_hide h_regs, laserPut_hide h_cages h_regs, regAdd_hide h_regs, cageMod_hide h_cages, rfSet_hide h_regs, ringStateSet_hide h_regs, cageSettle_hide h_cages h_ckpt h_cores h_fab h_free h_grooms h_hitch h_host h_log h_mem h_outbox h_regs h_regs2, spareRings_hide h_regs, hide_foldl]

theorem cageEnable_hide {L : List Part} (h_cages : Part.cages ∈ L) (h_regs : Part.regs ∈ L) (g : Nat) (v : Bool) (s : State) :
    hide L (cageEnable g v s) = hide L s := by
  unfold cageEnable
  simp only [hide_ite, ite_self, implies_true, rfSet_hide h_regs, cageStateSet_hide h_regs, cageMod_hide h_cages, laserPosSet_hide h_regs, hide_foldl]

theorem mislock_hide {L : List Part} (h_cages : Part.cages ∈ L) (h_fab : Part.fab ∈ L) (h_host : Part.host ∈ L) (h_log : Part.log ∈ L) (h_outbox : Part.outbox ∈ L) (h_regs : Part.regs ∈ L) (h_regs2 : Part.regs2 ∈ L) (g r : Nat) (s : State) :
    hide L (mislock g r s) = hide L s := by
  unfold mislock
  simp only [hide_ite, ite_self, implies_true, forall_const, ringStateSet_hide h_regs, cageMod_hide h_cages, regAdd_hide h_regs, raise_hide h_log h_regs, record_hide h_host h_log h_outbox h_regs h_regs2, shedLane_hide h_fab h_host h_log h_outbox h_regs h_regs2, h_cages, h_fab, h_host, h_log, h_outbox, h_regs, h_regs2]; (repeat' (first | (simp only [hide_ite, ite_self, implies_true, forall_const, ringStateSet_hide h_regs, cageMod_hide h_cages, regAdd_hide h_regs, raise_hide h_log h_regs, record_hide h_host h_log h_outbox h_regs h_regs2, shedLane_hide h_fab h_host h_log h_outbox h_regs h_regs2, h_cages, h_fab, h_host, h_log, h_outbox, h_regs, h_regs2]; done) | split | dsimp only))

theorem toneCheck_hide {L : List Part} (h_cages : Part.cages ∈ L) (h_ckpt : Part.ckpt ∈ L) (h_cores : Part.cores ∈ L) (h_fab : Part.fab ∈ L) (h_free : Part.free ∈ L) (h_grooms : Part.grooms ∈ L) (h_hitch : Part.hitch ∈ L) (h_host : Part.host ∈ L) (h_log : Part.log ∈ L) (h_mem : Part.mem ∈ L) (h_outbox : Part.outbox ∈ L) (h_regs : Part.regs ∈ L) (h_regs2 : Part.regs2 ∈ L) (g r : Nat) (x : ToneReading) (s : State) :
    hide L (toneCheck g r x s) = hide L s := by
  unfold toneCheck
  simp only [hide_ite, ite_self, ringNote_hide h_regs, cageMod_hide h_cages, mislock_hide h_cages h_fab h_host h_log h_outbox h_regs h_regs2, cageSettle_hide h_cages h_ckpt h_cores h_fab h_free h_grooms h_hitch h_host h_log h_mem h_outbox h_regs h_regs2]

theorem recoveryFails_hide {L : List Part} (h_cages : Part.cages ∈ L) (h_host : Part.host ∈ L) (h_log : Part.log ∈ L) (h_outbox : Part.outbox ∈ L) (h_regs : Part.regs ∈ L) (h_regs2 : Part.regs2 ∈ L) (g r : Nat) (s : State) :
    hide L (recoveryFails g r s) = hide L s := by
  unfold recoveryFails
  simp only [hide_ite, ite_self, cageMod_hide h_cages, ringStateSet_hide h_regs, ringNoLock_hide h_host h_log h_outbox h_regs h_regs2]

theorem ringSearchDone_hide {L : List Part} (h_cages : Part.cages ∈ L) (h_host : Part.host ∈ L) (h_log : Part.log ∈ L) (h_outbox : Part.outbox ∈ L) (h_regs : Part.regs ∈ L) (h_regs2 : Part.regs2 ∈ L) (g r : Nat) (w : RingSweep) (s : State) :
    hide L (ringSearchDone g r w s) = hide L s := by
  unfold ringSearchDone
  simp only [hide_ite, ite_self, implies_true, forall_const, searchTone_hide h_regs, regAdd_hide h_regs, ringPark_hide h_cages h_regs, cageMod_hide h_cages, ringStateSet_hide h_regs, ringCode_hide h_regs, recoveryFails_hide h_cages h_host h_log h_outbox h_regs h_regs2, ringNoLock_hide h_host h_log h_outbox h_regs h_regs2, h_cages, h_host, h_log, h_outbox, h_regs, h_regs2]; (repeat' (first | (simp only [hide_ite, ite_self, implies_true, forall_const, searchTone_hide h_regs, regAdd_hide h_regs, ringPark_hide h_cages h_regs, cageMod_hide h_cages, ringStateSet_hide h_regs, ringCode_hide h_regs, recoveryFails_hide h_cages h_host h_log h_outbox h_regs h_regs2, ringNoLock_hide h_host h_log h_outbox h_regs h_regs2, h_cages, h_host, h_log, h_outbox, h_regs, h_regs2]; done) | split | dsimp only))

theorem bringupLock_hide {L : List Part} (h_cages : Part.cages ∈ L) (h_ckpt : Part.ckpt ∈ L) (h_cores : Part.cores ∈ L) (h_fab : Part.fab ∈ L) (h_free : Part.free ∈ L) (h_grooms : Part.grooms ∈ L) (h_hitch : Part.hitch ∈ L) (h_host : Part.host ∈ L) (h_log : Part.log ∈ L) (h_mem : Part.mem ∈ L) (h_outbox : Part.outbox ∈ L) (h_regs : Part.regs ∈ L) (h_regs2 : Part.regs2 ∈ L) (g r : Nat) (code : Nat) (x : ToneReading) (s : State) :
    hide L (bringupLock g r code x s) = hide L s := by
  unfold bringupLock
  simp only [hide_ite, ite_self, ringNote_hide h_regs, cageSettle_hide h_cages h_ckpt h_cores h_fab h_free h_grooms h_hitch h_host h_log h_mem h_outbox h_regs h_regs2, ringStateSet_hide h_regs, ringCode_hide h_regs, ringNoLock_hide h_host h_log h_outbox h_regs h_regs2]

theorem recoveryLock_hide {L : List Part} (h_cages : Part.cages ∈ L) (h_ckpt : Part.ckpt ∈ L) (h_cores : Part.cores ∈ L) (h_fab : Part.fab ∈ L) (h_free : Part.free ∈ L) (h_grooms : Part.grooms ∈ L) (h_hitch : Part.hitch ∈ L) (h_host : Part.host ∈ L) (h_log : Part.log ∈ L) (h_mem : Part.mem ∈ L) (h_outbox : Part.outbox ∈ L) (h_regs : Part.regs ∈ L) (h_regs2 : Part.regs2 ∈ L) (g r : Nat) (code : Nat) (x : ToneReading) (s : State) :
    hide L (recoveryLock g r code x s) = hide L s := by
  unfold recoveryLock
  simp only [hide_ite, ite_self, implies_true, forall_const, ringNote_hide h_regs, recoveryFails_hide h_cages h_host h_log h_outbox h_regs h_regs2, ringCode_hide h_regs, ringStateSet_hide h_regs, cageMod_hide h_cages, lanesReturn_hide h_ckpt h_cores h_fab h_free h_grooms h_hitch h_host h_log h_mem h_outbox h_regs h_regs2, h_cages, h_ckpt, h_cores, h_fab, h_free, h_grooms, h_hitch, h_host, h_log, h_mem, h_outbox, h_regs, h_regs2]; (repeat' (first | (simp only [hide_ite, ite_self, implies_true, forall_const, ringNote_hide h_regs, recoveryFails_hide h_cages h_host h_log h_outbox h_regs h_regs2, ringCode_hide h_regs, ringStateSet_hide h_regs, cageMod_hide h_cages, lanesReturn_hide h_ckpt h_cores h_fab h_free h_grooms h_hitch h_host h_log h_mem h_outbox h_regs h_regs2, h_cages, h_ckpt, h_cores, h_fab, h_free, h_grooms, h_hitch, h_host, h_log, h_mem, h_outbox, h_regs, h_regs2]; done) | split | dsimp only))

theorem ringLockAcquire_hide {L : List Part} (h_cages : Part.cages ∈ L) (h_ckpt : Part.ckpt ∈ L) (h_cores : Part.cores ∈ L) (h_fab : Part.fab ∈ L) (h_free : Part.free ∈ L) (h_grooms : Part.grooms ∈ L) (h_hitch : Part.hitch ∈ L) (h_host : Part.host ∈ L) (h_log : Part.log ∈ L) (h_mem : Part.mem ∈ L) (h_outbox : Part.outbox ∈ L) (h_regs : Part.regs ∈ L) (h_regs2 : Part.regs2 ∈ L) (g r : Nat) (code : BitVec 14) (x : ToneReading) (s : State) :
    hide L (ringLockAcquire g r code x s) = hide L s := by
  unfold ringLockAcquire
  simp only [hide_ite, ite_self, recoveryLock_hide h_cages h_ckpt h_cores h_fab h_free h_grooms h_hitch h_host h_log h_mem h_outbox h_regs h_regs2, bringupLock_hide h_cages h_ckpt h_cores h_fab h_free h_grooms h_hitch h_host h_log h_mem h_outbox h_regs h_regs2]

theorem spareWarm_hide {L : List Part} (h_cages : Part.cages ∈ L) (h_regs : Part.regs ∈ L) (g j : Nat) (s : State) :
    hide L (spareWarm g j s) = hide L s := by
  unfold spareWarm
  simp only [rfSet_hide h_regs, ringStateSet_hide h_regs, ringCode_hide h_regs, laserPut_hide h_cages h_regs, cageMod_hide h_cages]

theorem swapCondition_hide {L : List Part} (h_cages : Part.cages ∈ L) (h_host : Part.host ∈ L) (h_log : Part.log ∈ L) (h_outbox : Part.outbox ∈ L) (h_regs : Part.regs ∈ L) (h_regs2 : Part.regs2 ∈ L) (g l j key : Nat) (s : State) :
    hide L (swapCondition g l j key s) = hide L s := by
  unfold swapCondition
  simp only [hide_ite, ite_self, raise_hide h_log h_regs, record_hide h_host h_log h_outbox h_regs h_regs2, cageMod_hide h_cages, spareWarm_hide h_cages h_regs]

theorem swapOver_hide {L : List Part} (h_cages : Part.cages ∈ L) (g key : Nat) (s : State) :
    hide L (swapOver g key s) = hide L s := by
  unfold swapOver
  simp only [cageMod_hide h_cages]

theorem bringupCompared_hide {L : List Part} (h_cages : Part.cages ∈ L) (h_regs : Part.regs ∈ L) (g l : Nat) (s : State) :
    hide L (bringupCompared g l s) = hide L s := by
  unfold bringupCompared
  simp only [hide_ite, ite_self, implies_true, cageMod_hide h_cages, ringStateSet_hide h_regs, laserPut_hide h_cages h_regs, hide_foldl]

theorem laserFadeCheck_hide {L : List Part} (h_cages : Part.cages ∈ L) (h_host : Part.host ∈ L) (h_log : Part.log ∈ L) (h_outbox : Part.outbox ∈ L) (h_regs : Part.regs ∈ L) (h_regs2 : Part.regs2 ∈ L) (g l : Nat) (rel : W16) (s : State) :
    hide L (laserFadeCheck g l rel s) = hide L s := by
  unfold laserFadeCheck
  simp only [hide_ite, ite_self, rfSet_hide h_regs, cageMod_hide h_cages, raise_hide h_log h_regs, record_hide h_host h_log h_outbox h_regs h_regs2, swapCondition_hide h_cages h_host h_log h_outbox h_regs h_regs2, swapOver_hide h_cages, bringupCompared_hide h_cages h_regs]

theorem swapDo_hide {L : List Part} (h_cages : Part.cages ∈ L) (h_fab : Part.fab ∈ L) (h_host : Part.host ∈ L) (h_log : Part.log ∈ L) (h_outbox : Part.outbox ∈ L) (h_regs : Part.regs ∈ L) (h_regs2 : Part.regs2 ∈ L) (g j : Nat) (s : State) :
    hide L (swapDo g j s) = hide L s := by
  unfold swapDo
  simp only [hide_ite, ite_self, implies_true, forall_const, laserPut_hide h_cages h_regs, cageMod_hide h_cages, rfSet_hide h_regs, ringStateSet_hide h_regs, ringCode_hide h_regs, regAdd_hide h_regs, raise_hide h_log h_regs, record_hide h_host h_log h_outbox h_regs h_regs2, linkResend_hide h_fab h_outbox h_regs, h_cages, h_fab, h_host, h_log, h_outbox, h_regs, h_regs2]; (repeat' (first | (simp only [hide_ite, ite_self, implies_true, forall_const, laserPut_hide h_cages h_regs, cageMod_hide h_cages, rfSet_hide h_regs, ringStateSet_hide h_regs, ringCode_hide h_regs, regAdd_hide h_regs, raise_hide h_log h_regs, record_hide h_host h_log h_outbox h_regs h_regs2, linkResend_hide h_fab h_outbox h_regs, h_cages, h_fab, h_host, h_log, h_outbox, h_regs, h_regs2]; done) | split | dsimp only))

theorem swapStep4_hide {L : List Part} (h_cages : Part.cages ∈ L) (h_fab : Part.fab ∈ L) (h_host : Part.host ∈ L) (h_log : Part.log ∈ L) (h_outbox : Part.outbox ∈ L) (h_regs : Part.regs ∈ L) (h_regs2 : Part.regs2 ∈ L) (g j : Nat) (s : State) :
    hide L (swapStep4 g j s) = hide L s := by
  unfold swapStep4
  simp only [hide_ite, ite_self, cageMod_hide h_cages, swapDo_hide h_cages h_fab h_host h_log h_outbox h_regs h_regs2]

theorem swapsResume_hide {L : List Part} (h_cages : Part.cages ∈ L) (h_fab : Part.fab ∈ L) (h_host : Part.host ∈ L) (h_log : Part.log ∈ L) (h_outbox : Part.outbox ∈ L) (h_regs : Part.regs ∈ L) (h_regs2 : Part.regs2 ∈ L) (s : State) :
    hide L (swapsResume s) = hide L s := by
  unfold swapsResume
  repeat' (first | (simp only [hide_ite, ite_self, implies_true, forall_const, swapDo_hide h_cages h_fab h_host h_log h_outbox h_regs h_regs2, h_cages, h_fab, h_host, h_log, h_outbox, h_regs, h_regs2, hide_foldl, hide_foldl_fst, hide_foldl_snd]; done) | split | dsimp only | intro _ _ | (refine (hide_foldl _ _ _ ?_).trans ?_) | (refine (hide_foldl_snd _ _ _ ?_).trans ?_) | (simp only [hide, h_cages, h_fab, h_host, h_log, h_outbox, h_regs, h_regs2, if_true]; done) | (simp only [hide_ite, ite_self, implies_true, forall_const, swapDo_hide h_cages h_fab h_host h_log h_outbox h_regs h_regs2, h_cages, h_fab, h_host, h_log, h_outbox, h_regs, h_regs2, hide_foldl, hide_foldl_fst, hide_foldl_snd]; simp only [hide, h_cages, h_fab, h_host, h_log, h_outbox, h_regs, h_regs2, if_true]; done) | simp only [hide_ite, ite_self, implies_true, forall_const, swapDo_hide h_cages h_fab h_host h_log h_outbox h_regs h_regs2, h_cages, h_fab, h_host, h_log, h_outbox, h_regs, h_regs2, hide_foldl, hide_foldl_fst, hide_foldl_snd])

theorem spareLocked_hide {L : List Part} (h_cages : Part.cages ∈ L) (h_ckpt : Part.ckpt ∈ L) (h_cores : Part.cores ∈ L) (h_fab : Part.fab ∈ L) (h_free : Part.free ∈ L) (h_grooms : Part.grooms ∈ L) (h_host : Part.host ∈ L) (h_log : Part.log ∈ L) (h_mem : Part.mem ∈ L) (h_outbox : Part.outbox ∈ L) (h_regs : Part.regs ∈ L) (h_regs2 : Part.regs2 ∈ L) (g : Nat) (code : BitVec 14) (x : ToneReading) (s : State) :
    hide L (spareLocked g code x s) = hide L s := by
  unfold spareLocked
  simp only [hide_ite, ite_self, implies_true, forall_const, ringNote_hide h_regs, cageMod_hide h_cages, laserPut_hide h_cages h_regs, rfSet_hide h_regs, ringStateSet_hide h_regs, bumpFree_hide h_free, ringCode_hide h_regs, sendTo_hide h_ckpt h_cores h_fab h_free h_grooms h_host h_log h_mem h_outbox h_regs h_regs2, swapStep4_hide h_cages h_fab h_host h_log h_outbox h_regs h_regs2, h_cages, h_ckpt, h_cores, h_fab, h_free, h_grooms, h_host, h_log, h_mem, h_outbox, h_regs, h_regs2]; (repeat' (first | (simp only [hide_ite, ite_self, implies_true, forall_const, ringNote_hide h_regs, cageMod_hide h_cages, laserPut_hide h_cages h_regs, rfSet_hide h_regs, ringStateSet_hide h_regs, bumpFree_hide h_free, ringCode_hide h_regs, sendTo_hide h_ckpt h_cores h_fab h_free h_grooms h_host h_log h_mem h_outbox h_regs h_regs2, swapStep4_hide h_cages h_fab h_host h_log h_outbox h_regs h_regs2, h_cages, h_ckpt, h_cores, h_fab, h_free, h_grooms, h_host, h_log, h_mem, h_outbox, h_regs, h_regs2]; done) | split | dsimp only))

theorem swapAck_hide {L : List Part} (h_cages : Part.cages ∈ L) (h_fab : Part.fab ∈ L) (h_host : Part.host ∈ L) (h_log : Part.log ∈ L) (h_outbox : Part.outbox ∈ L) (h_regs : Part.regs ∈ L) (h_regs2 : Part.regs2 ∈ L) (g : Nat) (s : State) :
    hide L (swapAck g s) = hide L s := by
  unfold swapAck
  repeat' (first | (simp only [hide_ite, ite_self, implies_true, forall_const, swapStep4_hide h_cages h_fab h_host h_log h_outbox h_regs h_regs2, h_cages, h_fab, h_host, h_log, h_outbox, h_regs, h_regs2]; done) | split | dsimp only | intro _ _ | (refine (hide_foldl _ _ _ ?_).trans ?_) | (refine (hide_foldl_snd _ _ _ ?_).trans ?_) | (simp only [hide, h_cages, h_fab, h_host, h_log, h_outbox, h_regs, h_regs2, if_true]; done) | (simp only [hide_ite, ite_self, implies_true, forall_const, swapStep4_hide h_cages h_fab h_host h_log h_outbox h_regs h_regs2, h_cages, h_fab, h_host, h_log, h_outbox, h_regs, h_regs2]; simp only [hide, h_cages, h_fab, h_host, h_log, h_outbox, h_regs, h_regs2, if_true]; done) | simp only [hide_ite, ite_self, implies_true, forall_const, swapStep4_hide h_cages h_fab h_host h_log h_outbox h_regs h_regs2, h_cages, h_fab, h_host, h_log, h_outbox, h_regs, h_regs2])

theorem laneBerWindow_hide {L : List Part} (h_cages : Part.cages ∈ L) (h_fab : Part.fab ∈ L) (h_host : Part.host ∈ L) (h_log : Part.log ∈ L) (h_outbox : Part.outbox ∈ L) (h_regs : Part.regs ∈ L) (h_regs2 : Part.regs2 ∈ L) (p lane errors n symbols : Nat) (s : State) :
    hide L (laneBerWindow p lane errors n symbols s) = hide L s := by
  unfold laneBerWindow
  simp only [hide_ite, ite_self, implies_true, forall_const, regAdd_hide h_regs, swapCondition_hide h_cages h_host h_log h_outbox h_regs h_regs2, swapOver_hide h_cages, shedLane_hide h_fab h_host h_log h_outbox h_regs h_regs2, h_cages, h_fab, h_host, h_log, h_outbox, h_regs, h_regs2]; (repeat' (first | (simp only [hide_ite, ite_self, implies_true, forall_const, regAdd_hide h_regs, swapCondition_hide h_cages h_host h_log h_outbox h_regs h_regs2, swapOver_hide h_cages, shedLane_hide h_fab h_host h_log h_outbox h_regs h_regs2, h_cages, h_fab, h_host, h_log, h_outbox, h_regs, h_regs2]; done) | split | dsimp only))

theorem cageHoldOpen_hide {L : List Part} (h_cages : Part.cages ∈ L) (h_host : Part.host ∈ L) (h_log : Part.log ∈ L) (h_outbox : Part.outbox ∈ L) (h_regs : Part.regs ∈ L) (h_regs2 : Part.regs2 ∈ L) (g : Nat) (v : Bool) (s : State) :
    hide L (cageHoldOpen g v s) = hide L s := by
  unfold cageHoldOpen
  simp only [hide_ite, ite_self, cageMod_hide h_cages, rfSet_hide h_regs, refuse_hide h_host h_log h_outbox h_regs h_regs2, beatStop_hide h_cages]

theorem boardApply_hide {L : List Part} (h_boot : Part.boot ∈ L) (h_cages : Part.cages ∈ L) (h_host : Part.host ∈ L) (h_log : Part.log ∈ L) (h_outbox : Part.outbox ∈ L) (h_regs : Part.regs ∈ L) (h_regs2 : Part.regs2 ∈ L) (g : Nat) (s : State) :
    hide L (boardApply g s) = hide L s := by
  unfold boardApply
  simp only [hide_ite, ite_self, implies_true, forall_const, hide_boot h_boot, cageEnable_hide h_cages h_regs, cageHoldOpen_hide h_cages h_host h_log h_outbox h_regs h_regs2, h_boot, h_cages, h_host, h_log, h_outbox, h_regs, h_regs2]; (repeat' (first | (simp only [hide_ite, ite_self, implies_true, forall_const, hide_boot h_boot, cageEnable_hide h_cages h_regs, cageHoldOpen_hide h_cages h_host h_log h_outbox h_regs h_regs2, h_boot, h_cages, h_host, h_log, h_outbox, h_regs, h_regs2]; done) | split | dsimp only))

theorem oclArrive_hide {L : List Part} (h_boot : Part.boot ∈ L) (h_cages : Part.cages ∈ L) (h_free : Part.free ∈ L) (h_host : Part.host ∈ L) (h_log : Part.log ∈ L) (h_outbox : Part.outbox ∈ L) (h_regs : Part.regs ∈ L) (h_regs2 : Part.regs2 ∈ L) (g : Nat) (x : OclSeen) (s : State) :
    hide L (oclArrive g x s) = hide L s := by
  unfold oclArrive
  simp only [hide_ite, ite_self, oclFrameReceive_hide h_cages h_free h_host h_log h_outbox h_regs h_regs2, boardApply_hide h_boot h_cages h_host h_log h_outbox h_regs h_regs2]

theorem bypassFault_hide {L : List Part} (h_cages : Part.cages ∈ L) (h_fab : Part.fab ∈ L) (h_host : Part.host ∈ L) (h_log : Part.log ∈ L) (h_outbox : Part.outbox ∈ L) (h_regs : Part.regs ∈ L) (h_regs2 : Part.regs2 ∈ L) (g : Nat) (s : State) :
    hide L (bypassFault g s) = hide L s := by
  unfold bypassFault
  simp only [hide_ite, ite_self, raise_hide h_log h_regs, record_hide h_host h_log h_outbox h_regs h_regs2, beatStop_hide h_cages, cageStateSet_hide h_regs, cageQuarantine_hide h_cages h_fab h_host h_log h_outbox h_regs h_regs2]

theorem heaterCodesTimeout_hide {L : List Part} (h_cages : Part.cages ∈ L) (g : Nat) (s : State) :
    hide L (heaterCodesTimeout g s) = hide L s := by
  unfold heaterCodesTimeout
  simp only [hide_ite, ite_self, cageMod_hide h_cages]

theorem runAs_hide {L : List Part} (h_host : Part.host ∈ L) (op : Nat) (tag : W16) (args : List Byte → Bool) (body : State → State) (s : State) (hb : ∀ s, hide L (body s) = hide L s) :
    hide L (runAs op tag args body s) = hide L s := by
  unfold runAs
  simp only [hide_ite, ite_self, implies_true, forall_const, hide_host h_host, hb, h_host]; (repeat' (first | (simp only [hide_ite, ite_self, implies_true, forall_const, hide_host h_host, hb, h_host]; done) | split | dsimp only))

theorem fore_hide {L : List Part} (h_host : Part.host ∈ L) (p : List Byte → Bool) (s : State) :
    hide L (fore p s) = hide L s := by
  unfold fore
  simp only [hide_ite, ite_self, implies_true, forall_const, hide_host h_host, h_host]; (repeat' (first | (simp only [hide_ite, ite_self, implies_true, forall_const, hide_host h_host, h_host]; done) | split | dsimp only))

theorem cplWrite_hide {L : List Part} (h_host : Part.host ∈ L) (h_outbox : Part.outbox ∈ L) (h_regs2 : Part.regs2 ∈ L) (tag status : W16) (cause : Nat) (hitch : W16) (result : Nat) (s : State) :
    hide L (cplWrite tag status cause hitch result s) = hide L s := by
  unfold cplWrite
  simp only [msix_hide h_outbox h_regs2, ringWrote_hide h_host h_regs2, emit_hide h_outbox]

theorem runDone_hide {L : List Part} (h_host : Part.host ∈ L) (tag : W16) (s : State) :
    hide L (runDone tag s).2 = hide L s := by
  unfold runDone
  simp only [hide_ite, ite_self, implies_true, forall_const, hide_host h_host, h_host]; (repeat' (first | (simp only [hide_ite, ite_self, implies_true, forall_const, hide_host h_host, h_host]; done) | split | dsimp only))

theorem complete'_hide {L : List Part} (h_host : Part.host ∈ L) (h_outbox : Part.outbox ∈ L) (h_regs2 : Part.regs2 ∈ L) (tag status : W16) (cause : Nat) (hitch : W16) (result : Nat) (s : State) :
    hide L (complete' tag status cause hitch result s) = hide L s := by
  unfold complete'
  simp only [hide_ite, ite_self, hide_host h_host, runDone_hide h_host, cplWrite_hide h_host h_outbox h_regs2]

theorem cplDrain_hide {L : List Part} (h_host : Part.host ∈ L) (h_outbox : Part.outbox ∈ L) (h_regs2 : Part.regs2 ∈ L) (k0 : Nat) (s : State) :
    hide L (cplDrain k0 s) = hide L s := by
  induction k0 generalizing s with
  | zero => rfl
  | succ k ih =>
    unfold cplDrain
    try simp only [hide_ite, ite_self, implies_true, forall_const, hide_host h_host, cplWrite_hide h_host h_outbox h_regs2, h_host, h_outbox, h_regs2, ih]
    repeat' (first | rfl | (simp only [hide_ite, ite_self, implies_true, forall_const, hide_host h_host, cplWrite_hide h_host h_outbox h_regs2, h_host, h_outbox, h_regs2, ih]; done) | split)

theorem ringsResume_hide {L : List Part} (h_host : Part.host ∈ L) (h_outbox : Part.outbox ∈ L) (h_regs2 : Part.regs2 ∈ L) (s : State) :
    hide L (ringsResume s) = hide L s := by
  unfold ringsResume
  simp only [hide_ite, ite_self, implies_true, hide_host h_host, eventWrite_hide h_host h_outbox h_regs2, cplDrain_hide h_host h_outbox h_regs2, hide_foldl]

theorem complete1_hide {L : List Part} (h_host : Part.host ∈ L) (h_outbox : Part.outbox ∈ L) (h_regs2 : Part.regs2 ∈ L) (tag status : W16) (s : State) :
    hide L (complete1 tag status s) = hide L s := by
  unfold complete1
  simp only [complete'_hide h_host h_outbox h_regs2]

theorem refuseCmd_hide {L : List Part} (h_host : Part.host ∈ L) (h_log : Part.log ∈ L) (h_outbox : Part.outbox ∈ L) (h_regs : Part.regs ∈ L) (h_regs2 : Part.regs2 ∈ L) (op : Nat) (tag : W16) (s : State) :
    hide L (refuseCmd op tag s) = hide L s := by
  unfold refuseCmd
  simp only [complete1_hide h_host h_outbox h_regs2, refuse_hide h_host h_log h_outbox h_regs h_regs2]

theorem cmdDoorbell_hide {L : List Part} (h_host : Part.host ∈ L) (h_log : Part.log ∈ L) (h_outbox : Part.outbox ∈ L) (h_regs : Part.regs ∈ L) (h_regs2 : Part.regs2 ∈ L) (tail : BitVec 13) (s : State) :
    hide L (cmdDoorbell tail s) = hide L s := by
  unfold cmdDoorbell
  simp only [hide_ite, ite_self, refuse_hide h_host h_log h_outbox h_regs h_regs2, rf2Set_hide h_regs2, record_hide h_host h_log h_outbox h_regs h_regs2]

theorem cmdAccept_hide {L : List Part} (h_host : Part.host ∈ L) (h_log : Part.log ∈ L) (h_outbox : Part.outbox ∈ L) (h_regs : Part.regs ∈ L) (h_regs2 : Part.regs2 ∈ L) (entry : List Byte) (s : State) :
    hide L (cmdAccept entry s) = hide L s := by
  unfold cmdAccept
  simp only [hide_ite, ite_self, hide_host h_host, rf2Set_hide h_regs2, complete1_hide h_host h_outbox h_regs2, record_hide h_host h_log h_outbox h_regs h_regs2, refuseCmd_hide h_host h_log h_outbox h_regs h_regs2]

theorem pcieReset_hide {L : List Part} (h_cfg : Part.cfg ∈ L) (h_hitch : Part.hitch ∈ L) (h_host : Part.host ∈ L) (h_regs2 : Part.regs2 ∈ L) (s : State) :
    hide L (pcieReset s) = hide L s := by
  unfold pcieReset
  simp only [hide_ite, ite_self, implies_true, forall_const, hide_cfg h_cfg, hide_hitch h_hitch, hide_host h_host, hide_regs2 h_regs2, h_cfg, h_hitch, h_host, h_regs2]; simp only [hide, h_cfg, h_hitch, h_host, h_regs2, if_true]

theorem regsReset_hide {L : List Part} (h_latches : Part.latches ∈ L) (h_regs : Part.regs ∈ L) (lo hi : Nat) (s : State) :
    hide L (regsReset lo hi s) = hide L s := by
  unfold regsReset
  simp only [hide_ite, ite_self, implies_true, forall_const, hide_latches h_latches, hide_regs h_regs, h_latches, h_regs]; simp only [hide, h_latches, h_regs, if_true]

theorem poisonTables_hide {L : List Part} (h_cores : Part.cores ∈ L) (n : Nat) (cls : Class) (s : State) :
    hide L (poisonTables n cls s) = hide L s := by
  unfold poisonTables
  simp only [ite_self, coreMod_hide h_cores]

theorem poisonAll_hide {L : List Part} (h_cores : Part.cores ∈ L) (h_log : Part.log ∈ L) (h_regs : Part.regs ∈ L) (n : Nat) (cls : Class) (s : State) :
    hide L (poisonAll n cls s) = hide L s := by
  unfold poisonAll
  simp only [syncEvent_hide h_log h_regs, poisonTables_hide h_cores]

theorem coreBlockReset_hide {L : List Part} (h_cores : Part.cores ∈ L) (h_host : Part.host ∈ L) (h_latches : Part.latches ∈ L) (h_log : Part.log ∈ L) (h_outbox : Part.outbox ∈ L) (h_regs : Part.regs ∈ L) (h_regs2 : Part.regs2 ∈ L) (cls : Class) (n : Nat) (s : State) :
    hide L (coreBlockReset cls n s) = hide L s := by
  unfold coreBlockReset
  simp only [coreSet_hide h_cores, regsReset_hide h_latches h_regs, poisonTables_hide h_cores, breakDevice_hide h_cores h_host h_log h_outbox h_regs h_regs2]

theorem groomBlockReset_hide {L : List Part} (h_exch : Part.exch ∈ L) (h_grooms : Part.grooms ∈ L) (h_latches : Part.latches ∈ L) (h_regs : Part.regs ∈ L) (k : Nat) (s : State) :
    hide L (groomBlockReset k s) = hide L s := by
  unfold groomBlockReset
  simp only [hide_exch h_exch, regsReset_hide h_latches h_regs, groomMod_hide h_grooms]

theorem hbmBlockReset_hide {L : List Part} (h_latches : Part.latches ∈ L) (h_log : Part.log ∈ L) (h_mem : Part.mem ∈ L) (h_regs : Part.regs ∈ L) (k : Nat) (s : State) :
    hide L (hbmBlockReset k s) = hide L s := by
  unfold hbmBlockReset
  simp only [hide_mem h_mem, cacheClean_hide h_log h_mem h_regs, rfSet_hide h_regs, regsReset_hide h_latches h_regs]

theorem loftBlockReset_hide {L : List Part} (h_latches : Part.latches ∈ L) (h_log : Part.log ∈ L) (h_mem : Part.mem ∈ L) (h_regs : Part.regs ∈ L) (d : Nat) (s : State) :
    hide L (loftBlockReset d s) = hide L s := by
  unfold loftBlockReset
  simp only [hide_mem h_mem, cacheClean_hide h_log h_mem h_regs, regsReset_hide h_latches h_regs]

theorem dieBlockReset_hide {L : List Part} (h_cores : Part.cores ∈ L) (h_host : Part.host ∈ L) (h_latches : Part.latches ∈ L) (h_log : Part.log ∈ L) (h_mem : Part.mem ∈ L) (h_outbox : Part.outbox ∈ L) (h_regs : Part.regs ∈ L) (h_regs2 : Part.regs2 ∈ L) (cls : Class) (d : Nat) (s : State) :
    hide L (dieBlockReset cls d s) = hide L s := by
  unfold dieBlockReset
  simp only [implies_true, loftBlockReset_hide h_latches h_log h_mem h_regs, coreBlockReset_hide h_cores h_host h_latches h_log h_outbox h_regs h_regs2, hide_foldl]

theorem portBlockReset_hide {L : List Part} (h_fab : Part.fab ∈ L) (h_latches : Part.latches ∈ L) (h_regs : Part.regs ∈ L) (p : Nat) (s : State) :
    hide L (portBlockReset p s) = hide L s := by
  unfold portBlockReset
  simp only [portMod_hide h_fab, regsReset_hide h_latches h_regs]

theorem stopCtx_hide {L : List Part} (h_cores : Part.cores ∈ L) (h_host : Part.host ∈ L) (h_log : Part.log ∈ L) (h_outbox : Part.outbox ∈ L) (h_regs : Part.regs ∈ L) (h_regs2 : Part.regs2 ∈ L) (n : Nat) (cls : Class) (s : State) (x : Ctx) :
    hide L (stopCtx n cls s x) = hide L s := by
  unfold stopCtx
  simp only [hide_ite, ite_self, giveBack_hide h_cores, ctxFault_hide h_cores h_host h_log h_outbox h_regs h_regs2, ctxMod_hide h_cores]

theorem fillerMark_hide {L : List Part} (h_cores : Part.cores ∈ L) (n : Nat) (s : State) :
    hide L (fillerMark n s) = hide L s := by
  unfold fillerMark
  simp only [ctxMod_hide h_cores]

theorem fillerBack_hide {L : List Part} (h_cores : Part.cores ∈ L) (n : Nat) (s : State) :
    hide L (fillerBack n s) = hide L s := by
  unfold fillerBack
  simp only [ctxMod_hide h_cores]

theorem stopCore_hide {L : List Part} (h_cores : Part.cores ∈ L) (h_host : Part.host ∈ L) (h_log : Part.log ∈ L) (h_outbox : Part.outbox ∈ L) (h_regs : Part.regs ∈ L) (h_regs2 : Part.regs2 ∈ L) (cls : Class) (s : State) (n : Nat) :
    hide L (stopCore cls s n) = hide L s := by
  unfold stopCore
  simp only [implies_true, fillerBack_hide h_cores, stopCtx_hide h_cores h_host h_log h_outbox h_regs h_regs2, fillerMark_hide h_cores, raise_hide h_log h_regs, rfSet_hide h_regs, coreMod_hide h_cores, poisonAll_hide h_cores h_log h_regs, hide_foldl]

theorem stopGroom_hide {L : List Part} (h_free : Part.free ∈ L) (h_grooms : Part.grooms ∈ L) (h_host : Part.host ∈ L) (h_log : Part.log ∈ L) (h_outbox : Part.outbox ∈ L) (h_regs : Part.regs ∈ L) (h_regs2 : Part.regs2 ∈ L) (cls : Class) (s : State) (k : Nat) :
    hide L (stopGroom cls s k) = hide L s := by
  unfold stopGroom
  simp only [hide_ite, ite_self, groomMod_hide h_grooms, rfSet_hide h_regs, groomHalt_hide h_free h_grooms h_host h_log h_outbox h_regs h_regs2, countOn_hide h_free h_regs]

theorem fabDiscard_hide {L : List Part} (h_fab : Part.fab ∈ L) (s : State) :
    hide L (fabDiscard s) = hide L s := by
  unfold fabDiscard
  simp only [hide_fab h_fab]

theorem changeTakes_hide {L : List Part} (h_regs : Part.regs ∈ L) (s t : State) (d : Nat) :
    hide L (changeTakes s t d) = hide L t := by
  unfold changeTakes
  repeat' (first | (simp only [hide_ite, ite_self, implies_true, forall_const, rfSet_hide h_regs, h_regs]; done) | split | dsimp only | intro _ _ | (refine (hide_foldl _ _ _ ?_).trans ?_) | (refine (hide_foldl_snd _ _ _ ?_).trans ?_) | (simp only [hide, h_regs, if_true]; done) | (simp only [hide_ite, ite_self, implies_true, forall_const, rfSet_hide h_regs, h_regs]; simp only [hide, h_regs, if_true]; done) | simp only [hide_ite, ite_self, implies_true, forall_const, rfSet_hide h_regs, h_regs])

theorem resetEdge_hide {L : List Part} (h_boot : Part.boot ∈ L) (h_cages : Part.cages ∈ L) (h_cfg : Part.cfg ∈ L) (h_ckpt : Part.ckpt ∈ L) (h_cores : Part.cores ∈ L) (h_epoch : Part.epoch ∈ L) (h_exch : Part.exch ∈ L) (h_fab : Part.fab ∈ L) (h_grooms : Part.grooms ∈ L) (h_hitch : Part.hitch ∈ L) (h_host : Part.host ∈ L) (h_job : Part.job ∈ L) (h_latches : Part.latches ∈ L) (h_log : Part.log ∈ L) (h_mem : Part.mem ∈ L) (h_power : Part.power ∈ L) (h_regs : Part.regs ∈ L) (h_regs2 : Part.regs2 ∈ L) (cause : Nat) (s : State) :
    hide L (resetEdge cause s) = hide L s := by
  unfold resetEdge
  simp only [hide_ite, ite_self, implies_true, forall_const, hide_boot h_boot, hide_cages h_cages, hide_cfg h_cfg, hide_ckpt h_ckpt, hide_cores h_cores, hide_epoch h_epoch, hide_exch h_exch, hide_fab h_fab, hide_grooms h_grooms, hide_hitch h_hitch, hide_host h_host, hide_job h_job, hide_latches h_latches, hide_log h_log, hide_mem h_mem, hide_power h_power, hide_regs h_regs, hide_regs2 h_regs2, cacheClean_hide h_log h_mem h_regs, changeTakes_hide h_regs, rfSet_hide h_regs, h_boot, h_cages, h_cfg, h_ckpt, h_cores, h_epoch, h_exch, h_fab, h_grooms, h_hitch, h_host, h_job, h_latches, h_log, h_mem, h_power, h_regs, h_regs2, hide_foldl, hide_foldl_fst, hide_foldl_snd]; simp only [hide, h_boot, h_cages, h_cfg, h_ckpt, h_cores, h_epoch, h_exch, h_fab, h_grooms, h_hitch, h_host, h_job, h_latches, h_log, h_mem, h_power, h_regs, h_regs2, if_true]

theorem powerOnReset_hide {L : List Part} (h_boot : Part.boot ∈ L) (h_cages : Part.cages ∈ L) (h_cfg : Part.cfg ∈ L) (h_ckpt : Part.ckpt ∈ L) (h_cores : Part.cores ∈ L) (h_epoch : Part.epoch ∈ L) (h_exch : Part.exch ∈ L) (h_fab : Part.fab ∈ L) (h_grooms : Part.grooms ∈ L) (h_hitch : Part.hitch ∈ L) (h_host : Part.host ∈ L) (h_job : Part.job ∈ L) (h_latches : Part.latches ∈ L) (h_log : Part.log ∈ L) (h_mem : Part.mem ∈ L) (h_power : Part.power ∈ L) (h_regs : Part.regs ∈ L) (h_regs2 : Part.regs2 ∈ L) (s : State) :
    hide L (powerOnReset s) = hide L s := by
  unfold powerOnReset
  simp only [resetEdge_hide h_boot h_cages h_cfg h_ckpt h_cores h_epoch h_exch h_fab h_grooms h_hitch h_host h_job h_latches h_log h_mem h_power h_regs h_regs2]

theorem vinReset_hide {L : List Part} (h_boot : Part.boot ∈ L) (h_cages : Part.cages ∈ L) (h_cfg : Part.cfg ∈ L) (h_ckpt : Part.ckpt ∈ L) (h_cores : Part.cores ∈ L) (h_epoch : Part.epoch ∈ L) (h_exch : Part.exch ∈ L) (h_fab : Part.fab ∈ L) (h_grooms : Part.grooms ∈ L) (h_hitch : Part.hitch ∈ L) (h_host : Part.host ∈ L) (h_job : Part.job ∈ L) (h_latches : Part.latches ∈ L) (h_log : Part.log ∈ L) (h_mem : Part.mem ∈ L) (h_power : Part.power ∈ L) (h_regs : Part.regs ∈ L) (h_regs2 : Part.regs2 ∈ L) (s : State) :
    hide L (vinReset s) = hide L s := by
  unfold vinReset
  simp only [resetEdge_hide h_boot h_cages h_cfg h_ckpt h_cores h_epoch h_exch h_fab h_grooms h_hitch h_host h_job h_latches h_log h_mem h_power h_regs h_regs2]

theorem rstInReset_hide {L : List Part} (h_boot : Part.boot ∈ L) (h_cages : Part.cages ∈ L) (h_cfg : Part.cfg ∈ L) (h_ckpt : Part.ckpt ∈ L) (h_cores : Part.cores ∈ L) (h_epoch : Part.epoch ∈ L) (h_exch : Part.exch ∈ L) (h_fab : Part.fab ∈ L) (h_grooms : Part.grooms ∈ L) (h_hitch : Part.hitch ∈ L) (h_host : Part.host ∈ L) (h_job : Part.job ∈ L) (h_latches : Part.latches ∈ L) (h_log : Part.log ∈ L) (h_mem : Part.mem ∈ L) (h_power : Part.power ∈ L) (h_regs : Part.regs ∈ L) (h_regs2 : Part.regs2 ∈ L) (s : State) :
    hide L (rstInReset s) = hide L s := by
  unfold rstInReset
  simp only [resetEdge_hide h_boot h_cages h_cfg h_ckpt h_cores h_epoch h_exch h_fab h_grooms h_hitch h_host h_job h_latches h_log h_mem h_power h_regs h_regs2]

theorem hostResetCmd_hide {L : List Part} (h_boot : Part.boot ∈ L) (h_cages : Part.cages ∈ L) (h_cfg : Part.cfg ∈ L) (h_ckpt : Part.ckpt ∈ L) (h_cores : Part.cores ∈ L) (h_epoch : Part.epoch ∈ L) (h_exch : Part.exch ∈ L) (h_fab : Part.fab ∈ L) (h_grooms : Part.grooms ∈ L) (h_hitch : Part.hitch ∈ L) (h_host : Part.host ∈ L) (h_job : Part.job ∈ L) (h_latches : Part.latches ∈ L) (h_log : Part.log ∈ L) (h_mem : Part.mem ∈ L) (h_power : Part.power ∈ L) (h_regs : Part.regs ∈ L) (h_regs2 : Part.regs2 ∈ L) (key : Byte) (s : State) :
    hide L (hostResetCmd key s) = hide L s := by
  unfold hostResetCmd
  simp only [hide_ite, ite_self, resetEdge_hide h_boot h_cages h_cfg h_ckpt h_cores h_epoch h_exch h_fab h_grooms h_hitch h_host h_job h_latches h_log h_mem h_power h_regs h_regs2]

theorem watchdogReset_hide {L : List Part} (h_boot : Part.boot ∈ L) (h_cages : Part.cages ∈ L) (h_cfg : Part.cfg ∈ L) (h_ckpt : Part.ckpt ∈ L) (h_cores : Part.cores ∈ L) (h_epoch : Part.epoch ∈ L) (h_exch : Part.exch ∈ L) (h_fab : Part.fab ∈ L) (h_grooms : Part.grooms ∈ L) (h_hitch : Part.hitch ∈ L) (h_host : Part.host ∈ L) (h_job : Part.job ∈ L) (h_latches : Part.latches ∈ L) (h_log : Part.log ∈ L) (h_mem : Part.mem ∈ L) (h_power : Part.power ∈ L) (h_regs : Part.regs ∈ L) (h_regs2 : Part.regs2 ∈ L) (s : State) :
    hide L (watchdogReset s) = hide L s := by
  unfold watchdogReset
  simp only [resetEdge_hide h_boot h_cages h_cfg h_ckpt h_cores h_epoch h_exch h_fab h_grooms h_hitch h_host h_job h_latches h_log h_mem h_power h_regs h_regs2]

theorem thermalTrip_hide {L : List Part} (h_boot : Part.boot ∈ L) (h_cages : Part.cages ∈ L) (h_cfg : Part.cfg ∈ L) (h_ckpt : Part.ckpt ∈ L) (h_cores : Part.cores ∈ L) (h_epoch : Part.epoch ∈ L) (h_exch : Part.exch ∈ L) (h_fab : Part.fab ∈ L) (h_grooms : Part.grooms ∈ L) (h_hitch : Part.hitch ∈ L) (h_host : Part.host ∈ L) (h_job : Part.job ∈ L) (h_latches : Part.latches ∈ L) (h_log : Part.log ∈ L) (h_mem : Part.mem ∈ L) (h_power : Part.power ∈ L) (h_regs : Part.regs ∈ L) (h_regs2 : Part.regs2 ∈ L) (cause : TripCause) (s : State) :
    hide L (thermalTrip cause s) = hide L s := by
  unfold thermalTrip
  simp only [hide_ite, ite_self, resetEdge_hide h_boot h_cages h_cfg h_ckpt h_cores h_epoch h_exch h_fab h_grooms h_hitch h_host h_job h_latches h_log h_mem h_power h_regs h_regs2]

theorem thermalTripClear_hide {L : List Part} (h_boot : Part.boot ∈ L) (dies hbms : List Byte) (s : State) :
    hide L (thermalTripClear dies hbms s) = hide L s := by
  unfold thermalTripClear
  simp only [hide_ite, ite_self, hide_boot h_boot]

theorem twinRecover_hide {L : List Part} (h_boot : Part.boot ∈ L) (h_cages : Part.cages ∈ L) (h_cfg : Part.cfg ∈ L) (h_ckpt : Part.ckpt ∈ L) (h_cores : Part.cores ∈ L) (h_epoch : Part.epoch ∈ L) (h_exch : Part.exch ∈ L) (h_fab : Part.fab ∈ L) (h_grooms : Part.grooms ∈ L) (h_hitch : Part.hitch ∈ L) (h_host : Part.host ∈ L) (h_job : Part.job ∈ L) (h_latches : Part.latches ∈ L) (h_log : Part.log ∈ L) (h_mem : Part.mem ∈ L) (h_outbox : Part.outbox ∈ L) (h_power : Part.power ∈ L) (h_regs : Part.regs ∈ L) (h_regs2 : Part.regs2 ∈ L) (s : State) :
    hide L (twinRecover s) = hide L s := by
  unfold twinRecover
  simp only [hide_ite, ite_self, resetEdge_hide h_boot h_cages h_cfg h_ckpt h_cores h_epoch h_exch h_fab h_grooms h_hitch h_host h_job h_latches h_log h_mem h_power h_regs h_regs2, refuse_hide h_host h_log h_outbox h_regs h_regs2]

theorem trimWrite_hide {L : List Part} (h_boot : Part.boot ∈ L) (seg gen : Nat) (bytes : List Byte) (i : Nat) (s : State) :
    hide L (trimWrite seg gen bytes i s) = hide L s := by
  unfold trimWrite
  simp only [hide_ite, ite_self, hide_boot h_boot]

theorem trimsWrite_hide {L : List Part} (h_boot : Part.boot ∈ L) (segs : List (List Byte × W32)) (s : State) :
    hide L (trimsWrite segs s) = hide L s := by
  unfold trimsWrite
  simp only [implies_true, trimWrite_hide h_boot, hide_foldl]

theorem trimFit_hide {L : List Part} (h_boot : Part.boot ∈ L) (i : Nat) (s : State) :
    hide L (trimFit i s) = hide L s := by
  unfold trimFit
  simp only [hide_boot h_boot]

theorem trimLoadDone_hide {L : List Part} (h_boot : Part.boot ∈ L) (h_host : Part.host ∈ L) (h_log : Part.log ∈ L) (h_outbox : Part.outbox ∈ L) (h_regs : Part.regs ∈ L) (h_regs2 : Part.regs2 ∈ L) (segs : List (List Byte × W32)) (digest : List Byte) (s : State) :
    hide L (trimLoadDone segs digest s) = hide L s := by
  unfold trimLoadDone
  simp only [hide_ite, ite_self, hide_boot h_boot, trimsWrite_hide h_boot, record_hide h_host h_log h_outbox h_regs h_regs2]

theorem rstOutRelease_hide {L : List Part} (h_boot : Part.boot ∈ L) (s : State) :
    hide L (rstOutRelease s) = hide L s := by
  unfold rstOutRelease
  simp only [hide_ite, ite_self, hide_boot h_boot]

theorem strapLatch_hide {L : List Part} (h_boot : Part.boot ∈ L) (h_host : Part.host ∈ L) (h_log : Part.log ∈ L) (h_outbox : Part.outbox ∈ L) (h_power : Part.power ∈ L) (h_regs : Part.regs ∈ L) (h_regs2 : Part.regs2 ∈ L) (x : Straps) (s : State) :
    hide L (strapLatch x s) = hide L s := by
  unfold strapLatch
  repeat' (first | (simp only [hide_ite, ite_self, implies_true, forall_const, hide_boot h_boot, hide_power h_power, rfSet_hide h_regs, record_hide h_host h_log h_outbox h_regs h_regs2, h_boot, h_host, h_log, h_outbox, h_power, h_regs, h_regs2]; done) | split | dsimp only | intro _ _ | (refine (hide_foldl _ _ _ ?_).trans ?_) | (refine (hide_foldl_snd _ _ _ ?_).trans ?_) | (simp only [hide, h_boot, h_host, h_log, h_outbox, h_power, h_regs, h_regs2, if_true]; done) | (simp only [hide_ite, ite_self, implies_true, forall_const, hide_boot h_boot, hide_power h_power, rfSet_hide h_regs, record_hide h_host h_log h_outbox h_regs h_regs2, h_boot, h_host, h_log, h_outbox, h_power, h_regs, h_regs2]; simp only [hide, h_boot, h_host, h_log, h_outbox, h_power, h_regs, h_regs2, if_true]; done) | simp only [hide_ite, ite_self, implies_true, forall_const, hide_boot h_boot, hide_power h_power, rfSet_hide h_regs, record_hide h_host h_log h_outbox h_regs h_regs2, h_boot, h_host, h_log, h_outbox, h_power, h_regs, h_regs2])

theorem recoveryWait_hide {L : List Part} (h_outbox : Part.outbox ∈ L) (h_regs : Part.regs ∈ L) (h_regs2 : Part.regs2 ∈ L) (s : State) :
    hide L (recoveryWait s) = hide L s := by
  unfold recoveryWait
  simp only [msix_hide h_outbox h_regs2, rfSet_hide h_regs]

theorem planCheck_hide {L : List Part} (h_boot : Part.boot ∈ L) (h_host : Part.host ∈ L) (h_log : Part.log ∈ L) (h_outbox : Part.outbox ∈ L) (h_regs : Part.regs ∈ L) (h_regs2 : Part.regs2 ∈ L) (s : State) :
    hide L (planCheck s) = hide L s := by
  unfold planCheck
  simp only [hide_ite, ite_self, hide_boot h_boot, record_hide h_host h_log h_outbox h_regs h_regs2]

theorem diesZero_hide {L : List Part} (h_mem : Part.mem ∈ L) (s : State) :
    hide L (diesZero s) = hide L s := by
  unfold diesZero
  simp only [hide_mem h_mem]

theorem linkReset_hide {L : List Part} (h_fab : Part.fab ∈ L) (h_regs : Part.regs ∈ L) (s : State) :
    hide L (linkReset s) = hide L s := by
  unfold linkReset
  simp only [hide_ite, ite_self, implies_true, portMod_hide h_fab, linkClear_hide h_fab, portLanesSet_hide h_regs, portStateSet_hide h_regs, hide_foldl]

theorem islandRelease_hide {L : List Part} (h_boot : Part.boot ∈ L) (h_fab : Part.fab ∈ L) (h_host : Part.host ∈ L) (h_log : Part.log ∈ L) (h_mem : Part.mem ∈ L) (h_outbox : Part.outbox ∈ L) (h_regs : Part.regs ∈ L) (h_regs2 : Part.regs2 ∈ L) (i : Nat) (s : State) :
    hide L (islandRelease i s) = hide L s := by
  unfold islandRelease
  simp only [hide_ite, ite_self, hide_boot h_boot, rfSet_hide h_regs, planCheck_hide h_boot h_host h_log h_outbox h_regs h_regs2, diesZero_hide h_mem, linkReset_hide h_fab h_regs, trimFit_hide h_boot, recoveryWait_hide h_outbox h_regs h_regs2]

theorem groupReady_hide {L : List Part} (h_boot : Part.boot ∈ L) (h_mem : Part.mem ∈ L) (h_regs : Part.regs ∈ L) (g : Group) (rows stalls : List (Fin 256)) (s : State) :
    hide L (groupReady g rows stalls s) = hide L s := by
  unfold groupReady
  simp only [hide_ite, ite_self, implies_true, forall_const, hide_boot h_boot, hide_mem h_mem, rfSet_hide h_regs, h_boot, h_mem, h_regs, hide_foldl, hide_foldl_fst, hide_foldl_snd]; (repeat' (first | (simp only [hide_ite, ite_self, implies_true, forall_const, hide_boot h_boot, hide_mem h_mem, rfSet_hide h_regs, h_boot, h_mem, h_regs, hide_foldl, hide_foldl_fst, hide_foldl_snd]; done) | split | dsimp only))

theorem measExtend_hide {L : List Part} (h_boot : Part.boot ∈ L) (h_regs : Part.regs ∈ L) (kind svn : Nat) (digest : List Byte) (s : State) :
    hide L (measExtend kind svn digest s) = hide L s := by
  unfold measExtend
  simp only [implies_true, hide_boot h_boot, regSet_hide h_regs, rfSet_hide h_regs, hide_foldl]

theorem mbSet_hide {L : List Part} (h_outbox : Part.outbox ∈ L) (h_regs2 : Part.regs2 ∈ L) (st code : Nat) (s : State) :
    hide L (mbSet st code s) = hide L s := by
  unfold mbSet
  simp only [hide_ite, ite_self, rf2Set_hide h_regs2, msix_hide h_outbox h_regs2]

theorem bootFail_hide {L : List Part} (h_boot : Part.boot ∈ L) (h_host : Part.host ∈ L) (h_log : Part.log ∈ L) (h_outbox : Part.outbox ∈ L) (h_regs : Part.regs ∈ L) (h_regs2 : Part.regs2 ∈ L) (code : W16) (s : State) :
    hide L (bootFail code s) = hide L s := by
  unfold bootFail
  simp only [hide_ite, ite_self, hide_boot h_boot, rfSet_hide h_regs, record_hide h_host h_log h_outbox h_regs h_regs2, mbSet_hide h_outbox h_regs2, recoveryWait_hide h_outbox h_regs h_regs2]

theorem bootImageFetched_hide {L : List Part} (h_boot : Part.boot ∈ L) (h_host : Part.host ∈ L) (h_log : Part.log ∈ L) (h_outbox : Part.outbox ∈ L) (h_regs : Part.regs ∈ L) (h_regs2 : Part.regs2 ∈ L) (img : Option SignedImage) (s : State) :
    hide L (bootImageFetched img s) = hide L s := by
  unfold bootImageFetched
  repeat' (first | (simp only [hide_ite, ite_self, implies_true, forall_const, hide_boot h_boot, bootFail_hide h_boot h_host h_log h_outbox h_regs h_regs2, measExtend_hide h_boot h_regs, mbSet_hide h_outbox h_regs2, rfSet_hide h_regs, h_boot, h_host, h_log, h_outbox, h_regs, h_regs2]; done) | split | dsimp only | intro _ _ | (refine (hide_foldl _ _ _ ?_).trans ?_) | (refine (hide_foldl_snd _ _ _ ?_).trans ?_) | (simp only [hide, h_boot, h_host, h_log, h_outbox, h_regs, h_regs2, if_true]; done) | (simp only [hide_ite, ite_self, implies_true, forall_const, hide_boot h_boot, bootFail_hide h_boot h_host h_log h_outbox h_regs h_regs2, measExtend_hide h_boot h_regs, mbSet_hide h_outbox h_regs2, rfSet_hide h_regs, h_boot, h_host, h_log, h_outbox, h_regs, h_regs2]; simp only [hide, h_boot, h_host, h_log, h_outbox, h_regs, h_regs2, if_true]; done) | simp only [hide_ite, ite_self, implies_true, forall_const, hide_boot h_boot, bootFail_hide h_boot h_host h_log h_outbox h_regs h_regs2, measExtend_hide h_boot h_regs, mbSet_hide h_outbox h_regs2, rfSet_hide h_regs, h_boot, h_host, h_log, h_outbox, h_regs, h_regs2])

theorem mailboxGo_hide {L : List Part} (h_boot : Part.boot ∈ L) (h_host : Part.host ∈ L) (h_log : Part.log ∈ L) (h_outbox : Part.outbox ∈ L) (h_regs : Part.regs ∈ L) (h_regs2 : Part.regs2 ∈ L) (s : State) :
    hide L (mailboxGo s) = hide L s := by
  unfold mailboxGo
  simp only [hide_ite, ite_self, hide_boot h_boot, mbSet_hide h_outbox h_regs2, refuse_hide h_host h_log h_outbox h_regs h_regs2, rfSet_hide h_regs]

theorem sealDo_hide {L : List Part} (h_boot : Part.boot ∈ L) (h_outbox : Part.outbox ∈ L) (h_regs : Part.regs ∈ L) (h_regs2 : Part.regs2 ∈ L) (s : State) :
    hide L (sealDo s) = hide L s := by
  unfold sealDo
  simp only [hide_ite, ite_self, hide_boot h_boot, rfSet_hide h_regs, msix_hide h_outbox h_regs2]

theorem secSeal_hide {L : List Part} (h_boot : Part.boot ∈ L) (h_host : Part.host ∈ L) (h_log : Part.log ∈ L) (h_outbox : Part.outbox ∈ L) (h_regs : Part.regs ∈ L) (h_regs2 : Part.regs2 ∈ L) (s : State) :
    hide L (secSeal s) = hide L s := by
  unfold secSeal
  simp only [hide_ite, ite_self, sealDo_hide h_boot h_outbox h_regs h_regs2, refuse_hide h_host h_log h_outbox h_regs h_regs2]

theorem sealTimeout_hide {L : List Part} (h_boot : Part.boot ∈ L) (h_host : Part.host ∈ L) (h_log : Part.log ∈ L) (h_outbox : Part.outbox ∈ L) (h_regs : Part.regs ∈ L) (h_regs2 : Part.regs2 ∈ L) (s : State) :
    hide L (sealTimeout s) = hide L s := by
  unfold sealTimeout
  simp only [hide_ite, ite_self, hide_boot h_boot, record_hide h_host h_log h_outbox h_regs h_regs2, sealDo_hide h_boot h_outbox h_regs h_regs2, msix_hide h_outbox h_regs2]

theorem blockReset_hide {L : List Part} (h_boot : Part.boot ∈ L) (h_cages : Part.cages ∈ L) (h_fab : Part.fab ∈ L) (h_host : Part.host ∈ L) (h_log : Part.log ∈ L) (h_outbox : Part.outbox ∈ L) (h_regs : Part.regs ∈ L) (h_regs2 : Part.regs2 ∈ L) (kind : BitVec 3) (index : BitVec 5) (s : State) :
    hide L (blockReset kind index s) = hide L s := by
  unfold blockReset
  simp only [hide_ite, ite_self, implies_true, hide_boot h_boot, refuse_hide h_host h_log h_outbox h_regs h_regs2, rfSet_hide h_regs, portDown_hide h_fab h_host h_log h_outbox h_regs h_regs2, ringPark_hide h_cages h_regs, hide_foldl]

theorem attest_hide {L : List Part} (h_host : Part.host ∈ L) (h_log : Part.log ∈ L) (h_outbox : Part.outbox ∈ L) (h_regs : Part.regs ∈ L) (h_regs2 : Part.regs2 ∈ L) (tag : W16) (nonce : List Byte) (addr : W64) (s : State) :
    hide L (attest tag nonce addr s) = hide L s := by
  unfold attest
  simp only [hide_ite, ite_self, refuseCmd_hide h_host h_log h_outbox h_regs h_regs2, complete1_hide h_host h_outbox h_regs2, emit_hide h_outbox]

theorem alertSet_hide {L : List Part} (h_outbox : Part.outbox ∈ L) (h_regs : Part.regs ∈ L) (h_regs2 : Part.regs2 ∈ L) (bit : Nat) (s : State) :
    hide L (alertSet bit s) = hide L s := by
  unfold alertSet
  simp only [msix_hide h_outbox h_regs2, rfSet_hide h_regs]

theorem tackRequest_hide {L : List Part} (h_regs : Part.regs ∈ L) (t : Nat) (s : State) :
    hide L (tackRequest t s) = hide L s := by
  unfold tackRequest
  simp only [hide_ite, ite_self, rfSet_hide h_regs]

theorem tackSetCmd_hide {L : List Part} (h_host : Part.host ∈ L) (h_log : Part.log ∈ L) (h_outbox : Part.outbox ∈ L) (h_regs : Part.regs ∈ L) (h_regs2 : Part.regs2 ∈ L) (tag : W16) (t : BitVec 2) (s : State) :
    hide L (tackSetCmd tag t s) = hide L s := by
  unfold tackSetCmd
  simp only [hide_ite, ite_self, refuseCmd_hide h_host h_log h_outbox h_regs h_regs2, tackRequest_hide h_regs, complete1_hide h_host h_outbox h_regs2]

theorem tackTargetWrite_hide {L : List Part} (h_host : Part.host ∈ L) (h_log : Part.log ∈ L) (h_outbox : Part.outbox ∈ L) (h_regs : Part.regs ∈ L) (h_regs2 : Part.regs2 ∈ L) (t : BitVec 2) (s : State) :
    hide L (tackTargetWrite t s) = hide L s := by
  unfold tackTargetWrite
  simp only [hide_ite, ite_self, refuse_hide h_host h_log h_outbox h_regs h_regs2, tackRequest_hide h_regs]

theorem islandTack_hide {L : List Part} (h_free : Part.free ∈ L) (h_power : Part.power ∈ L) (h_regs : Part.regs ∈ L) (i : Nat) (s : State) :
    hide L (islandTack i s) = hide L s := by
  unfold islandTack
  simp only [hide_ite, ite_self, hide_power h_power, countAll_hide h_free h_regs, rfSet_hide h_regs]

theorem tackIslandSwitch_hide {L : List Part} (h_ckpt : Part.ckpt ∈ L) (h_cores : Part.cores ∈ L) (h_fab : Part.fab ∈ L) (h_free : Part.free ∈ L) (h_grooms : Part.grooms ∈ L) (h_host : Part.host ∈ L) (h_log : Part.log ∈ L) (h_mem : Part.mem ∈ L) (h_outbox : Part.outbox ∈ L) (h_power : Part.power ∈ L) (h_regs : Part.regs ∈ L) (h_regs2 : Part.regs2 ∈ L) (i : Nat) (s : State) :
    hide L (tackIslandSwitch i s) = hide L s := by
  unfold tackIslandSwitch
  simp only [hide_ite, ite_self, islandTack_hide h_free h_power h_regs, arrivalsGo_hide h_ckpt h_cores h_fab h_free h_grooms h_host h_log h_mem h_outbox h_regs h_regs2]

theorem tackChangeDone_hide {L : List Part} (h_host : Part.host ∈ L) (h_outbox : Part.outbox ∈ L) (h_regs : Part.regs ∈ L) (h_regs2 : Part.regs2 ∈ L) (s : State) :
    hide L (tackChangeDone s) = hide L s := by
  unfold tackChangeDone
  simp only [hide_ite, ite_self, implies_true, rfSet_hide h_regs, complete1_hide h_host h_outbox h_regs2, fore_hide h_host, hide_foldl]

theorem powerCapTick_hide {L : List Part} (h_power : Part.power ∈ L) (h_regs : Part.regs ∈ L) (avg1ms avg10us : Nat) (s : State) :
    hide L (powerCapTick avg1ms avg10us s) = hide L s := by
  unfold powerCapTick
  simp only [hide_power h_power, rfSet_hide h_regs]

theorem powerLimitFail_hide {L : List Part} (h_host : Part.host ∈ L) (h_log : Part.log ∈ L) (h_outbox : Part.outbox ∈ L) (h_regs : Part.regs ∈ L) (h_regs2 : Part.regs2 ∈ L) (s : State) :
    hide L (powerLimitFail s) = hide L s := by
  unfold powerLimitFail
  simp only [hide_ite, ite_self, alertSet_hide h_outbox h_regs h_regs2, record_hide h_host h_log h_outbox h_regs h_regs2]

theorem railFault_hide {L : List Part} (h_host : Part.host ∈ L) (h_log : Part.log ∈ L) (h_outbox : Part.outbox ∈ L) (h_regs : Part.regs ∈ L) (h_regs2 : Part.regs2 ∈ L) (s : State) :
    hide L (railFault s) = hide L s := by
  unfold railFault
  simp only [alertSet_hide h_outbox h_regs h_regs2, record_hide h_host h_log h_outbox h_regs h_regs2]

theorem dieTemp_hide {L : List Part} (h_regs : Part.regs ∈ L) (d t : Nat) (s : State) :
    hide L (dieTemp d t s) = hide L s := by
  unfold dieTemp
  simp only [rfSet_hide h_regs]

theorem dieHot_hide {L : List Part} (h_host : Part.host ∈ L) (h_log : Part.log ∈ L) (h_outbox : Part.outbox ∈ L) (h_power : Part.power ∈ L) (h_regs : Part.regs ∈ L) (h_regs2 : Part.regs2 ∈ L) (d t : Nat) (s : State) :
    hide L (dieHot d t s) = hide L s := by
  unfold dieHot
  simp only [hide_ite, ite_self, hide_power h_power, dieTemp_hide h_regs, alertSet_hide h_outbox h_regs h_regs2, record_hide h_host h_log h_outbox h_regs h_regs2]

theorem dieHotClear_hide {L : List Part} (h_power : Part.power ∈ L) (h_regs : Part.regs ∈ L) (d t : Nat) (s : State) :
    hide L (dieHotClear d t s) = hide L s := by
  unfold dieHotClear
  simp only [hide_ite, ite_self, hide_power h_power, dieTemp_hide h_regs]

theorem dieTempPeakClr_hide {L : List Part} (h_regs : Part.regs ∈ L) (d : Nat) (s : State) :
    hide L (dieTempPeakClr d s) = hide L s := by
  unfold dieTempPeakClr
  simp only [rfSet_hide h_regs]

theorem hostGate_hide {L : List Part} (h_host : Part.host ∈ L) (h_log : Part.log ∈ L) (h_outbox : Part.outbox ∈ L) (h_regs : Part.regs ∈ L) (h_regs2 : Part.regs2 ∈ L) (off lo value : Nat) (repeats : Bool) (body : State → State) (s : State) (hb : ∀ s, hide L (body s) = hide L s) :
    hide L (hostGate off lo value repeats body s) = hide L s := by
  unfold hostGate
  simp only [hide_ite, ite_self, hb, refuse_hide h_host h_log h_outbox h_regs h_regs2]

theorem hostWrite_hide {L : List Part} (h_host : Part.host ∈ L) (h_log : Part.log ∈ L) (h_outbox : Part.outbox ∈ L) (h_regs : Part.regs ∈ L) (h_regs2 : Part.regs2 ∈ L) (off lo w v : Nat) (body : State → State) (s : State) (hb : ∀ s, hide L (body s) = hide L s) :
    hide L (hostWrite off lo w v body s) = hide L s := by
  unfold hostWrite
  apply hostGate_hide <;> first | assumption | (intros; simp only [hide_ite, ite_self, implies_true, forall_const, hb, hostGate_hide h_host h_log h_outbox h_regs h_regs2, h_host, h_log, h_outbox, h_regs, h_regs2]; done) | (intros; (repeat' (first | (simp only [hide_ite, ite_self, implies_true, forall_const, hb, hostGate_hide h_host h_log h_outbox h_regs h_regs2, h_host, h_log, h_outbox, h_regs, h_regs2]; done) | split | dsimp only)); done)

theorem hostAct_hide {L : List Part} (h_host : Part.host ∈ L) (h_log : Part.log ∈ L) (h_outbox : Part.outbox ∈ L) (h_regs : Part.regs ∈ L) (h_regs2 : Part.regs2 ∈ L) (off lo : Nat) (body : State → State) (s : State) (hb : ∀ s, hide L (body s) = hide L s) :
    hide L (hostAct off lo body s) = hide L s := by
  unfold hostAct
  apply hostGate_hide <;> first | assumption | (intros; simp only [hide_ite, ite_self, implies_true, forall_const, hb, hostGate_hide h_host h_log h_outbox h_regs h_regs2, h_host, h_log, h_outbox, h_regs, h_regs2]; done) | (intros; (repeat' (first | (simp only [hide_ite, ite_self, implies_true, forall_const, hb, hostGate_hide h_host h_log h_outbox h_regs h_regs2, h_host, h_log, h_outbox, h_regs, h_regs2]; done) | split | dsimp only)); done)

end Sys2Proof.Machine
end

