-- ==== Sys2Proof/Laws/FramesCore.lean ====
section
/-!
SUPPORT. Issue, the Ostler, the engines and copies: what each operation leaves alone. `f_hide` says that `f` changes the parts
named in its hypotheses at most.
-/
namespace Sys2Proof.Machine

set_option linter.unusedSimpArgs false
set_option linter.unusedTactic false
set_option linter.unreachableTactic false

theorem issueWith_hide {L : List Part} (h_cores : Part.cores ∈ L) (h_host : Part.host ∈ L) (h_log : Part.log ∈ L) (h_outbox : Part.outbox ∈ L) (h_regs : Part.regs ∈ L) (h_regs2 : Part.regs2 ∈ L) (n : Nat) (q : Q) (i op : Nat) (body : Ent → State → State) (s : State) (hb : ∀ e s, hide L (body e s) = hide L s) :
    hide L (issueWith n q i op body s) = hide L s := by
  unfold issueWith
  repeat' (first | (simp only [hide_ite, ite_self, implies_true, forall_const, hb, haltWait_hide h_cores h_host h_log h_outbox h_regs h_regs2, h_cores, h_host, h_log, h_outbox, h_regs, h_regs2]; done) | split | dsimp only | intro _ _ | (refine (hide_foldl _ _ _ ?_).trans ?_) | (refine (hide_foldl_snd _ _ _ ?_).trans ?_) | (simp only [hide, h_cores, h_host, h_log, h_outbox, h_regs, h_regs2, if_true]; done) | (simp only [hide_ite, ite_self, implies_true, forall_const, hb, haltWait_hide h_cores h_host h_log h_outbox h_regs h_regs2, h_cores, h_host, h_log, h_outbox, h_regs, h_regs2]; simp only [hide, h_cores, h_host, h_log, h_outbox, h_regs, h_regs2, if_true]; done) | simp only [hide_ite, ite_self, implies_true, forall_const, hb, haltWait_hide h_cores h_host h_log h_outbox h_regs h_regs2, h_cores, h_host, h_log, h_outbox, h_regs, h_regs2])

theorem takeIssue_hide {L : List Part} (h_cores : Part.cores ∈ L) (h_regs : Part.regs ∈ L) (n : Nat) (q : Q) (e : Ent) (locks : List Lock) (descs : List Nat) (unit : Bool) (s : State) :
    hide L (takeIssue n q e locks descs unit s) = hide L s := by
  unfold takeIssue
  simp only [hide_ite, ite_self, takeWait_hide h_cores, entMod_hide h_cores, regAdd_hide h_regs, lockPeak_hide h_regs]

theorem ctlDone_hide {L : List Part} (h_cores : Part.cores ∈ L) (h_free : Part.free ∈ L) (h_host : Part.host ∈ L) (h_log : Part.log ∈ L) (h_outbox : Part.outbox ∈ L) (h_regs : Part.regs ∈ L) (h_regs2 : Part.regs2 ∈ L) (n : Nat) (x : Ctx) (w : W128) (next : BitVec 12) (s : State) :
    hide L (ctlDone n x w next s) = hide L s := by
  unfold ctlDone
  simp only [hide_ite, ite_self, signal_hide h_cores h_free h_log h_regs, ctxStop_hide h_cores h_host h_log h_outbox h_regs h_regs2, ctxMod_hide h_cores]

theorem ctlFault_hide {L : List Part} (h_cores : Part.cores ∈ L) (h_host : Part.host ∈ L) (h_log : Part.log ∈ L) (h_outbox : Part.outbox ∈ L) (h_regs : Part.regs ∈ L) (h_regs2 : Part.regs2 ∈ L) (n : Nat) (x : Ctx) (code : W16) (s : State) :
    hide L (ctlFault n x code s) = hide L s := by
  unfold ctlFault
  simp only [ctxStop_hide h_cores h_host h_log h_outbox h_regs h_regs2]

theorem ctlRun_hide {L : List Part} (h_cores : Part.cores ∈ L) (h_host : Part.host ∈ L) (h_log : Part.log ∈ L) (h_outbox : Part.outbox ∈ L) (h_regs : Part.regs ∈ L) (h_regs2 : Part.regs2 ∈ L) (n : Nat) (x : Ctx) (op : Nat) (body : CtlF → W128 → State → State) (s : State) (hb : ∀ f w s, hide L (body f w s) = hide L s) :
    hide L (ctlRun n x op body s) = hide L s := by
  unfold ctlRun
  simp only [hide_ite, ite_self, implies_true, forall_const, hb, ctlFault_hide h_cores h_host h_log h_outbox h_regs h_regs2, ctxStop_hide h_cores h_host h_log h_outbox h_regs h_regs2, h_cores, h_host, h_log, h_outbox, h_regs, h_regs2]; (repeat' (first | (simp only [hide_ite, ite_self, implies_true, forall_const, hb, ctlFault_hide h_cores h_host h_log h_outbox h_regs h_regs2, ctxStop_hide h_cores h_host h_log h_outbox h_regs h_regs2, h_cores, h_host, h_log, h_outbox, h_regs, h_regs2]; done) | split | dsimp only))

theorem ctlPlain_hide {L : List Part} (h_cores : Part.cores ∈ L) (h_free : Part.free ∈ L) (h_host : Part.host ∈ L) (h_log : Part.log ∈ L) (h_outbox : Part.outbox ∈ L) (h_regs : Part.regs ∈ L) (h_regs2 : Part.regs2 ∈ L) (n : Nat) (x : Ctx) (f : CtxSt → CtxSt) (next : BitVec 12) (w : W128) (s : State) :
    hide L (ctlPlain n x f next w s) = hide L s := by
  unfold ctlPlain
  simp only [ctlDone_hide h_cores h_free h_host h_log h_outbox h_regs h_regs2, ctxMod_hide h_cores, takeWait_hide h_cores]

theorem ostlerLi_hide {L : List Part} (h_cores : Part.cores ∈ L) (h_free : Part.free ∈ L) (h_host : Part.host ∈ L) (h_log : Part.log ∈ L) (h_outbox : Part.outbox ∈ L) (h_regs : Part.regs ∈ L) (h_regs2 : Part.regs2 ∈ L) (n : Nat) (x : Ctx) (s : State) :
    hide L (ostlerLi n x s) = hide L s := by
  unfold ostlerLi
  apply ctlRun_hide <;> first | assumption | (intros; simp only [hide_ite, ite_self, implies_true, forall_const, ctlRun_hide h_cores h_host h_log h_outbox h_regs h_regs2, ctlPlain_hide h_cores h_free h_host h_log h_outbox h_regs h_regs2, h_cores, h_free, h_host, h_log, h_outbox, h_regs, h_regs2]; done) | (intros; (repeat' (first | (simp only [hide_ite, ite_self, implies_true, forall_const, ctlRun_hide h_cores h_host h_log h_outbox h_regs h_regs2, ctlPlain_hide h_cores h_free h_host h_log h_outbox h_regs h_regs2, h_cores, h_free, h_host, h_log, h_outbox, h_regs, h_regs2]; done) | split | dsimp only)); done)

theorem ostlerAlu_hide {L : List Part} (h_cores : Part.cores ∈ L) (h_free : Part.free ∈ L) (h_host : Part.host ∈ L) (h_log : Part.log ∈ L) (h_outbox : Part.outbox ∈ L) (h_regs : Part.regs ∈ L) (h_regs2 : Part.regs2 ∈ L) (n : Nat) (x : Ctx) (s : State) :
    hide L (ostlerAlu n x s) = hide L s := by
  unfold ostlerAlu
  apply ctlRun_hide <;> first | assumption | (intros; simp only [hide_ite, ite_self, implies_true, forall_const, ctlRun_hide h_cores h_host h_log h_outbox h_regs h_regs2, ctlPlain_hide h_cores h_free h_host h_log h_outbox h_regs h_regs2, h_cores, h_free, h_host, h_log, h_outbox, h_regs, h_regs2]; done) | (intros; (repeat' (first | (simp only [hide_ite, ite_self, implies_true, forall_const, ctlRun_hide h_cores h_host h_log h_outbox h_regs h_regs2, ctlPlain_hide h_cores h_free h_host h_log h_outbox h_regs h_regs2, h_cores, h_free, h_host, h_log, h_outbox, h_regs, h_regs2]; done) | split | dsimp only)); done)

theorem ostlerBr_hide {L : List Part} (h_cores : Part.cores ∈ L) (h_free : Part.free ∈ L) (h_host : Part.host ∈ L) (h_log : Part.log ∈ L) (h_outbox : Part.outbox ∈ L) (h_regs : Part.regs ∈ L) (h_regs2 : Part.regs2 ∈ L) (n : Nat) (x : Ctx) (s : State) :
    hide L (ostlerBr n x s) = hide L s := by
  unfold ostlerBr
  apply ctlRun_hide <;> first | assumption | (intros; simp only [hide_ite, ite_self, implies_true, forall_const, ctlRun_hide h_cores h_host h_log h_outbox h_regs h_regs2, ctlPlain_hide h_cores h_free h_host h_log h_outbox h_regs h_regs2, h_cores, h_free, h_host, h_log, h_outbox, h_regs, h_regs2]; done) | (intros; (repeat' (first | (simp only [hide_ite, ite_self, implies_true, forall_const, ctlRun_hide h_cores h_host h_log h_outbox h_regs h_regs2, ctlPlain_hide h_cores h_free h_host h_log h_outbox h_regs h_regs2, h_cores, h_free, h_host, h_log, h_outbox, h_regs, h_regs2]; done) | split | dsimp only)); done)

theorem ostlerLoop_hide {L : List Part} (h_cores : Part.cores ∈ L) (h_free : Part.free ∈ L) (h_host : Part.host ∈ L) (h_log : Part.log ∈ L) (h_outbox : Part.outbox ∈ L) (h_regs : Part.regs ∈ L) (h_regs2 : Part.regs2 ∈ L) (n : Nat) (x : Ctx) (s : State) :
    hide L (ostlerLoop n x s) = hide L s := by
  unfold ostlerLoop
  apply ctlRun_hide <;> first | assumption | (intros; simp only [hide_ite, ite_self, implies_true, forall_const, ctlRun_hide h_cores h_host h_log h_outbox h_regs h_regs2, ctlPlain_hide h_cores h_free h_host h_log h_outbox h_regs h_regs2, h_cores, h_free, h_host, h_log, h_outbox, h_regs, h_regs2]; done) | (intros; (repeat' (first | (simp only [hide_ite, ite_self, implies_true, forall_const, ctlRun_hide h_cores h_host h_log h_outbox h_regs h_regs2, ctlPlain_hide h_cores h_free h_host h_log h_outbox h_regs h_regs2, h_cores, h_free, h_host, h_log, h_outbox, h_regs, h_regs2]; done) | split | dsimp only)); done)

theorem ostlerSumrd_hide {L : List Part} (h_cores : Part.cores ∈ L) (h_free : Part.free ∈ L) (h_host : Part.host ∈ L) (h_log : Part.log ∈ L) (h_outbox : Part.outbox ∈ L) (h_regs : Part.regs ∈ L) (h_regs2 : Part.regs2 ∈ L) (n : Nat) (x : Ctx) (s : State) :
    hide L (ostlerSumrd n x s) = hide L s := by
  unfold ostlerSumrd
  apply ctlRun_hide <;> first | assumption | (intros; simp only [hide_ite, ite_self, implies_true, forall_const, ctlRun_hide h_cores h_host h_log h_outbox h_regs h_regs2, ctlFault_hide h_cores h_host h_log h_outbox h_regs h_regs2, coreMod_hide h_cores, ctlPlain_hide h_cores h_free h_host h_log h_outbox h_regs h_regs2, h_cores, h_free, h_host, h_log, h_outbox, h_regs, h_regs2]; done) | (intros; (repeat' (first | (simp only [hide_ite, ite_self, implies_true, forall_const, ctlRun_hide h_cores h_host h_log h_outbox h_regs h_regs2, ctlFault_hide h_cores h_host h_log h_outbox h_regs h_regs2, coreMod_hide h_cores, ctlPlain_hide h_cores h_free h_host h_log h_outbox h_regs h_regs2, h_cores, h_free, h_host, h_log, h_outbox, h_regs, h_regs2]; done) | split | dsimp only)); done)

theorem ostlerSld_hide {L : List Part} (h_cores : Part.cores ∈ L) (h_free : Part.free ∈ L) (h_host : Part.host ∈ L) (h_log : Part.log ∈ L) (h_mem : Part.mem ∈ L) (h_outbox : Part.outbox ∈ L) (h_regs : Part.regs ∈ L) (h_regs2 : Part.regs2 ∈ L) (n : Nat) (x : Ctx) (s : State) :
    hide L (ostlerSld n x s) = hide L s := by
  unfold ostlerSld
  apply ctlRun_hide <;> first | assumption | (intros; simp only [hide_ite, ite_self, implies_true, forall_const, ctlRun_hide h_cores h_host h_log h_outbox h_regs h_regs2, ctlFault_hide h_cores h_host h_log h_outbox h_regs h_regs2, readErrors_hide h_log h_mem h_regs, ctlPlain_hide h_cores h_free h_host h_log h_outbox h_regs h_regs2, h_cores, h_free, h_host, h_log, h_mem, h_outbox, h_regs, h_regs2]; done) | (intros; (repeat' (first | (simp only [hide_ite, ite_self, implies_true, forall_const, ctlRun_hide h_cores h_host h_log h_outbox h_regs h_regs2, ctlFault_hide h_cores h_host h_log h_outbox h_regs h_regs2, readErrors_hide h_log h_mem h_regs, ctlPlain_hide h_cores h_free h_host h_log h_outbox h_regs h_regs2, h_cores, h_free, h_host, h_log, h_mem, h_outbox, h_regs, h_regs2]; done) | split | dsimp only)); done)

theorem ostlerSst_hide {L : List Part} (h_cores : Part.cores ∈ L) (h_free : Part.free ∈ L) (h_host : Part.host ∈ L) (h_log : Part.log ∈ L) (h_mem : Part.mem ∈ L) (h_outbox : Part.outbox ∈ L) (h_regs : Part.regs ∈ L) (h_regs2 : Part.regs2 ∈ L) (n : Nat) (x : Ctx) (s : State) :
    hide L (ostlerSst n x s) = hide L s := by
  unfold ostlerSst
  apply ctlRun_hide <;> first | assumption | (intros; simp only [hide_ite, ite_self, implies_true, forall_const, ctlRun_hide h_cores h_host h_log h_outbox h_regs h_regs2, ctlFault_hide h_cores h_host h_log h_outbox h_regs h_regs2, memWrite_hide h_mem, ctlPlain_hide h_cores h_free h_host h_log h_outbox h_regs h_regs2, h_cores, h_free, h_host, h_log, h_mem, h_outbox, h_regs, h_regs2]; done) | (intros; (repeat' (first | (simp only [hide_ite, ite_self, implies_true, forall_const, ctlRun_hide h_cores h_host h_log h_outbox h_regs h_regs2, ctlFault_hide h_cores h_host h_log h_outbox h_regs h_regs2, memWrite_hide h_mem, ctlPlain_hide h_cores h_free h_host h_log h_outbox h_regs h_regs2, h_cores, h_free, h_host, h_log, h_mem, h_outbox, h_regs, h_regs2]; done) | split | dsimp only)); done)

theorem ostlerDget_hide {L : List Part} (h_cores : Part.cores ∈ L) (h_free : Part.free ∈ L) (h_host : Part.host ∈ L) (h_log : Part.log ∈ L) (h_outbox : Part.outbox ∈ L) (h_regs : Part.regs ∈ L) (h_regs2 : Part.regs2 ∈ L) (n : Nat) (x : Ctx) (s : State) :
    hide L (ostlerDget n x s) = hide L s := by
  unfold ostlerDget
  apply ctlRun_hide <;> first | assumption | (intros; simp only [hide_ite, ite_self, implies_true, forall_const, ctlRun_hide h_cores h_host h_log h_outbox h_regs h_regs2, ctlPlain_hide h_cores h_free h_host h_log h_outbox h_regs h_regs2, h_cores, h_free, h_host, h_log, h_outbox, h_regs, h_regs2]; done) | (intros; (repeat' (first | (simp only [hide_ite, ite_self, implies_true, forall_const, ctlRun_hide h_cores h_host h_log h_outbox h_regs h_regs2, ctlPlain_hide h_cores h_free h_host h_log h_outbox h_regs h_regs2, h_cores, h_free, h_host, h_log, h_outbox, h_regs, h_regs2]; done) | split | dsimp only)); done)

theorem dsetEnd_hide {L : List Part} (h_cores : Part.cores ∈ L) (h_free : Part.free ∈ L) (h_host : Part.host ∈ L) (h_log : Part.log ∈ L) (h_outbox : Part.outbox ∈ L) (h_regs : Part.regs ∈ L) (h_regs2 : Part.regs2 ∈ L) (n : Nat) (x : Ctx) (w : W128) (s : State) :
    hide L (dsetEnd n x w s) = hide L s := by
  unfold dsetEnd
  simp only [hide_ite, ite_self, implies_true, forall_const, ctlDone_hide h_cores h_free h_host h_log h_outbox h_regs h_regs2, coreMod_hide h_cores, h_cores, h_free, h_host, h_log, h_outbox, h_regs, h_regs2]; (repeat' (first | (simp only [hide_ite, ite_self, implies_true, forall_const, ctlDone_hide h_cores h_free h_host h_log h_outbox h_regs h_regs2, coreMod_hide h_cores, h_cores, h_free, h_host, h_log, h_outbox, h_regs, h_regs2]; done) | split | dsimp only))

theorem ostlerDset_hide {L : List Part} (h_cores : Part.cores ∈ L) (h_free : Part.free ∈ L) (h_host : Part.host ∈ L) (h_log : Part.log ∈ L) (h_outbox : Part.outbox ∈ L) (h_regs : Part.regs ∈ L) (h_regs2 : Part.regs2 ∈ L) (n : Nat) (x : Ctx) (s : State) :
    hide L (ostlerDset n x s) = hide L s := by
  unfold ostlerDset
  simp only [hide_ite, ite_self, implies_true, forall_const, dsetEnd_hide h_cores h_free h_host h_log h_outbox h_regs h_regs2, ctlRun_hide h_cores h_host h_log h_outbox h_regs h_regs2, takeWait_hide h_cores, ctxMod_hide h_cores, h_cores, h_free, h_host, h_log, h_outbox, h_regs, h_regs2]

theorem enqPut_hide {L : List Part} (h_cores : Part.cores ∈ L) (n : Nat) (q : Q) (ws : List W128) (s : State) :
    hide L (enqPut n q ws s) = hide L s := by
  unfold enqPut
  simp only [queueMod_hide h_cores]

theorem enqBegin_hide {L : List Part} (h_cores : Part.cores ∈ L) (h_free : Part.free ∈ L) (h_host : Part.host ∈ L) (h_log : Part.log ∈ L) (h_outbox : Part.outbox ∈ L) (h_regs : Part.regs ∈ L) (h_regs2 : Part.regs2 ∈ L) (n : Nat) (x : Ctx) (q : Q) (ws : List W128) (occ : Nat) (w : W128) (s : State) :
    hide L (enqBegin n x q ws occ w s) = hide L s := by
  unfold enqBegin
  simp only [hide_ite, ite_self, enqPut_hide h_cores, takeWait_hide h_cores, ctxMod_hide h_cores, ctlDone_hide h_cores h_free h_host h_log h_outbox h_regs h_regs2]

theorem ostlerEnq_hide {L : List Part} (h_cores : Part.cores ∈ L) (h_free : Part.free ∈ L) (h_host : Part.host ∈ L) (h_log : Part.log ∈ L) (h_mem : Part.mem ∈ L) (h_outbox : Part.outbox ∈ L) (h_regs : Part.regs ∈ L) (h_regs2 : Part.regs2 ∈ L) (n : Nat) (x : Ctx) (s : State) :
    hide L (ostlerEnq n x s) = hide L s := by
  unfold ostlerEnq
  apply ctlRun_hide <;> first | assumption | (intros; simp only [hide_ite, ite_self, implies_true, forall_const, ctlRun_hide h_cores h_host h_log h_outbox h_regs h_regs2, ctlFault_hide h_cores h_host h_log h_outbox h_regs h_regs2, readErrors_hide h_log h_mem h_regs, enqBegin_hide h_cores h_free h_host h_log h_outbox h_regs h_regs2, h_cores, h_free, h_host, h_log, h_mem, h_outbox, h_regs, h_regs2]; done) | (intros; (repeat' (first | (simp only [hide_ite, ite_self, implies_true, forall_const, ctlRun_hide h_cores h_host h_log h_outbox h_regs h_regs2, ctlFault_hide h_cores h_host h_log h_outbox h_regs h_regs2, readErrors_hide h_log h_mem h_regs, enqBegin_hide h_cores h_free h_host h_log h_outbox h_regs h_regs2, h_cores, h_free, h_host, h_log, h_mem, h_outbox, h_regs, h_regs2]; done) | split | dsimp only)); done)

theorem enqComplete_hide {L : List Part} (h_cores : Part.cores ∈ L) (h_free : Part.free ∈ L) (h_host : Part.host ∈ L) (h_log : Part.log ∈ L) (h_outbox : Part.outbox ∈ L) (h_regs : Part.regs ∈ L) (h_regs2 : Part.regs2 ∈ L) (n : Nat) (x : Ctx) (s : State) :
    hide L (enqComplete n x s) = hide L s := by
  unfold enqComplete
  simp only [hide_ite, ite_self, implies_true, forall_const, enqPut_hide h_cores, ctlDone_hide h_cores h_free h_host h_log h_outbox h_regs h_regs2, ctxMod_hide h_cores, h_cores, h_free, h_host, h_log, h_outbox, h_regs, h_regs2]; (repeat' (first | (simp only [hide_ite, ite_self, implies_true, forall_const, enqPut_hide h_cores, ctlDone_hide h_cores h_free h_host h_log h_outbox h_regs h_regs2, ctxMod_hide h_cores, h_cores, h_free, h_host, h_log, h_outbox, h_regs, h_regs2]; done) | split | dsimp only))

theorem ostlerBar_hide {L : List Part} (h_cores : Part.cores ∈ L) (h_free : Part.free ∈ L) (h_host : Part.host ∈ L) (h_log : Part.log ∈ L) (h_outbox : Part.outbox ∈ L) (h_regs : Part.regs ∈ L) (h_regs2 : Part.regs2 ∈ L) (n : Nat) (x : Ctx) (s : State) :
    hide L (ostlerBar n x s) = hide L s := by
  unfold ostlerBar
  apply ctlRun_hide <;> first | assumption | (intros; simp only [hide_ite, ite_self, implies_true, forall_const, ctlRun_hide h_cores h_host h_log h_outbox h_regs h_regs2, ctlFault_hide h_cores h_host h_log h_outbox h_regs h_regs2, ctlPlain_hide h_cores h_free h_host h_log h_outbox h_regs h_regs2, ctxMod_hide h_cores, takeWait_hide h_cores, h_cores, h_free, h_host, h_log, h_outbox, h_regs, h_regs2]; done) | (intros; (repeat' (first | (simp only [hide_ite, ite_self, implies_true, forall_const, ctlRun_hide h_cores h_host h_log h_outbox h_regs h_regs2, ctlFault_hide h_cores h_host h_log h_outbox h_regs h_regs2, ctlPlain_hide h_cores h_free h_host h_log h_outbox h_regs h_regs2, ctxMod_hide h_cores, takeWait_hide h_cores, h_cores, h_free, h_host, h_log, h_outbox, h_regs, h_regs2]; done) | split | dsimp only)); done)

theorem ostlerStop_hide {L : List Part} (h_cores : Part.cores ∈ L) (h_free : Part.free ∈ L) (h_host : Part.host ∈ L) (h_log : Part.log ∈ L) (h_outbox : Part.outbox ∈ L) (h_regs : Part.regs ∈ L) (h_regs2 : Part.regs2 ∈ L) (n : Nat) (x : Ctx) (s : State) :
    hide L (ostlerStop n x s) = hide L s := by
  unfold ostlerStop
  apply ctlRun_hide <;> first | assumption | (intros; simp only [hide_ite, ite_self, implies_true, forall_const, ctlRun_hide h_cores h_host h_log h_outbox h_regs h_regs2, ctlPlain_hide h_cores h_free h_host h_log h_outbox h_regs h_regs2, rfSet_hide h_regs, ctxMod_hide h_cores, h_cores, h_free, h_host, h_log, h_outbox, h_regs, h_regs2]; done) | (intros; (repeat' (first | (simp only [hide_ite, ite_self, implies_true, forall_const, ctlRun_hide h_cores h_host h_log h_outbox h_regs h_regs2, ctlPlain_hide h_cores h_free h_host h_log h_outbox h_regs h_regs2, rfSet_hide h_regs, ctxMod_hide h_cores, h_cores, h_free, h_host, h_log, h_outbox, h_regs, h_regs2]; done) | split | dsimp only)); done)

theorem driftOne_hide {L : List Part} (h_cores : Part.cores ∈ L) (h_host : Part.host ∈ L) (h_log : Part.log ∈ L) (h_outbox : Part.outbox ∈ L) (h_regs : Part.regs ∈ L) (h_regs2 : Part.regs2 ∈ L) (n : Nat) (s : State) (i : Nat) :
    hide L (driftOne n s i) = hide L s := by
  unfold driftOne
  simp only [hide_ite, ite_self, coreMod_hide h_cores, regAdd_hide h_regs, record_hide h_host h_log h_outbox h_regs h_regs2, syncEvent_hide h_log h_regs]

theorem underOne_hide {L : List Part} (h_cores : Part.cores ∈ L) (h_log : Part.log ∈ L) (h_regs : Part.regs ∈ L) (n : Nat) (s : State) (i : Nat) :
    hide L (underOne n s i) = hide L s := by
  unfold underOne
  simp only [poisonCtr_hide h_cores h_log h_regs, syncEvent_hide h_log h_regs]

theorem joinSend_hide {L : List Part} (h_ckpt : Part.ckpt ∈ L) (h_cores : Part.cores ∈ L) (h_fab : Part.fab ∈ L) (h_free : Part.free ∈ L) (h_grooms : Part.grooms ∈ L) (h_host : Part.host ∈ L) (h_log : Part.log ∈ L) (h_mem : Part.mem ∈ L) (h_outbox : Part.outbox ∈ L) (h_regs : Part.regs ∈ L) (h_regs2 : Part.regs2 ∈ L) (s : State) :
    hide L (joinSend s) = hide L s := by
  unfold joinSend
  simp only [hide_ite, ite_self, sendRank_hide h_ckpt h_cores h_fab h_free h_grooms h_host h_log h_mem h_outbox h_regs h_regs2]

theorem barRealign_hide {L : List Part} (h_ckpt : Part.ckpt ∈ L) (h_cores : Part.cores ∈ L) (h_fab : Part.fab ∈ L) (h_free : Part.free ∈ L) (h_grooms : Part.grooms ∈ L) (h_host : Part.host ∈ L) (h_log : Part.log ∈ L) (h_mem : Part.mem ∈ L) (h_outbox : Part.outbox ∈ L) (h_regs : Part.regs ∈ L) (h_regs2 : Part.regs2 ∈ L) (n : Nat) (s : State) :
    hide L (barRealign n s) = hide L s := by
  unfold barRealign
  simp only [hide_ite, ite_self, implies_true, forall_const, giveBack_hide h_cores, underOne_hide h_cores h_log h_regs, ctlFault_hide h_cores h_host h_log h_outbox h_regs h_regs2, driftOne_hide h_cores h_host h_log h_outbox h_regs h_regs2, ctlDone_hide h_cores h_free h_host h_log h_outbox h_regs h_regs2, ctxMod_hide h_cores, joinSend_hide h_ckpt h_cores h_fab h_free h_grooms h_host h_log h_mem h_outbox h_regs h_regs2, h_ckpt, h_cores, h_fab, h_free, h_grooms, h_host, h_log, h_mem, h_outbox, h_regs, h_regs2, hide_foldl, hide_foldl_fst, hide_foldl_snd]; (repeat' (first | (simp only [hide_ite, ite_self, implies_true, forall_const, giveBack_hide h_cores, underOne_hide h_cores h_log h_regs, ctlFault_hide h_cores h_host h_log h_outbox h_regs h_regs2, driftOne_hide h_cores h_host h_log h_outbox h_regs h_regs2, ctlDone_hide h_cores h_free h_host h_log h_outbox h_regs h_regs2, ctxMod_hide h_cores, joinSend_hide h_ckpt h_cores h_fab h_free h_grooms h_host h_log h_mem h_outbox h_regs h_regs2, h_ckpt, h_cores, h_fab, h_free, h_grooms, h_host, h_log, h_mem, h_outbox, h_regs, h_regs2, hide_foldl, hide_foldl_fst, hide_foldl_snd]; done) | split | dsimp only))

theorem barRelease_hide {L : List Part} (h_cores : Part.cores ∈ L) (h_free : Part.free ∈ L) (h_host : Part.host ∈ L) (h_log : Part.log ∈ L) (h_outbox : Part.outbox ∈ L) (h_regs : Part.regs ∈ L) (h_regs2 : Part.regs2 ∈ L) (s : State) (n : Nat) :
    hide L (barRelease s n) = hide L s := by
  unfold barRelease
  simp only [ctlDone_hide h_cores h_free h_host h_log h_outbox h_regs h_regs2]

theorem epochRelease_hide {L : List Part} (h_cores : Part.cores ∈ L) (h_free : Part.free ∈ L) (h_host : Part.host ∈ L) (h_log : Part.log ∈ L) (h_outbox : Part.outbox ∈ L) (h_regs : Part.regs ∈ L) (h_regs2 : Part.regs2 ∈ L) (b : BarSt) (s : State) :
    hide L (epochRelease b s) = hide L s := by
  unfold epochRelease
  simp only [implies_true, barRelease_hide h_cores h_free h_host h_log h_outbox h_regs h_regs2, ctxMod_hide h_cores, hide_foldl]

theorem deviceEpochCloseCore_hide {L : List Part} (h_cores : Part.cores ∈ L) (h_free : Part.free ∈ L) (h_host : Part.host ∈ L) (h_log : Part.log ∈ L) (h_outbox : Part.outbox ∈ L) (h_regs : Part.regs ∈ L) (h_regs2 : Part.regs2 ∈ L) (s : State) :
    hide L (deviceEpochCloseCore s) = hide L s := by
  unfold deviceEpochCloseCore
  simp only [implies_true, epochRelease_hide h_cores h_free h_host h_log h_outbox h_regs h_regs2, regAdd_hide h_regs, hide_foldl]

theorem ostlerRun_hide {L : List Part} (h_cores : Part.cores ∈ L) (h_regs : Part.regs ∈ L) (n : Nat) (x : Ctx) (v : Bool) (s : State) :
    hide L (ostlerRun n x v s) = hide L s := by
  unfold ostlerRun
  simp only [hide_ite, ite_self, rfSet_hide h_regs, ctxMod_hide h_cores]

theorem ostlerContextStopped_hide {L : List Part} (h_cores : Part.cores ∈ L) (h_free : Part.free ∈ L) (h_host : Part.host ∈ L) (h_log : Part.log ∈ L) (h_outbox : Part.outbox ∈ L) (h_regs : Part.regs ∈ L) (h_regs2 : Part.regs2 ∈ L) (n : Nat) (x : Ctx) (s : State) :
    hide L (ostlerContextStopped n x s) = hide L s := by
  unfold ostlerContextStopped
  simp only [hide_ite, ite_self, implies_true, forall_const, dsetEnd_hide h_cores h_free h_host h_log h_outbox h_regs h_regs2, ctxMod_hide h_cores, giveBack_hide h_cores, breakDevice_hide h_cores h_host h_log h_outbox h_regs h_regs2, h_cores, h_free, h_host, h_log, h_outbox, h_regs, h_regs2]; (repeat' (first | (simp only [hide_ite, ite_self, implies_true, forall_const, dsetEnd_hide h_cores h_free h_host h_log h_outbox h_regs h_regs2, ctxMod_hide h_cores, giveBack_hide h_cores, breakDevice_hide h_cores h_host h_log h_outbox h_regs h_regs2, h_cores, h_free, h_host, h_log, h_outbox, h_regs, h_regs2]; done) | split | dsimp only))

theorem grantTake_hide {L : List Part} (h_cores : Part.cores ∈ L) (n : Nat) (q : Q) (u : UnitId) (s : State) :
    hide L (grantTake n q u s) = hide L s := by
  unfold grantTake
  simp only [hide_ite, ite_self, coreMod_hide h_cores]

theorem tmulStart_hide {L : List Part} (h_cores : Part.cores ∈ L) (h_host : Part.host ∈ L) (h_log : Part.log ∈ L) (h_mem : Part.mem ∈ L) (h_outbox : Part.outbox ∈ L) (h_regs : Part.regs ∈ L) (h_regs2 : Part.regs2 ∈ L) (n : Nat) (q : Q) (e : Ent) (f : TmulF) (i : Nat) (s : State) :
    hide L (tmulStart n q e f i s) = hide L s := by
  unfold tmulStart
  simp only [hide_ite, ite_self, implies_true, forall_const, readErrors_hide h_log h_mem h_regs, halt_hide h_cores h_host h_log h_outbox h_regs h_regs2, takeIssue_hide h_cores h_regs, stallMod_hide h_cores, regAdd64_hide h_regs, h_cores, h_host, h_log, h_mem, h_outbox, h_regs, h_regs2]; (repeat' (first | (simp only [hide_ite, ite_self, implies_true, forall_const, readErrors_hide h_log h_mem h_regs, halt_hide h_cores h_host h_log h_outbox h_regs h_regs2, takeIssue_hide h_cores h_regs, stallMod_hide h_cores, regAdd64_hide h_regs, h_cores, h_host, h_log, h_mem, h_outbox, h_regs, h_regs2]; done) | split | dsimp only))

theorem tmulBody_hide {L : List Part} (h_cores : Part.cores ∈ L) (h_host : Part.host ∈ L) (h_log : Part.log ∈ L) (h_mem : Part.mem ∈ L) (h_outbox : Part.outbox ∈ L) (h_regs : Part.regs ∈ L) (h_regs2 : Part.regs2 ∈ L) (n : Nat) (q : Q) (e : Ent) (s : State) :
    hide L (tmulBody n q e s) = hide L s := by
  unfold tmulBody
  simp only [hide_ite, ite_self, implies_true, forall_const, halt_hide h_cores h_host h_log h_outbox h_regs h_regs2, tmulStart_hide h_cores h_host h_log h_mem h_outbox h_regs h_regs2, grantTake_hide h_cores, h_cores, h_host, h_log, h_mem, h_outbox, h_regs, h_regs2]; (repeat' (first | (simp only [hide_ite, ite_self, implies_true, forall_const, halt_hide h_cores h_host h_log h_outbox h_regs h_regs2, tmulStart_hide h_cores h_host h_log h_mem h_outbox h_regs h_regs2, grantTake_hide h_cores, h_cores, h_host, h_log, h_mem, h_outbox, h_regs, h_regs2]; done) | split | dsimp only))

theorem issueTmul_hide {L : List Part} (h_cores : Part.cores ∈ L) (h_host : Part.host ∈ L) (h_log : Part.log ∈ L) (h_mem : Part.mem ∈ L) (h_outbox : Part.outbox ∈ L) (h_regs : Part.regs ∈ L) (h_regs2 : Part.regs2 ∈ L) (n : Nat) (q : Q) (i : Nat) (s : State) :
    hide L (issueTmul n q i s) = hide L s := by
  unfold issueTmul
  apply issueWith_hide <;> first | assumption | (intros; simp only [hide_ite, ite_self, implies_true, forall_const, issueWith_hide h_cores h_host h_log h_outbox h_regs h_regs2, tmulBody_hide h_cores h_host h_log h_mem h_outbox h_regs h_regs2, h_cores, h_host, h_log, h_mem, h_outbox, h_regs, h_regs2]; done) | (intros; (repeat' (first | (simp only [hide_ite, ite_self, implies_true, forall_const, issueWith_hide h_cores h_host h_log h_outbox h_regs h_regs2, tmulBody_hide h_cores h_host h_log h_mem h_outbox h_regs h_regs2, h_cores, h_host, h_log, h_mem, h_outbox, h_regs, h_regs2]; done) | split | dsimp only)); done)

theorem tmulEdgeDone_hide {L : List Part} (h_cores : Part.cores ∈ L) (h_free : Part.free ∈ L) (h_host : Part.host ∈ L) (h_log : Part.log ∈ L) (h_outbox : Part.outbox ∈ L) (h_regs : Part.regs ∈ L) (h_regs2 : Part.regs2 ∈ L) (n i : Nat) (s : State) :
    hide L (tmulEdgeDone n i s) = hide L s := by
  unfold tmulEdgeDone
  simp only [hide_ite, ite_self, implies_true, forall_const, stallMod_hide h_cores, complete_hide h_cores h_free h_host h_log h_outbox h_regs h_regs2, entMod_hide h_cores, h_cores, h_free, h_host, h_log, h_outbox, h_regs, h_regs2]; (repeat' (first | (simp only [hide_ite, ite_self, implies_true, forall_const, stallMod_hide h_cores, complete_hide h_cores h_free h_host h_log h_outbox h_regs h_regs2, entMod_hide h_cores, h_cores, h_free, h_host, h_log, h_outbox, h_regs, h_regs2]; done) | split | dsimp only))

theorem drainWrite_hide {L : List Part} (h_log : Part.log ∈ L) (h_mem : Part.mem ∈ L) (h_regs : Part.regs ∈ L) (n i : Nat) (t : Tile) (st : Stall) (s : State) :
    hide L (drainWrite n i t st s) = hide L s := by
  unfold drainWrite
  simp only [hide_ite, ite_self, memWrite_hide h_mem, sideStamp_hide h_mem, raise_hide h_log h_regs, regAdd_hide h_regs]

theorem tmulDrain_hide {L : List Part} (h_cores : Part.cores ∈ L) (h_free : Part.free ∈ L) (h_host : Part.host ∈ L) (h_log : Part.log ∈ L) (h_mem : Part.mem ∈ L) (h_outbox : Part.outbox ∈ L) (h_regs : Part.regs ∈ L) (h_regs2 : Part.regs2 ∈ L) (n i : Nat) (s : State) :
    hide L (tmulDrain n i s) = hide L s := by
  unfold tmulDrain
  simp only [hide_ite, ite_self, implies_true, forall_const, stallMod_hide h_cores, halt_hide h_cores h_host h_log h_outbox h_regs h_regs2, raise_hide h_log h_regs, complete_hide h_cores h_free h_host h_log h_outbox h_regs h_regs2, drainWrite_hide h_log h_mem h_regs, h_cores, h_free, h_host, h_log, h_mem, h_outbox, h_regs, h_regs2]; (repeat' (first | (simp only [hide_ite, ite_self, implies_true, forall_const, stallMod_hide h_cores, halt_hide h_cores h_host h_log h_outbox h_regs h_regs2, raise_hide h_log h_regs, complete_hide h_cores h_free h_host h_log h_outbox h_regs h_regs2, drainWrite_hide h_log h_mem h_regs, h_cores, h_free, h_host, h_log, h_mem, h_outbox, h_regs, h_regs2]; done) | split | dsimp only))

theorem chainHalt_hide {L : List Part} (h_cores : Part.cores ∈ L) (h_host : Part.host ∈ L) (h_log : Part.log ∈ L) (h_outbox : Part.outbox ∈ L) (h_regs : Part.regs ∈ L) (h_regs2 : Part.regs2 ∈ L) (n : Nat) (q : Q) (sn : Nat) (code : W16) (s : State) :
    hide L (chainHalt n q sn code s) = hide L s := by
  unfold chainHalt
  simp only [halt_hide h_cores h_host h_log h_outbox h_regs h_regs2, raise_hide h_log h_regs]

theorem trgBody_hide {L : List Part} (h_cores : Part.cores ∈ L) (h_host : Part.host ∈ L) (h_log : Part.log ∈ L) (h_outbox : Part.outbox ∈ L) (h_regs : Part.regs ∈ L) (h_regs2 : Part.regs2 ∈ L) (n : Nat) (q : Q) (e : Ent) (s : State) :
    hide L (trgBody n q e s) = hide L s := by
  unfold trgBody
  simp only [hide_ite, ite_self, implies_true, forall_const, chainHalt_hide h_cores h_host h_log h_outbox h_regs h_regs2, halt_hide h_cores h_host h_log h_outbox h_regs h_regs2, coreMod_hide h_cores, grantTake_hide h_cores, takeIssue_hide h_cores h_regs, h_cores, h_host, h_log, h_outbox, h_regs, h_regs2]; (repeat' (first | (simp only [hide_ite, ite_self, implies_true, forall_const, chainHalt_hide h_cores h_host h_log h_outbox h_regs h_regs2, halt_hide h_cores h_host h_log h_outbox h_regs h_regs2, coreMod_hide h_cores, grantTake_hide h_cores, takeIssue_hide h_cores h_regs, h_cores, h_host, h_log, h_outbox, h_regs, h_regs2]; done) | split | dsimp only))

theorem issueTrg_hide {L : List Part} (h_cores : Part.cores ∈ L) (h_host : Part.host ∈ L) (h_log : Part.log ∈ L) (h_outbox : Part.outbox ∈ L) (h_regs : Part.regs ∈ L) (h_regs2 : Part.regs2 ∈ L) (n : Nat) (q : Q) (i : Nat) (s : State) :
    hide L (issueTrg n q i s) = hide L s := by
  unfold issueTrg
  apply issueWith_hide <;> first | assumption | (intros; simp only [hide_ite, ite_self, implies_true, forall_const, issueWith_hide h_cores h_host h_log h_outbox h_regs h_regs2, trgBody_hide h_cores h_host h_log h_outbox h_regs h_regs2, h_cores, h_host, h_log, h_outbox, h_regs, h_regs2]; done) | (intros; (repeat' (first | (simp only [hide_ite, ite_self, implies_true, forall_const, issueWith_hide h_cores h_host h_log h_outbox h_regs h_regs2, trgBody_hide h_cores h_host h_log h_outbox h_regs h_regs2, h_cores, h_host, h_log, h_outbox, h_regs, h_regs2]; done) | split | dsimp only)); done)

theorem troughChainStart_hide {L : List Part} (h_cores : Part.cores ∈ L) (n : Nat) (s : State) :
    hide L (troughChainStart n s) = hide L s := by
  unfold troughChainStart
  simp only [hide_ite, ite_self, implies_true, forall_const, coreSet_hide h_cores, h_cores]; (repeat' (first | (simp only [hide_ite, ite_self, implies_true, forall_const, coreSet_hide h_cores, h_cores]; done) | split | dsimp only))

theorem memberWrite_hide {L : List Part} (h_mem : Part.mem ∈ L) (n g : Nat) (outs : List MOut) (tags : Nat → W16) (o : MOut) (s : State) :
    hide L (memberWrite n g outs tags o s) = hide L s := by
  unfold memberWrite
  simp only [hide_ite, ite_self, memWrite_hide h_mem, sideStamp_hide h_mem]

theorem scaleWrite_hide {L : List Part} (h_mem : Part.mem ∈ L) (n : Nat) (r : RedSet) (f : TrgF) (s : State) :
    hide L (scaleWrite n r f s) = hide L s := by
  unfold scaleWrite
  simp only [hide_ite, ite_self, memWrite_hide h_mem]

theorem cvtdRecord_hide {L : List Part} (h_cores : Part.cores ∈ L) (n : Nat) (o : MOut) (s : State) :
    hide L (cvtdRecord n o s) = hide L s := by
  unfold cvtdRecord
  simp only [hide_ite, ite_self, coreMod_hide h_cores]

theorem convStat_hide {L : List Part} (h_regs : Part.regs ∈ L) (n g : Nat) (o : MOut) (s : State) :
    hide L (convStat n g o s) = hide L s := by
  unfold convStat
  simp only [hide_ite, ite_self, reg64Set_hide h_regs, regAdd64_hide h_regs, regAdd_hide h_regs]

theorem chainEffects_hide {L : List Part} (h_cores : Part.cores ∈ L) (h_log : Part.log ∈ L) (h_mem : Part.mem ∈ L) (h_regs : Part.regs ∈ L) (n : Nat) (q : Q) (g : Nat) (outs : List MOut) (s : State) :
    hide L (chainEffects n q g outs s) = hide L s := by
  unfold chainEffects
  simp only [hide_ite, ite_self, implies_true, memberWrite_hide h_mem, coreMod_hide h_cores, convStat_hide h_regs, raise_hide h_log h_regs, regAdd64_hide h_regs, hide_foldl]

theorem chainDrop_hide {L : List Part} (h_cores : Part.cores ∈ L) (n : Nat) (ch : Chain) (s : State) :
    hide L (chainDrop n ch s) = hide L s := by
  unfold chainDrop
  simp only [coreMod_hide h_cores]

theorem membersFail_hide {L : List Part} (h_cores : Part.cores ∈ L) (n : Nat) (ch : Chain) (s : State) :
    hide L (membersFail n ch s) = hide L s := by
  unfold membersFail
  simp only [implies_true, entMod_hide h_cores, hide_foldl]

theorem chainCorrected_hide {L : List Part} (h_log : Part.log ∈ L) (h_mem : Part.mem ∈ L) (h_regs : Part.regs ∈ L) (n g : Nat) (ms : List Member) (s : State) :
    hide L (chainCorrected n g ms s) = hide L s := by
  unfold chainCorrected
  simp only [implies_true, readCorrected_hide h_log h_mem h_regs, hide_foldl]

theorem chainRunAll_hide {L : List Part} (h_cores : Part.cores ∈ L) (h_free : Part.free ∈ L) (h_host : Part.host ∈ L) (h_log : Part.log ∈ L) (h_mem : Part.mem ∈ L) (h_outbox : Part.outbox ∈ L) (h_regs : Part.regs ∈ L) (h_regs2 : Part.regs2 ∈ L) (n : Nat) (ch : Chain) (r : RedSet) (s : State) :
    hide L (chainRunAll n ch r s) = hide L s := by
  unfold chainRunAll
  simp only [hide_ite, ite_self, implies_true, forall_const, chainEffects_hide h_cores h_log h_mem h_regs, chainCorrected_hide h_log h_mem h_regs, raise_hide h_log h_regs, regAdd_hide h_regs, chainDrop_hide h_cores, membersFail_hide h_cores, halt_hide h_cores h_host h_log h_outbox h_regs h_regs2, scaleWrite_hide h_mem, cvtdRecord_hide h_cores, complete_hide h_cores h_free h_host h_log h_outbox h_regs h_regs2, h_cores, h_free, h_host, h_log, h_mem, h_outbox, h_regs, h_regs2, hide_foldl, hide_foldl_fst, hide_foldl_snd]; (repeat' (first | (simp only [hide_ite, ite_self, implies_true, forall_const, chainEffects_hide h_cores h_log h_mem h_regs, chainCorrected_hide h_log h_mem h_regs, raise_hide h_log h_regs, regAdd_hide h_regs, chainDrop_hide h_cores, membersFail_hide h_cores, halt_hide h_cores h_host h_log h_outbox h_regs h_regs2, scaleWrite_hide h_mem, cvtdRecord_hide h_cores, complete_hide h_cores h_free h_host h_log h_outbox h_regs h_regs2, h_cores, h_free, h_host, h_log, h_mem, h_outbox, h_regs, h_regs2, hide_foldl, hide_foldl_fst, hide_foldl_snd]; done) | split | dsimp only))

theorem troughChainComplete_hide {L : List Part} (h_cores : Part.cores ∈ L) (h_free : Part.free ∈ L) (h_host : Part.host ∈ L) (h_log : Part.log ∈ L) (h_mem : Part.mem ∈ L) (h_outbox : Part.outbox ∈ L) (h_regs : Part.regs ∈ L) (h_regs2 : Part.regs2 ∈ L) (n k : Nat) (s : State) :
    hide L (troughChainComplete n k s) = hide L s := by
  unfold troughChainComplete
  simp only [hide_ite, ite_self, implies_true, forall_const, chainRunAll_hide h_cores h_free h_host h_log h_mem h_outbox h_regs h_regs2, h_cores, h_free, h_host, h_log, h_mem, h_outbox, h_regs, h_regs2]; (repeat' (first | (simp only [hide_ite, ite_self, implies_true, forall_const, chainRunAll_hide h_cores h_free h_host h_log h_mem h_outbox h_regs h_regs2, h_cores, h_free, h_host, h_log, h_mem, h_outbox, h_regs, h_regs2]; done) | split | dsimp only))

theorem rflushBody_hide {L : List Part} (h_cores : Part.cores ∈ L) (h_regs : Part.regs ∈ L) (n : Nat) (q : Q) (e : Ent) (s : State) :
    hide L (rflushBody n q e s) = hide L s := by
  unfold rflushBody
  simp only [hide_ite, ite_self, implies_true, forall_const, coreMod_hide h_cores, grantTake_hide h_cores, takeIssue_hide h_cores h_regs, h_cores, h_regs]; (repeat' (first | (simp only [hide_ite, ite_self, implies_true, forall_const, coreMod_hide h_cores, grantTake_hide h_cores, takeIssue_hide h_cores h_regs, h_cores, h_regs]; done) | split | dsimp only))

theorem issueRflush_hide {L : List Part} (h_cores : Part.cores ∈ L) (h_host : Part.host ∈ L) (h_log : Part.log ∈ L) (h_outbox : Part.outbox ∈ L) (h_regs : Part.regs ∈ L) (h_regs2 : Part.regs2 ∈ L) (n : Nat) (q : Q) (i : Nat) (s : State) :
    hide L (issueRflush n q i s) = hide L s := by
  unfold issueRflush
  apply issueWith_hide <;> first | assumption | (intros; simp only [hide_ite, ite_self, implies_true, forall_const, issueWith_hide h_cores h_host h_log h_outbox h_regs h_regs2, rflushBody_hide h_cores h_regs, h_cores, h_host, h_log, h_outbox, h_regs, h_regs2]; done) | (intros; (repeat' (first | (simp only [hide_ite, ite_self, implies_true, forall_const, issueWith_hide h_cores h_host h_log h_outbox h_regs h_regs2, rflushBody_hide h_cores h_regs, h_cores, h_host, h_log, h_outbox, h_regs, h_regs2]; done) | split | dsimp only)); done)

theorem rflushEffect_hide {L : List Part} (h_cores : Part.cores ∈ L) (h_free : Part.free ∈ L) (h_host : Part.host ∈ L) (h_log : Part.log ∈ L) (h_outbox : Part.outbox ∈ L) (h_regs : Part.regs ∈ L) (h_regs2 : Part.regs2 ∈ L) (n : Nat) (q : Q) (s : State) :
    hide L (rflushEffect n q s) = hide L s := by
  unfold rflushEffect
  simp only [hide_ite, ite_self, implies_true, forall_const, complete_hide h_cores h_free h_host h_log h_outbox h_regs h_regs2, coreSet_hide h_cores, h_cores, h_free, h_host, h_log, h_outbox, h_regs, h_regs2]; (repeat' (first | (simp only [hide_ite, ite_self, implies_true, forall_const, complete_hide h_cores h_free h_host h_log h_outbox h_regs h_regs2, coreSet_hide h_cores, h_cores, h_free, h_host, h_log, h_outbox, h_regs, h_regs2]; done) | split | dsimp only))

theorem syncDone_hide {L : List Part} (h_cores : Part.cores ∈ L) (h_free : Part.free ∈ L) (h_host : Part.host ∈ L) (h_log : Part.log ∈ L) (h_outbox : Part.outbox ∈ L) (h_regs : Part.regs ∈ L) (h_regs2 : Part.regs2 ∈ L) (n : Nat) (q : Q) (e : Ent) (s : State) :
    hide L (syncDone n q e s) = hide L s := by
  unfold syncDone
  simp only [complete_hide h_cores h_free h_host h_log h_outbox h_regs h_regs2, takeIssue_hide h_cores h_regs]

theorem issueSync_hide {L : List Part} (h_cores : Part.cores ∈ L) (h_free : Part.free ∈ L) (h_host : Part.host ∈ L) (h_log : Part.log ∈ L) (h_outbox : Part.outbox ∈ L) (h_regs : Part.regs ∈ L) (h_regs2 : Part.regs2 ∈ L) (n : Nat) (q : Q) (i : Nat) (s : State) :
    hide L (issueSync n q i s) = hide L s := by
  unfold issueSync
  apply issueWith_hide <;> first | assumption | (intros; simp only [hide_ite, ite_self, implies_true, forall_const, issueWith_hide h_cores h_host h_log h_outbox h_regs h_regs2, syncDone_hide h_cores h_free h_host h_log h_outbox h_regs h_regs2, h_cores, h_free, h_host, h_log, h_outbox, h_regs, h_regs2]; done) | (intros; (repeat' (first | (simp only [hide_ite, ite_self, implies_true, forall_const, issueWith_hide h_cores h_host h_log h_outbox h_regs h_regs2, syncDone_hide h_cores h_free h_host h_log h_outbox h_regs h_regs2, h_cores, h_free, h_host, h_log, h_outbox, h_regs, h_regs2]; done) | split | dsimp only)); done)

theorem cwaitBody_hide {L : List Part} (h_cores : Part.cores ∈ L) (h_free : Part.free ∈ L) (h_host : Part.host ∈ L) (h_log : Part.log ∈ L) (h_outbox : Part.outbox ∈ L) (h_regs : Part.regs ∈ L) (h_regs2 : Part.regs2 ∈ L) (n : Nat) (q : Q) (e : Ent) (s : State) :
    hide L (cwaitBody n q e s) = hide L s := by
  unfold cwaitBody
  repeat' (first | (simp only [hide_ite, ite_self, implies_true, forall_const, syncDone_hide h_cores h_free h_host h_log h_outbox h_regs h_regs2, haltWait_hide h_cores h_host h_log h_outbox h_regs h_regs2, h_cores, h_free, h_host, h_log, h_outbox, h_regs, h_regs2]; done) | split | dsimp only | intro _ _ | (refine (hide_foldl _ _ _ ?_).trans ?_) | (refine (hide_foldl_snd _ _ _ ?_).trans ?_) | (simp only [hide, h_cores, h_free, h_host, h_log, h_outbox, h_regs, h_regs2, if_true]; done) | (simp only [hide_ite, ite_self, implies_true, forall_const, syncDone_hide h_cores h_free h_host h_log h_outbox h_regs h_regs2, haltWait_hide h_cores h_host h_log h_outbox h_regs h_regs2, h_cores, h_free, h_host, h_log, h_outbox, h_regs, h_regs2]; simp only [hide, h_cores, h_free, h_host, h_log, h_outbox, h_regs, h_regs2, if_true]; done) | simp only [hide_ite, ite_self, implies_true, forall_const, syncDone_hide h_cores h_free h_host h_log h_outbox h_regs h_regs2, haltWait_hide h_cores h_host h_log h_outbox h_regs h_regs2, h_cores, h_free, h_host, h_log, h_outbox, h_regs, h_regs2])

theorem issueCwait_hide {L : List Part} (h_cores : Part.cores ∈ L) (h_free : Part.free ∈ L) (h_host : Part.host ∈ L) (h_log : Part.log ∈ L) (h_outbox : Part.outbox ∈ L) (h_regs : Part.regs ∈ L) (h_regs2 : Part.regs2 ∈ L) (n : Nat) (q : Q) (i : Nat) (s : State) :
    hide L (issueCwait n q i s) = hide L s := by
  unfold issueCwait
  repeat' (first | (simp only [hide_ite, ite_self, implies_true, forall_const, haltWait_hide h_cores h_host h_log h_outbox h_regs h_regs2, cwaitBody_hide h_cores h_free h_host h_log h_outbox h_regs h_regs2, h_cores, h_free, h_host, h_log, h_outbox, h_regs, h_regs2]; done) | split | dsimp only | intro _ _ | (refine (hide_foldl _ _ _ ?_).trans ?_) | (refine (hide_foldl_snd _ _ _ ?_).trans ?_) | (simp only [hide, h_cores, h_free, h_host, h_log, h_outbox, h_regs, h_regs2, if_true]; done) | (simp only [hide_ite, ite_self, implies_true, forall_const, haltWait_hide h_cores h_host h_log h_outbox h_regs h_regs2, cwaitBody_hide h_cores h_free h_host h_log h_outbox h_regs h_regs2, h_cores, h_free, h_host, h_log, h_outbox, h_regs, h_regs2]; simp only [hide, h_cores, h_free, h_host, h_log, h_outbox, h_regs, h_regs2, if_true]; done) | simp only [hide_ite, ite_self, implies_true, forall_const, haltWait_hide h_cores h_host h_log h_outbox h_regs h_regs2, cwaitBody_hide h_cores h_free h_host h_log h_outbox h_regs h_regs2, h_cores, h_free, h_host, h_log, h_outbox, h_regs, h_regs2])

theorem cresetBody_hide {L : List Part} (h_cores : Part.cores ∈ L) (h_free : Part.free ∈ L) (h_host : Part.host ∈ L) (h_log : Part.log ∈ L) (h_outbox : Part.outbox ∈ L) (h_regs : Part.regs ∈ L) (h_regs2 : Part.regs2 ∈ L) (n : Nat) (q : Q) (e : Ent) (s : State) :
    hide L (cresetBody n q e s) = hide L s := by
  unfold cresetBody
  simp only [hide_ite, ite_self, implies_true, forall_const, halt_hide h_cores h_host h_log h_outbox h_regs h_regs2, takeIssue_hide h_cores h_regs, complete_hide h_cores h_free h_host h_log h_outbox h_regs h_regs2, coreMod_hide h_cores, h_cores, h_free, h_host, h_log, h_outbox, h_regs, h_regs2]; (repeat' (first | (simp only [hide_ite, ite_self, implies_true, forall_const, halt_hide h_cores h_host h_log h_outbox h_regs h_regs2, takeIssue_hide h_cores h_regs, complete_hide h_cores h_free h_host h_log h_outbox h_regs h_regs2, coreMod_hide h_cores, h_cores, h_free, h_host, h_log, h_outbox, h_regs, h_regs2]; done) | split | dsimp only))

theorem issueCreset_hide {L : List Part} (h_cores : Part.cores ∈ L) (h_free : Part.free ∈ L) (h_host : Part.host ∈ L) (h_log : Part.log ∈ L) (h_outbox : Part.outbox ∈ L) (h_regs : Part.regs ∈ L) (h_regs2 : Part.regs2 ∈ L) (n : Nat) (q : Q) (i : Nat) (s : State) :
    hide L (issueCreset n q i s) = hide L s := by
  unfold issueCreset
  apply issueWith_hide <;> first | assumption | (intros; simp only [hide_ite, ite_self, implies_true, forall_const, issueWith_hide h_cores h_host h_log h_outbox h_regs h_regs2, cresetBody_hide h_cores h_free h_host h_log h_outbox h_regs h_regs2, h_cores, h_free, h_host, h_log, h_outbox, h_regs, h_regs2]; done) | (intros; (repeat' (first | (simp only [hide_ite, ite_self, implies_true, forall_const, issueWith_hide h_cores h_host h_log h_outbox h_regs h_regs2, cresetBody_hide h_cores h_free h_host h_log h_outbox h_regs h_regs2, h_cores, h_free, h_host, h_log, h_outbox, h_regs, h_regs2]; done) | split | dsimp only)); done)

theorem carmBody_hide {L : List Part} (h_cores : Part.cores ∈ L) (h_free : Part.free ∈ L) (h_host : Part.host ∈ L) (h_log : Part.log ∈ L) (h_outbox : Part.outbox ∈ L) (h_regs : Part.regs ∈ L) (h_regs2 : Part.regs2 ∈ L) (n : Nat) (q : Q) (e : Ent) (s : State) :
    hide L (carmBody n q e s) = hide L s := by
  unfold carmBody
  repeat' (first | (simp only [hide_ite, ite_self, implies_true, forall_const, halt_hide h_cores h_host h_log h_outbox h_regs h_regs2, syncDone_hide h_cores h_free h_host h_log h_outbox h_regs h_regs2, coreMod_hide h_cores, h_cores, h_free, h_host, h_log, h_outbox, h_regs, h_regs2]; done) | split | dsimp only | intro _ _ | (refine (hide_foldl _ _ _ ?_).trans ?_) | (refine (hide_foldl_snd _ _ _ ?_).trans ?_) | (simp only [hide, h_cores, h_free, h_host, h_log, h_outbox, h_regs, h_regs2, if_true]; done) | (simp only [hide_ite, ite_self, implies_true, forall_const, halt_hide h_cores h_host h_log h_outbox h_regs h_regs2, syncDone_hide h_cores h_free h_host h_log h_outbox h_regs h_regs2, coreMod_hide h_cores, h_cores, h_free, h_host, h_log, h_outbox, h_regs, h_regs2]; simp only [hide, h_cores, h_free, h_host, h_log, h_outbox, h_regs, h_regs2, if_true]; done) | simp only [hide_ite, ite_self, implies_true, forall_const, halt_hide h_cores h_host h_log h_outbox h_regs h_regs2, syncDone_hide h_cores h_free h_host h_log h_outbox h_regs h_regs2, coreMod_hide h_cores, h_cores, h_free, h_host, h_log, h_outbox, h_regs, h_regs2])

theorem issueCarm_hide {L : List Part} (h_cores : Part.cores ∈ L) (h_free : Part.free ∈ L) (h_host : Part.host ∈ L) (h_log : Part.log ∈ L) (h_outbox : Part.outbox ∈ L) (h_regs : Part.regs ∈ L) (h_regs2 : Part.regs2 ∈ L) (n : Nat) (q : Q) (i : Nat) (s : State) :
    hide L (issueCarm n q i s) = hide L s := by
  unfold issueCarm
  apply issueWith_hide <;> first | assumption | (intros; simp only [hide_ite, ite_self, implies_true, forall_const, issueWith_hide h_cores h_host h_log h_outbox h_regs h_regs2, carmBody_hide h_cores h_free h_host h_log h_outbox h_regs h_regs2, h_cores, h_free, h_host, h_log, h_outbox, h_regs, h_regs2]; done) | (intros; (repeat' (first | (simp only [hide_ite, ite_self, implies_true, forall_const, issueWith_hide h_cores h_host h_log h_outbox h_regs h_regs2, carmBody_hide h_cores h_free h_host h_log h_outbox h_regs h_regs2, h_cores, h_free, h_host, h_log, h_outbox, h_regs, h_regs2]; done) | split | dsimp only)); done)

theorem syncArm_hide {L : List Part} (h_cores : Part.cores ∈ L) (h_host : Part.host ∈ L) (h_log : Part.log ∈ L) (h_outbox : Part.outbox ∈ L) (h_regs : Part.regs ∈ L) (h_regs2 : Part.regs2 ∈ L) (n : Nat) (counter : Fin 256) (value : BitVec 12) (all : Bool) (s : State) :
    hide L (syncArm n counter value all s) = hide L s := by
  unfold syncArm
  simp only [hide_ite, ite_self, refuse_hide h_host h_log h_outbox h_regs h_regs2, regSet_hide h_regs, coreMod_hide h_cores]

theorem flushDo_hide {L : List Part} (h_cores : Part.cores ∈ L) (h_host : Part.host ∈ L) (h_log : Part.log ∈ L) (h_outbox : Part.outbox ∈ L) (h_regs : Part.regs ∈ L) (h_regs2 : Part.regs2 ∈ L) (n : Nat) (q : Q) (s : State) :
    hide L (flushDo n q s) = hide L s := by
  unfold flushDo
  simp only [hide_ite, ite_self, implies_true, coreSet_hide h_cores, raise_hide h_log h_regs, settle_hide h_cores h_host h_log h_outbox h_regs h_regs2, poisonSignal_hide h_cores h_log h_regs, hide_foldl]

theorem flushReq_hide {L : List Part} (h_cores : Part.cores ∈ L) (h_host : Part.host ∈ L) (h_log : Part.log ∈ L) (h_outbox : Part.outbox ∈ L) (h_regs : Part.regs ∈ L) (h_regs2 : Part.regs2 ∈ L) (n : Nat) (q : Q) (s : State) :
    hide L (flushReq n q s) = hide L s := by
  unfold flushReq
  simp only [hide_ite, ite_self, flushDo_hide h_cores h_host h_log h_outbox h_regs h_regs2, refuse_hide h_host h_log h_outbox h_regs h_regs2]

theorem flushF_hide {L : List Part} (h_cores : Part.cores ∈ L) (h_host : Part.host ∈ L) (h_log : Part.log ∈ L) (h_outbox : Part.outbox ∈ L) (h_regs : Part.regs ∈ L) (h_regs2 : Part.regs2 ∈ L) (n : Nat) (s : State) :
    hide L (flushF n s) = hide L s := by
  unfold flushF
  apply hostAct_hide <;> first | assumption | (intros; simp only [hide_ite, ite_self, implies_true, forall_const, hostAct_hide h_host h_log h_outbox h_regs h_regs2, flushReq_hide h_cores h_host h_log h_outbox h_regs h_regs2, h_cores, h_host, h_log, h_outbox, h_regs, h_regs2]; done) | (intros; (repeat' (first | (simp only [hide_ite, ite_self, implies_true, forall_const, hostAct_hide h_host h_log h_outbox h_regs h_regs2, flushReq_hide h_cores h_host h_log h_outbox h_regs h_regs2, h_cores, h_host, h_log, h_outbox, h_regs, h_regs2]; done) | split | dsimp only)); done)

theorem flushB_hide {L : List Part} (h_cores : Part.cores ∈ L) (h_host : Part.host ∈ L) (h_log : Part.log ∈ L) (h_outbox : Part.outbox ∈ L) (h_regs : Part.regs ∈ L) (h_regs2 : Part.regs2 ∈ L) (n : Nat) (s : State) :
    hide L (flushB n s) = hide L s := by
  unfold flushB
  apply hostAct_hide <;> first | assumption | (intros; simp only [hide_ite, ite_self, implies_true, forall_const, hostAct_hide h_host h_log h_outbox h_regs h_regs2, flushReq_hide h_cores h_host h_log h_outbox h_regs h_regs2, h_cores, h_host, h_log, h_outbox, h_regs, h_regs2]; done) | (intros; (repeat' (first | (simp only [hide_ite, ite_self, implies_true, forall_const, hostAct_hide h_host h_log h_outbox h_regs h_regs2, flushReq_hide h_cores h_host h_log h_outbox h_regs h_regs2, h_cores, h_host, h_log, h_outbox, h_regs, h_regs2]; done) | split | dsimp only)); done)

theorem flushW_hide {L : List Part} (h_cores : Part.cores ∈ L) (h_host : Part.host ∈ L) (h_log : Part.log ∈ L) (h_outbox : Part.outbox ∈ L) (h_regs : Part.regs ∈ L) (h_regs2 : Part.regs2 ∈ L) (n : Nat) (s : State) :
    hide L (flushW n s) = hide L s := by
  unfold flushW
  apply hostAct_hide <;> first | assumption | (intros; simp only [hide_ite, ite_self, implies_true, forall_const, hostAct_hide h_host h_log h_outbox h_regs h_regs2, flushReq_hide h_cores h_host h_log h_outbox h_regs h_regs2, h_cores, h_host, h_log, h_outbox, h_regs, h_regs2]; done) | (intros; (repeat' (first | (simp only [hide_ite, ite_self, implies_true, forall_const, hostAct_hide h_host h_log h_outbox h_regs h_regs2, flushReq_hide h_cores h_host h_log h_outbox h_regs h_regs2, h_cores, h_host, h_log, h_outbox, h_regs, h_regs2]; done) | split | dsimp only)); done)

theorem flushX_hide {L : List Part} (h_cores : Part.cores ∈ L) (h_host : Part.host ∈ L) (h_log : Part.log ∈ L) (h_outbox : Part.outbox ∈ L) (h_regs : Part.regs ∈ L) (h_regs2 : Part.regs2 ∈ L) (n : Nat) (s : State) :
    hide L (flushX n s) = hide L s := by
  unfold flushX
  apply hostAct_hide <;> first | assumption | (intros; simp only [hide_ite, ite_self, implies_true, forall_const, hostAct_hide h_host h_log h_outbox h_regs h_regs2, flushReq_hide h_cores h_host h_log h_outbox h_regs h_regs2, h_cores, h_host, h_log, h_outbox, h_regs, h_regs2]; done) | (intros; (repeat' (first | (simp only [hide_ite, ite_self, implies_true, forall_const, hostAct_hide h_host h_log h_outbox h_regs h_regs2, flushReq_hide h_cores h_host h_log h_outbox h_regs h_regs2, h_cores, h_host, h_log, h_outbox, h_regs, h_regs2]; done) | split | dsimp only)); done)

theorem flushDone_hide {L : List Part} (h_cores : Part.cores ∈ L) (h_host : Part.host ∈ L) (h_log : Part.log ∈ L) (h_outbox : Part.outbox ∈ L) (h_regs : Part.regs ∈ L) (h_regs2 : Part.regs2 ∈ L) (n : Nat) (q : Q) (s : State) :
    hide L (flushDone n q s) = hide L s := by
  unfold flushDone
  simp only [hide_ite, ite_self, implies_true, queueMod_hide h_cores, settle_hide h_cores h_host h_log h_outbox h_regs h_regs2, poisonSignal_hide h_cores h_log h_regs, hide_foldl]

theorem coreRunReq_hide {L : List Part} (h_host : Part.host ∈ L) (h_log : Part.log ∈ L) (h_outbox : Part.outbox ∈ L) (h_regs : Part.regs ∈ L) (h_regs2 : Part.regs2 ∈ L) (n : Nat) (v : Bool) (s : State) :
    hide L (coreRunReq n v s) = hide L s := by
  unfold coreRunReq
  simp only [hide_ite, ite_self, refuse_hide h_host h_log h_outbox h_regs h_regs2, rfSet_hide h_regs]

theorem coreRun_hide {L : List Part} (h_host : Part.host ∈ L) (h_log : Part.log ∈ L) (h_outbox : Part.outbox ∈ L) (h_regs : Part.regs ∈ L) (h_regs2 : Part.regs2 ∈ L) (n : Nat) (v : Bool) (s : State) :
    hide L (coreRun n v s) = hide L s := by
  unfold coreRun
  apply hostWrite_hide <;> first | assumption | (intros; simp only [hide_ite, ite_self, implies_true, forall_const, hostWrite_hide h_host h_log h_outbox h_regs h_regs2, coreRunReq_hide h_host h_log h_outbox h_regs h_regs2, h_host, h_log, h_outbox, h_regs, h_regs2]; done) | (intros; (repeat' (first | (simp only [hide_ite, ite_self, implies_true, forall_const, hostWrite_hide h_host h_log h_outbox h_regs h_regs2, coreRunReq_hide h_host h_log h_outbox h_regs h_regs2, h_host, h_log, h_outbox, h_regs, h_regs2]; done) | split | dsimp only)); done)

theorem ctxRunReq_hide {L : List Part} (h_cores : Part.cores ∈ L) (h_host : Part.host ∈ L) (h_log : Part.log ∈ L) (h_outbox : Part.outbox ∈ L) (h_regs : Part.regs ∈ L) (h_regs2 : Part.regs2 ∈ L) (n : Nat) (x : Ctx) (v : Bool) (s : State) :
    hide L (ctxRunReq n x v s) = hide L s := by
  unfold ctxRunReq
  simp only [hide_ite, ite_self, refuse_hide h_host h_log h_outbox h_regs h_regs2, ostlerRun_hide h_cores h_regs]

theorem ostlerRunP_hide {L : List Part} (h_cores : Part.cores ∈ L) (h_host : Part.host ∈ L) (h_log : Part.log ∈ L) (h_outbox : Part.outbox ∈ L) (h_regs : Part.regs ∈ L) (h_regs2 : Part.regs2 ∈ L) (n : Nat) (v : Bool) (s : State) :
    hide L (ostlerRunP n v s) = hide L s := by
  unfold ostlerRunP
  apply hostWrite_hide <;> first | assumption | (intros; simp only [hide_ite, ite_self, implies_true, forall_const, hostWrite_hide h_host h_log h_outbox h_regs h_regs2, ctxRunReq_hide h_cores h_host h_log h_outbox h_regs h_regs2, h_cores, h_host, h_log, h_outbox, h_regs, h_regs2]; done) | (intros; (repeat' (first | (simp only [hide_ite, ite_self, implies_true, forall_const, hostWrite_hide h_host h_log h_outbox h_regs h_regs2, ctxRunReq_hide h_cores h_host h_log h_outbox h_regs h_regs2, h_cores, h_host, h_log, h_outbox, h_regs, h_regs2]; done) | split | dsimp only)); done)

theorem ostlerRunX_hide {L : List Part} (h_cores : Part.cores ∈ L) (h_host : Part.host ∈ L) (h_log : Part.log ∈ L) (h_outbox : Part.outbox ∈ L) (h_regs : Part.regs ∈ L) (h_regs2 : Part.regs2 ∈ L) (n : Nat) (v : Bool) (s : State) :
    hide L (ostlerRunX n v s) = hide L s := by
  unfold ostlerRunX
  apply hostWrite_hide <;> first | assumption | (intros; simp only [hide_ite, ite_self, implies_true, forall_const, hostWrite_hide h_host h_log h_outbox h_regs h_regs2, ctxRunReq_hide h_cores h_host h_log h_outbox h_regs h_regs2, h_cores, h_host, h_log, h_outbox, h_regs, h_regs2]; done) | (intros; (repeat' (first | (simp only [hide_ite, ite_self, implies_true, forall_const, hostWrite_hide h_host h_log h_outbox h_regs h_regs2, ctxRunReq_hide h_cores h_host h_log h_outbox h_regs h_regs2, h_cores, h_host, h_log, h_outbox, h_regs, h_regs2]; done) | split | dsimp only)); done)

theorem streamHang_hide {L : List Part} (h_cores : Part.cores ∈ L) (h_host : Part.host ∈ L) (h_log : Part.log ∈ L) (h_outbox : Part.outbox ∈ L) (h_regs : Part.regs ∈ L) (h_regs2 : Part.regs2 ∈ L) (n : Nat) (s : State) :
    hide L (streamHang n s) = hide L s := by
  unfold streamHang
  simp only [hide_ite, ite_self, coreRaise_hide h_cores h_log h_regs, record_hide h_host h_log h_outbox h_regs h_regs2]

theorem lockPeakSet_hide {L : List Part} (h_regs : Part.regs ∈ L) (n : Nat) (s : State) :
    hide L (lockPeakSet n s) = hide L s := by
  unfold lockPeakSet
  simp only [rfSet_hide h_regs]

theorem lockPeakClr_hide {L : List Part} (h_host : Part.host ∈ L) (h_log : Part.log ∈ L) (h_outbox : Part.outbox ∈ L) (h_regs : Part.regs ∈ L) (h_regs2 : Part.regs2 ∈ L) (n : Nat) (s : State) :
    hide L (lockPeakClr n s) = hide L s := by
  unfold lockPeakClr
  apply hostAct_hide <;> first | assumption | (intros; simp only [hide_ite, ite_self, implies_true, forall_const, hostAct_hide h_host h_log h_outbox h_regs h_regs2, lockPeakSet_hide h_regs, h_host, h_log, h_outbox, h_regs, h_regs2]; done) | (intros; (repeat' (first | (simp only [hide_ite, ite_self, implies_true, forall_const, hostAct_hide h_host h_log h_outbox h_regs h_regs2, lockPeakSet_hide h_regs, h_host, h_log, h_outbox, h_regs, h_regs2]; done) | split | dsimp only)); done)

theorem convZero_hide {L : List Part} (h_regs : Part.regs ∈ L) (n : Nat) (s : State) :
    hide L (convZero n s) = hide L s := by
  unfold convZero
  simp only [implies_true, regSet_hide h_regs, hide_foldl]

theorem convStatClear_hide {L : List Part} (h_host : Part.host ∈ L) (h_log : Part.log ∈ L) (h_outbox : Part.outbox ∈ L) (h_regs : Part.regs ∈ L) (h_regs2 : Part.regs2 ∈ L) (n : Nat) (s : State) :
    hide L (convStatClear n s) = hide L s := by
  unfold convStatClear
  apply hostAct_hide <;> first | assumption | (intros; simp only [hide_ite, ite_self, implies_true, forall_const, hostAct_hide h_host h_log h_outbox h_regs h_regs2, convZero_hide h_regs, h_host, h_log, h_outbox, h_regs, h_regs2]; done) | (intros; (repeat' (first | (simp only [hide_ite, ite_self, implies_true, forall_const, hostAct_hide h_host h_log h_outbox h_regs h_regs2, convZero_hide h_regs, h_host, h_log, h_outbox, h_regs, h_regs2]; done) | split | dsimp only)); done)

theorem syncArmCmd_hide {L : List Part} (h_cores : Part.cores ∈ L) (h_host : Part.host ∈ L) (h_log : Part.log ∈ L) (h_outbox : Part.outbox ∈ L) (h_regs : Part.regs ∈ L) (h_regs2 : Part.regs2 ∈ L) (n : Nat) (counter : Fin 256) (value : BitVec 12) (all : Bool) (s : State) :
    hide L (syncArmCmd n counter value all s) = hide L s := by
  unfold syncArmCmd
  apply hostAct_hide <;> first | assumption | (intros; simp only [hide_ite, ite_self, implies_true, forall_const, hostAct_hide h_host h_log h_outbox h_regs h_regs2, syncArm_hide h_cores h_host h_log h_outbox h_regs h_regs2, h_cores, h_host, h_log, h_outbox, h_regs, h_regs2]; done) | (intros; (repeat' (first | (simp only [hide_ite, ite_self, implies_true, forall_const, hostAct_hide h_host h_log h_outbox h_regs h_regs2, syncArm_hide h_cores h_host h_log h_outbox h_regs h_regs2, h_cores, h_host, h_log, h_outbox, h_regs, h_regs2]; done) | split | dsimp only)); done)

theorem copyRead_hide {L : List Part} (h_log : Part.log ∈ L) (h_mem : Part.mem ∈ L) (h_regs : Part.regs ∈ L) (n : Nat) (f : CopyF) (d : Dsc) (s : State) :
    hide L (copyRead n f d s).2 = hide L s := by
  unfold copyRead
  simp only [hide_ite, ite_self, implies_true, forall_const, readErrors_hide h_log h_mem h_regs, metaAccess_hide h_log h_mem h_regs, hbmAccess_hide h_log h_mem h_regs, h_log, h_mem, h_regs]; (repeat' (first | (simp only [hide_ite, ite_self, implies_true, forall_const, readErrors_hide h_log h_mem h_regs, metaAccess_hide h_log h_mem h_regs, hbmAccess_hide h_log h_mem h_regs, h_log, h_mem, h_regs]; done) | split | dsimp only))

theorem copySend_hide {L : List Part} (h_ckpt : Part.ckpt ∈ L) (h_cores : Part.cores ∈ L) (h_fab : Part.fab ∈ L) (h_free : Part.free ∈ L) (h_grooms : Part.grooms ∈ L) (h_host : Part.host ∈ L) (h_log : Part.log ∈ L) (h_mem : Part.mem ∈ L) (h_outbox : Part.outbox ∈ L) (h_regs : Part.regs ∈ L) (h_regs2 : Part.regs2 ∈ L) (n : Nat) (q : Q) (sn : Nat) (f : CopyF) (csum : Bool) (barrow slot : Nat) (r : SrcRead) (s : State) :
    hide L (copySend n q sn f csum barrow slot r s) = hide L s := by
  unfold copySend
  simp only [implies_true, pumpAll_hide h_fab h_outbox h_regs, spaceSend_hide h_ckpt h_cores h_fab h_free h_grooms h_host h_log h_mem h_outbox h_regs h_regs2, hide_foldl]

theorem copyFetch_hide {L : List Part} (h_ckpt : Part.ckpt ∈ L) (h_cores : Part.cores ∈ L) (h_fab : Part.fab ∈ L) (h_free : Part.free ∈ L) (h_grooms : Part.grooms ∈ L) (h_host : Part.host ∈ L) (h_log : Part.log ∈ L) (h_mem : Part.mem ∈ L) (h_outbox : Part.outbox ∈ L) (h_regs : Part.regs ∈ L) (h_regs2 : Part.regs2 ∈ L) (n b : Nat) (x : Copy) (s : State) :
    hide L (copyFetch n b x s) = hide L s := by
  unfold copyFetch
  simp only [hide_ite, ite_self, implies_true, forall_const, copyFault_hide h_cores h_fab h_host h_log h_outbox h_regs h_regs2, copyRead_hide h_log h_mem h_regs, coreMod_hide h_cores, copySend_hide h_ckpt h_cores h_fab h_free h_grooms h_host h_log h_mem h_outbox h_regs h_regs2, h_ckpt, h_cores, h_fab, h_free, h_grooms, h_host, h_log, h_mem, h_outbox, h_regs, h_regs2]; (repeat' (first | (simp only [hide_ite, ite_self, implies_true, forall_const, copyFault_hide h_cores h_fab h_host h_log h_outbox h_regs h_regs2, copyRead_hide h_log h_mem h_regs, coreMod_hide h_cores, copySend_hide h_ckpt h_cores h_fab h_free h_grooms h_host h_log h_mem h_outbox h_regs h_regs2, h_ckpt, h_cores, h_fab, h_free, h_grooms, h_host, h_log, h_mem, h_outbox, h_regs, h_regs2]; done) | split | dsimp only))

theorem copyStart_hide {L : List Part} (h_cores : Part.cores ∈ L) (h_regs : Part.regs ∈ L) (n : Nat) (q : Q) (e : Ent) (f : CopyF) (b : Nat) (s : State) :
    hide L (copyStart n q e f b s) = hide L s := by
  unfold copyStart
  simp only [takeIssue_hide h_cores h_regs, coreMod_hide h_cores]

theorem copyBody_hide {L : List Part} (h_cores : Part.cores ∈ L) (h_host : Part.host ∈ L) (h_log : Part.log ∈ L) (h_outbox : Part.outbox ∈ L) (h_regs : Part.regs ∈ L) (h_regs2 : Part.regs2 ∈ L) (n : Nat) (q : Q) (e : Ent) (s : State) :
    hide L (copyBody n q e s) = hide L s := by
  unfold copyBody
  simp only [hide_ite, ite_self, implies_true, forall_const, halt_hide h_cores h_host h_log h_outbox h_regs h_regs2, copyStart_hide h_cores h_regs, grantTake_hide h_cores, h_cores, h_host, h_log, h_outbox, h_regs, h_regs2]; (repeat' (first | (simp only [hide_ite, ite_self, implies_true, forall_const, halt_hide h_cores h_host h_log h_outbox h_regs h_regs2, copyStart_hide h_cores h_regs, grantTake_hide h_cores, h_cores, h_host, h_log, h_outbox, h_regs, h_regs2]; done) | split | dsimp only))

theorem issueCopy_hide {L : List Part} (h_cores : Part.cores ∈ L) (h_host : Part.host ∈ L) (h_log : Part.log ∈ L) (h_outbox : Part.outbox ∈ L) (h_regs : Part.regs ∈ L) (h_regs2 : Part.regs2 ∈ L) (n : Nat) (q : Q) (i : Nat) (s : State) :
    hide L (issueCopy n q i s) = hide L s := by
  unfold issueCopy
  apply issueWith_hide <;> first | assumption | (intros; simp only [hide_ite, ite_self, implies_true, forall_const, issueWith_hide h_cores h_host h_log h_outbox h_regs h_regs2, copyBody_hide h_cores h_host h_log h_outbox h_regs h_regs2, h_cores, h_host, h_log, h_outbox, h_regs, h_regs2]; done) | (intros; (repeat' (first | (simp only [hide_ite, ite_self, implies_true, forall_const, issueWith_hide h_cores h_host h_log h_outbox h_regs h_regs2, copyBody_hide h_cores h_host h_log h_outbox h_regs h_regs2, h_cores, h_host, h_log, h_outbox, h_regs, h_regs2]; done) | split | dsimp only)); done)

theorem copyReadDone_hide {L : List Part} (h_cores : Part.cores ∈ L) (n b : Nat) (x : Copy) (s : State) :
    hide L (copyReadDone n b x s) = hide L s := by
  unfold copyReadDone
  simp only [hide_ite, ite_self, coreMod_hide h_cores, entMod_hide h_cores]

theorem copyLastByteRead_hide {L : List Part} (h_ckpt : Part.ckpt ∈ L) (h_cores : Part.cores ∈ L) (h_fab : Part.fab ∈ L) (h_free : Part.free ∈ L) (h_grooms : Part.grooms ∈ L) (h_host : Part.host ∈ L) (h_log : Part.log ∈ L) (h_mem : Part.mem ∈ L) (h_outbox : Part.outbox ∈ L) (h_regs : Part.regs ∈ L) (h_regs2 : Part.regs2 ∈ L) (n b : Nat) (s : State) :
    hide L (copyLastByteRead n b s) = hide L s := by
  unfold copyLastByteRead
  simp only [hide_ite, ite_self, implies_true, forall_const, copyReadDone_hide h_cores, copyFetch_hide h_ckpt h_cores h_fab h_free h_grooms h_host h_log h_mem h_outbox h_regs h_regs2, h_ckpt, h_cores, h_fab, h_free, h_grooms, h_host, h_log, h_mem, h_outbox, h_regs, h_regs2]; (repeat' (first | (simp only [hide_ite, ite_self, implies_true, forall_const, copyReadDone_hide h_cores, copyFetch_hide h_ckpt h_cores h_fab h_free h_grooms h_host h_log h_mem h_outbox h_regs h_regs2, h_ckpt, h_cores, h_fab, h_free, h_grooms, h_host, h_log, h_mem, h_outbox, h_regs, h_regs2]; done) | split | dsimp only))

theorem scaleLoad_hide {L : List Part} (h_cores : Part.cores ∈ L) (n i : Nat) (col : Bool) (l : List Byte) (s : State) :
    hide L (scaleLoad n i col l s) = hide L s := by
  unfold scaleLoad
  simp only [stallMod_hide h_cores]

theorem copyDeliver_hide {L : List Part} (h_cores : Part.cores ∈ L) (h_free : Part.free ∈ L) (h_grooms : Part.grooms ∈ L) (h_host : Part.host ∈ L) (h_log : Part.log ∈ L) (h_mem : Part.mem ∈ L) (h_outbox : Part.outbox ∈ L) (h_regs : Part.regs ∈ L) (h_regs2 : Part.regs2 ∈ L) (n : Nat) (x : Copy) (s : State) :
    hide L (copyDeliver n x s).2 = hide L s := by
  unfold copyDeliver
  simp only [hide_ite, ite_self, implies_true, forall_const, deliverManger_hide h_log h_mem h_regs, deliverDesc_hide h_log h_mem h_regs, countAdd_hide h_cores h_free h_grooms h_host h_log h_outbox h_regs h_regs2, copyMarks_hide h_cores, scaleLoad_hide h_cores, h_cores, h_free, h_grooms, h_host, h_log, h_mem, h_outbox, h_regs, h_regs2]; (repeat' (first | (simp only [hide_ite, ite_self, implies_true, forall_const, deliverManger_hide h_log h_mem h_regs, deliverDesc_hide h_log h_mem h_regs, countAdd_hide h_cores h_free h_grooms h_host h_log h_outbox h_regs h_regs2, copyMarks_hide h_cores, scaleLoad_hide h_cores, h_cores, h_free, h_grooms, h_host, h_log, h_mem, h_outbox, h_regs, h_regs2]; done) | split | dsimp only))

theorem copyEnd_hide {L : List Part} (h_cores : Part.cores ∈ L) (h_fab : Part.fab ∈ L) (h_free : Part.free ∈ L) (h_host : Part.host ∈ L) (h_log : Part.log ∈ L) (h_outbox : Part.outbox ∈ L) (h_regs : Part.regs ∈ L) (h_regs2 : Part.regs2 ∈ L) (n b : Nat) (x : Copy) (s : State) :
    hide L (copyEnd n b x s) = hide L s := by
  unfold copyEnd
  simp only [rfSet_hide h_regs, barrowDrop_hide h_cores h_fab, complete_hide h_cores h_free h_host h_log h_outbox h_regs h_regs2]

theorem copyComplete_hide {L : List Part} (h_cores : Part.cores ∈ L) (h_fab : Part.fab ∈ L) (h_free : Part.free ∈ L) (h_grooms : Part.grooms ∈ L) (h_host : Part.host ∈ L) (h_log : Part.log ∈ L) (h_mem : Part.mem ∈ L) (h_outbox : Part.outbox ∈ L) (h_regs : Part.regs ∈ L) (h_regs2 : Part.regs2 ∈ L) (n b i : Nat) (s : State) :
    hide L (copyComplete n b i s) = hide L s := by
  unfold copyComplete
  simp only [hide_ite, ite_self, implies_true, forall_const, copyEnd_hide h_cores h_fab h_free h_host h_log h_outbox h_regs h_regs2, copyFault_hide h_cores h_fab h_host h_log h_outbox h_regs h_regs2, copyDeliver_hide h_cores h_free h_grooms h_host h_log h_mem h_outbox h_regs h_regs2, h_cores, h_fab, h_free, h_grooms, h_host, h_log, h_mem, h_outbox, h_regs, h_regs2]; (repeat' (first | (simp only [hide_ite, ite_self, implies_true, forall_const, copyEnd_hide h_cores h_fab h_free h_host h_log h_outbox h_regs h_regs2, copyFault_hide h_cores h_fab h_host h_log h_outbox h_regs h_regs2, copyDeliver_hide h_cores h_free h_grooms h_host h_log h_mem h_outbox h_regs h_regs2, h_cores, h_fab, h_free, h_grooms, h_host, h_log, h_mem, h_outbox, h_regs, h_regs2]; done) | split | dsimp only))

end Sys2Proof.Machine
end

