-- ==== Sys2Proof/Laws/FramesMemory.lean ====
section
/-!
SUPPORT. Collective entries, memory side, Grooms and register accesses: what each operation leaves alone. `f_hide` says that `f` changes the parts
named in its hypotheses at most.
-/
namespace Sys2Proof.Machine

set_option linter.unusedSimpArgs false
set_option linter.unusedTactic false
set_option linter.unreachableTactic false

theorem collSet_hide {L : List Part} (h_fab : Part.fab ∈ L) (e o v : Nat) (s : State) :
    hide L (collSet e o v s) = hide L s := by
  unfold collSet
  simp only [hide_fab h_fab]

theorem collArm_hide {L : List Part} (h_fab : Part.fab ∈ L) (e : Nat) (s : State) :
    hide L (collArm e s) = hide L s := by
  unfold collArm
  simp only [hide_fab h_fab]

theorem collArmAll_hide {L : List Part} (h_fab : Part.fab ∈ L) (s : State) :
    hide L (collArmAll s) = hide L s := by
  unfold collArmAll
  simp only [hide_ite, ite_self, implies_true, collArm_hide h_fab, hide_foldl]

theorem collEntryValidate_hide {L : List Part} (h_fab : Part.fab ∈ L) (h_host : Part.host ∈ L) (h_log : Part.log ∈ L) (h_outbox : Part.outbox ∈ L) (h_regs : Part.regs ∈ L) (h_regs2 : Part.regs2 ∈ L) (e core desc : Nat) (s : State) :
    hide L (collEntryValidate e core desc s) = hide L s := by
  unfold collEntryValidate
  simp only [hide_ite, ite_self, refuse_hide h_host h_log h_outbox h_regs h_regs2, collArm_hide h_fab, collSet_hide h_fab, raise_hide h_log h_regs, record_hide h_host h_log h_outbox h_regs h_regs2]

theorem loftSet_hide {L : List Part} (h_mem : Part.mem ∈ L) (h_regs : Part.regs ∈ L) (d : Nat) (v : LoftOp) (s : State) :
    hide L (loftSet d v s) = hide L s := by
  unfold loftSet
  simp only [hide_mem h_mem, rfSet_hide h_regs]

theorem loftChange_hide {L : List Part} (h_host : Part.host ∈ L) (h_log : Part.log ∈ L) (h_mem : Part.mem ∈ L) (h_outbox : Part.outbox ∈ L) (h_regs : Part.regs ∈ L) (h_regs2 : Part.regs2 ∈ L) (d v : Nat) (s : State) :
    hide L (loftChange d v s) = hide L s := by
  unfold loftChange
  simp only [hide_ite, ite_self, refuse_hide h_host h_log h_outbox h_regs h_regs2, loftSet_hide h_mem h_regs, rfSet_hide h_regs]

theorem loftPartitionChange_hide {L : List Part} (h_host : Part.host ∈ L) (h_log : Part.log ∈ L) (h_mem : Part.mem ∈ L) (h_outbox : Part.outbox ∈ L) (h_regs : Part.regs ∈ L) (h_regs2 : Part.regs2 ∈ L) (d v : Nat) (s : State) :
    hide L (loftPartitionChange d v s) = hide L s := by
  unfold loftPartitionChange
  apply hostWrite_hide <;> first | assumption | (intros; simp only [hide_ite, ite_self, implies_true, forall_const, hostWrite_hide h_host h_log h_outbox h_regs h_regs2, loftChange_hide h_host h_log h_mem h_outbox h_regs h_regs2, h_host, h_log, h_mem, h_outbox, h_regs, h_regs2]; done) | (intros; (repeat' (first | (simp only [hide_ite, ite_self, implies_true, forall_const, hostWrite_hide h_host h_log h_outbox h_regs h_regs2, loftChange_hide h_host h_log h_mem h_outbox h_regs h_regs2, h_host, h_log, h_mem, h_outbox, h_regs, h_regs2]; done) | split | dsimp only)); done)

theorem loftPartitionDone_hide {L : List Part} (h_ckpt : Part.ckpt ∈ L) (h_cores : Part.cores ∈ L) (h_fab : Part.fab ∈ L) (h_free : Part.free ∈ L) (h_grooms : Part.grooms ∈ L) (h_host : Part.host ∈ L) (h_log : Part.log ∈ L) (h_mem : Part.mem ∈ L) (h_outbox : Part.outbox ∈ L) (h_regs : Part.regs ∈ L) (h_regs2 : Part.regs2 ∈ L) (d : Nat) (s : State) :
    hide L (loftPartitionDone d s) = hide L s := by
  unfold loftPartitionDone
  simp only [hide_ite, ite_self, implies_true, forall_const, cacheClean_hide h_log h_mem h_regs, rfSet_hide h_regs, memZero_hide h_mem, arrivalsGo_hide h_ckpt h_cores h_fab h_free h_grooms h_host h_log h_mem h_outbox h_regs h_regs2, loftSet_hide h_mem h_regs, h_ckpt, h_cores, h_fab, h_free, h_grooms, h_host, h_log, h_mem, h_outbox, h_regs, h_regs2]; (repeat' (first | (simp only [hide_ite, ite_self, implies_true, forall_const, cacheClean_hide h_log h_mem h_regs, rfSet_hide h_regs, memZero_hide h_mem, arrivalsGo_hide h_ckpt h_cores h_fab h_free h_grooms h_host h_log h_mem h_outbox h_regs h_regs2, loftSet_hide h_mem h_regs, h_ckpt, h_cores, h_fab, h_free, h_grooms, h_host, h_log, h_mem, h_outbox, h_regs, h_regs2]; done) | split | dsimp only))

theorem loftFlushDo_hide {L : List Part} (h_mem : Part.mem ∈ L) (h_regs : Part.regs ∈ L) (d : Nat) (s : State) :
    hide L (loftFlushDo d s) = hide L s := by
  unfold loftFlushDo
  simp only [hide_ite, ite_self, loftSet_hide h_mem h_regs]

theorem loftFlush_hide {L : List Part} (h_host : Part.host ∈ L) (h_log : Part.log ∈ L) (h_mem : Part.mem ∈ L) (h_outbox : Part.outbox ∈ L) (h_regs : Part.regs ∈ L) (h_regs2 : Part.regs2 ∈ L) (d : Nat) (s : State) :
    hide L (loftFlush d s) = hide L s := by
  unfold loftFlush
  apply hostAct_hide <;> first | assumption | (intros; simp only [hide_ite, ite_self, implies_true, forall_const, hostAct_hide h_host h_log h_outbox h_regs h_regs2, loftFlushDo_hide h_mem h_regs, h_host, h_log, h_mem, h_outbox, h_regs, h_regs2]; done) | (intros; (repeat' (first | (simp only [hide_ite, ite_self, implies_true, forall_const, hostAct_hide h_host h_log h_outbox h_regs h_regs2, loftFlushDo_hide h_mem h_regs, h_host, h_log, h_mem, h_outbox, h_regs, h_regs2]; done) | split | dsimp only)); done)

theorem loftFlushDone_hide {L : List Part} (h_log : Part.log ∈ L) (h_mem : Part.mem ∈ L) (h_regs : Part.regs ∈ L) (d : Nat) (s : State) :
    hide L (loftFlushDone d s) = hide L s := by
  unfold loftFlushDone
  simp only [hide_ite, ite_self, loftSet_hide h_mem h_regs, cacheClean_hide h_log h_mem h_regs]

theorem hbmModeSet_hide {L : List Part} (h_regs : Part.regs ∈ L) (k mode : Nat) (s : State) :
    hide L (hbmModeSet k mode s) = hide L s := by
  unfold hbmModeSet
  simp only [rfSet_hide h_regs]

theorem hbmModeWrite_hide {L : List Part} (h_host : Part.host ∈ L) (h_log : Part.log ∈ L) (h_outbox : Part.outbox ∈ L) (h_regs : Part.regs ∈ L) (h_regs2 : Part.regs2 ∈ L) (k mode : Nat) (s : State) :
    hide L (hbmModeWrite k mode s) = hide L s := by
  unfold hbmModeWrite
  apply hostWrite_hide <;> first | assumption | (intros; simp only [hide_ite, ite_self, implies_true, forall_const, hostWrite_hide h_host h_log h_outbox h_regs h_regs2, refuse_hide h_host h_log h_outbox h_regs h_regs2, hbmModeSet_hide h_regs, h_host, h_log, h_outbox, h_regs, h_regs2]; done) | (intros; (repeat' (first | (simp only [hide_ite, ite_self, implies_true, forall_const, hostWrite_hide h_host h_log h_outbox h_regs h_regs2, refuse_hide h_host h_log h_outbox h_regs h_regs2, hbmModeSet_hide h_regs, h_host, h_log, h_outbox, h_regs, h_regs2]; done) | split | dsimp only)); done)

theorem upsetDo_hide {L : List Part} (h_log : Part.log ∈ L) (h_mem : Part.mem ∈ L) (h_regs : Part.regs ∈ L) (u : Upset) (s : State) :
    hide L (upsetDo u s) = hide L s := by
  unfold upsetDo
  simp only [hide_ite, ite_self, implies_true, forall_const, hide_mem h_mem, raise_hide h_log h_regs, h_log, h_mem, h_regs]; (repeat' (first | (simp only [hide_ite, ite_self, implies_true, forall_const, hide_mem h_mem, raise_hide h_log h_regs, h_log, h_mem, h_regs]; done) | split | dsimp only))

theorem scrubHbm_hide {L : List Part} (h_log : Part.log ∈ L) (h_mem : Part.mem ∈ L) (h_regs : Part.regs ∈ L) (x : Nat) (s : State) :
    hide L (scrubHbm x s) = hide L s := by
  unfold scrubHbm
  simp only [hide_ite, ite_self, regAdd64_hide h_regs, cacheAccess_hide h_log h_mem h_regs, riskAdd_hide h_log, hbmUe_hide h_log h_mem h_regs, hbmCe_hide h_log h_mem h_regs]

theorem scrubLoft_hide {L : List Part} (h_log : Part.log ∈ L) (h_mem : Part.mem ∈ L) (h_regs : Part.regs ∈ L) (x : Nat) (s : State) :
    hide L (scrubLoft x s) = hide L s := by
  unfold scrubLoft
  simp only [hide_ite, ite_self, hide_mem h_mem, sramUe_hide h_log h_regs, sramCe_hide h_log h_regs]

theorem patrolScrub_hide {L : List Part} (h_log : Part.log ∈ L) (h_mem : Part.mem ∈ L) (h_regs : Part.regs ∈ L) (t : ScrubTarget) (upsets : List Upset) (s : State) :
    hide L (patrolScrub t upsets s) = hide L s := by
  unfold patrolScrub
  simp only [hide_ite, ite_self, implies_true, forall_const, upsetDo_hide h_log h_mem h_regs, scrubHbm_hide h_log h_mem h_regs, scrubLoft_hide h_log h_mem h_regs, h_log, h_mem, h_regs, hide_foldl, hide_foldl_fst, hide_foldl_snd]; (repeat' (first | (simp only [hide_ite, ite_self, implies_true, forall_const, upsetDo_hide h_log h_mem h_regs, scrubHbm_hide h_log h_mem h_regs, scrubLoft_hide h_log h_mem h_regs, h_log, h_mem, h_regs, hide_foldl, hide_foldl_fst, hide_foldl_snd]; done) | split | dsimp only))

theorem thermReport_hide {L : List Part} (h_log : Part.log ∈ L) (h_regs : Part.regs ∈ L) (k old new : Nat) (s : State) :
    hide L (thermReport k old new s) = hide L s := by
  unfold thermReport
  simp only [hide_ite, ite_self, implies_true, raise_hide h_log h_regs, hide_foldl]

theorem hbmTempSample_hide {L : List Part} (h_ckpt : Part.ckpt ∈ L) (h_cores : Part.cores ∈ L) (h_fab : Part.fab ∈ L) (h_free : Part.free ∈ L) (h_grooms : Part.grooms ∈ L) (h_host : Part.host ∈ L) (h_log : Part.log ∈ L) (h_mem : Part.mem ∈ L) (h_outbox : Part.outbox ∈ L) (h_regs : Part.regs ∈ L) (h_regs2 : Part.regs2 ∈ L) (k t : Nat) (s : State) :
    hide L (hbmTempSample k t s) = hide L s := by
  unfold hbmTempSample
  simp only [hide_ite, ite_self, countOn_hide h_free h_regs, rfSet_hide h_regs, thermReport_hide h_log h_regs, arrivalsGo_hide h_ckpt h_cores h_fab h_free h_grooms h_host h_log h_mem h_outbox h_regs h_regs2]

theorem hbmHaltTimeout_hide {L : List Part} (h_boot : Part.boot ∈ L) (h_cages : Part.cages ∈ L) (h_cfg : Part.cfg ∈ L) (h_ckpt : Part.ckpt ∈ L) (h_cores : Part.cores ∈ L) (h_epoch : Part.epoch ∈ L) (h_exch : Part.exch ∈ L) (h_fab : Part.fab ∈ L) (h_grooms : Part.grooms ∈ L) (h_hitch : Part.hitch ∈ L) (h_host : Part.host ∈ L) (h_job : Part.job ∈ L) (h_latches : Part.latches ∈ L) (h_log : Part.log ∈ L) (h_mem : Part.mem ∈ L) (h_power : Part.power ∈ L) (h_regs : Part.regs ∈ L) (h_regs2 : Part.regs2 ∈ L) (k : Nat) (s : State) :
    hide L (hbmHaltTimeout k s) = hide L s := by
  unfold hbmHaltTimeout
  simp only [hide_ite, ite_self, resetEdge_hide h_boot h_cages h_cfg h_ckpt h_cores h_epoch h_exch h_fab h_grooms h_hitch h_host h_job h_latches h_log h_mem h_power h_regs h_regs2]

theorem hbmPeakSet_hide {L : List Part} (h_regs : Part.regs ∈ L) (k : Nat) (s : State) :
    hide L (hbmPeakSet k s) = hide L s := by
  unfold hbmPeakSet
  simp only [rfSet_hide h_regs]

theorem hbmTempPeakClr_hide {L : List Part} (h_host : Part.host ∈ L) (h_log : Part.log ∈ L) (h_outbox : Part.outbox ∈ L) (h_regs : Part.regs ∈ L) (h_regs2 : Part.regs2 ∈ L) (k : Nat) (s : State) :
    hide L (hbmTempPeakClr k s) = hide L s := by
  unfold hbmTempPeakClr
  apply hostAct_hide <;> first | assumption | (intros; simp only [hide_ite, ite_self, implies_true, forall_const, hostAct_hide h_host h_log h_outbox h_regs h_regs2, hbmPeakSet_hide h_regs, h_host, h_log, h_outbox, h_regs, h_regs2]; done) | (intros; (repeat' (first | (simp only [hide_ite, ite_self, implies_true, forall_const, hostAct_hide h_host h_log h_outbox h_regs h_regs2, hbmPeakSet_hide h_regs, h_host, h_log, h_outbox, h_regs, h_regs2]; done) | split | dsimp only)); done)

theorem tgSet_hide {L : List Part} (h_mem : Part.mem ∈ L) (k pc : Nat) (g : TrafGen) (s : State) :
    hide L (tgSet k pc g s) = hide L s := by
  unfold tgSet
  simp only [hide_mem h_mem]

theorem tgStart_hide {L : List Part} (h_host : Part.host ∈ L) (h_log : Part.log ∈ L) (h_mem : Part.mem ∈ L) (h_outbox : Part.outbox ∈ L) (h_regs : Part.regs ∈ L) (h_regs2 : Part.regs2 ∈ L) (k : Nat) (s : State) :
    hide L (tgStart k s) = hide L s := by
  unfold tgStart
  simp only [hide_ite, ite_self, refuse_hide h_host h_log h_outbox h_regs h_regs2, tgSet_hide h_mem]

theorem tgStop_hide {L : List Part} (h_mem : Part.mem ∈ L) (k : Nat) (s : State) :
    hide L (tgStop k s) = hide L s := by
  unfold tgStop
  simp only [hide_ite, ite_self, tgSet_hide h_mem]

theorem hbmTgStart_hide {L : List Part} (h_host : Part.host ∈ L) (h_log : Part.log ∈ L) (h_mem : Part.mem ∈ L) (h_outbox : Part.outbox ∈ L) (h_regs : Part.regs ∈ L) (h_regs2 : Part.regs2 ∈ L) (k : Nat) (s : State) :
    hide L (hbmTgStart k s) = hide L s := by
  unfold hbmTgStart
  apply hostAct_hide <;> first | assumption | (intros; simp only [hide_ite, ite_self, implies_true, forall_const, hostAct_hide h_host h_log h_outbox h_regs h_regs2, tgStart_hide h_host h_log h_mem h_outbox h_regs h_regs2, h_host, h_log, h_mem, h_outbox, h_regs, h_regs2]; done) | (intros; (repeat' (first | (simp only [hide_ite, ite_self, implies_true, forall_const, hostAct_hide h_host h_log h_outbox h_regs h_regs2, tgStart_hide h_host h_log h_mem h_outbox h_regs h_regs2, h_host, h_log, h_mem, h_outbox, h_regs, h_regs2]; done) | split | dsimp only)); done)

theorem hbmTgStop_hide {L : List Part} (h_host : Part.host ∈ L) (h_log : Part.log ∈ L) (h_mem : Part.mem ∈ L) (h_outbox : Part.outbox ∈ L) (h_regs : Part.regs ∈ L) (h_regs2 : Part.regs2 ∈ L) (k : Nat) (s : State) :
    hide L (hbmTgStop k s) = hide L s := by
  unfold hbmTgStop
  apply hostAct_hide <;> first | assumption | (intros; simp only [hide_ite, ite_self, implies_true, forall_const, hostAct_hide h_host h_log h_outbox h_regs h_regs2, tgStop_hide h_mem, h_host, h_log, h_mem, h_outbox, h_regs, h_regs2]; done) | (intros; (repeat' (first | (simp only [hide_ite, ite_self, implies_true, forall_const, hostAct_hide h_host h_log h_outbox h_regs h_regs2, tgStop_hide h_mem, h_host, h_log, h_mem, h_outbox, h_regs, h_regs2]; done) | split | dsimp only)); done)

theorem tgWrite_hide {L : List Part} (h_mem : Part.mem ∈ L) (h_regs : Part.regs ∈ L) (k pc : Nat) (g : TrafGen) (n : Nat) (s : State) :
    hide L (tgWrite k pc g n s) = hide L s := by
  unfold tgWrite
  simp only [implies_true, memWrite_hide h_mem, regAdd64_hide h_regs, hide_foldl_snd]

theorem tgCheckGrain_hide {L : List Part} (h_log : Part.log ∈ L) (h_mem : Part.mem ∈ L) (h_regs : Part.regs ∈ L) (k pc u : Nat) (ws : List Nat) (s : State) :
    hide L (tgCheckGrain k pc u ws s) = hide L s := by
  unfold tgCheckGrain
  simp only [hide_ite, ite_self, implies_true, forall_const, regAdd64_hide h_regs, readErrors_hide h_log h_mem h_regs, tgSet_hide h_mem, h_log, h_mem, h_regs]; (repeat' (first | (simp only [hide_ite, ite_self, implies_true, forall_const, regAdd64_hide h_regs, readErrors_hide h_log h_mem h_regs, tgSet_hide h_mem, h_log, h_mem, h_regs]; done) | split | dsimp only))

theorem tgCheck_hide {L : List Part} (h_log : Part.log ∈ L) (h_mem : Part.mem ∈ L) (h_regs : Part.regs ∈ L) (k pc : Nat) (g : TrafGen) (n : Nat) (s : State) :
    hide L (tgCheck k pc g n s) = hide L s := by
  unfold tgCheck
  simp only [implies_true, tgCheckGrain_hide h_log h_mem h_regs, hide_foldl_snd]

theorem tgPass_hide {L : List Part} (h_log : Part.log ∈ L) (h_mem : Part.mem ∈ L) (h_regs : Part.regs ∈ L) (k pc : Nat) (g : TrafGen) (m : Nat) (s : State) :
    hide L (tgPass k pc g m s) = hide L s := by
  unfold tgPass
  repeat' (first | (simp only [hide_ite, ite_self, implies_true, forall_const, tgWrite_hide h_mem h_regs, tgCheck_hide h_log h_mem h_regs, h_log, h_mem, h_regs]; done) | split | dsimp only | intro _ _ | (refine (hide_foldl _ _ _ ?_).trans ?_) | (refine (hide_foldl_snd _ _ _ ?_).trans ?_) | (simp only [hide, h_log, h_mem, h_regs, if_true]; done) | (simp only [hide_ite, ite_self, implies_true, forall_const, tgWrite_hide h_mem h_regs, tgCheck_hide h_log h_mem h_regs, h_log, h_mem, h_regs]; simp only [hide, h_log, h_mem, h_regs, if_true]; done) | simp only [hide_ite, ite_self, implies_true, forall_const, tgWrite_hide h_mem h_regs, tgCheck_hide h_log h_mem h_regs, h_log, h_mem, h_regs])

theorem hbmTgDone_hide {L : List Part} (h_free : Part.free ∈ L) (h_log : Part.log ∈ L) (h_mem : Part.mem ∈ L) (h_regs : Part.regs ∈ L) (k pc : Nat) (s : State) :
    hide L (hbmTgDone k pc s) = hide L s := by
  unfold hbmTgDone
  simp only [hide_ite, ite_self, tgPass_hide h_log h_mem h_regs, bumpFree_hide h_free, tgSet_hide h_mem, raise_hide h_log h_regs]

theorem groomPcSet_hide {L : List Part} (h_regs : Part.regs ∈ L) (k pc : Nat) (s : State) :
    hide L (groomPcSet k pc s) = hide L s := by
  unfold groomPcSet
  simp only [rfSet_hide h_regs]

theorem groomFault_hide {L : List Part} (h_free : Part.free ∈ L) (h_grooms : Part.grooms ∈ L) (h_host : Part.host ∈ L) (h_log : Part.log ∈ L) (h_outbox : Part.outbox ∈ L) (h_regs : Part.regs ∈ L) (h_regs2 : Part.regs2 ∈ L) (k : Nat) (code : W16) (s : State) :
    hide L (groomFault k code s) = hide L s := by
  unfold groomFault
  simp only [groomHalt_hide h_free h_grooms h_host h_log h_outbox h_regs h_regs2]

theorem coefPut_hide {L : List Part} (h_grooms : Part.grooms ∈ L) (k : Nat) (ws : List W32) (s : State) :
    hide L (coefPut k ws s) = hide L s := by
  unfold coefPut
  simp only [groomMod_hide h_grooms]

theorem coefWait_hide {L : List Part} (h_grooms : Part.grooms ∈ L) (k : Nat) (v : Bool) (s : State) :
    hide L (coefWait k v s) = hide L s := by
  unfold coefWait
  simp only [groomMod_hide h_grooms]

theorem coefRead_hide {L : List Part} (h_free : Part.free ∈ L) (h_grooms : Part.grooms ∈ L) (h_host : Part.host ∈ L) (h_log : Part.log ∈ L) (h_mem : Part.mem ∈ L) (h_outbox : Part.outbox ∈ L) (h_regs : Part.regs ∈ L) (h_regs2 : Part.regs2 ∈ L) (k a : Nat) (s : State) :
    hide L (coefRead k a s) = hide L s := by
  unfold coefRead
  simp only [hide_ite, ite_self, implies_true, forall_const, groomHalt_hide h_free h_grooms h_host h_log h_outbox h_regs h_regs2, readErrors_hide h_log h_mem h_regs, regAdd64_hide h_regs, hbmAccess_hide h_log h_mem h_regs, coefPut_hide h_grooms, h_free, h_grooms, h_host, h_log, h_mem, h_outbox, h_regs, h_regs2]; (repeat' (first | (simp only [hide_ite, ite_self, implies_true, forall_const, groomHalt_hide h_free h_grooms h_host h_log h_outbox h_regs h_regs2, readErrors_hide h_log h_mem h_regs, regAdd64_hide h_regs, hbmAccess_hide h_log h_mem h_regs, coefPut_hide h_grooms, h_free, h_grooms, h_host, h_log, h_mem, h_outbox, h_regs, h_regs2]; done) | split | dsimp only))

theorem coefLoad_hide {L : List Part} (h_free : Part.free ∈ L) (h_grooms : Part.grooms ∈ L) (h_host : Part.host ∈ L) (h_log : Part.log ∈ L) (h_mem : Part.mem ∈ L) (h_outbox : Part.outbox ∈ L) (h_regs : Part.regs ∈ L) (h_regs2 : Part.regs2 ∈ L) (k : Nat) (s : State) :
    hide L (coefLoad k s) = hide L s := by
  unfold coefLoad
  simp only [hide_ite, ite_self, hide_free h_free, coefWait_hide h_grooms, coefPut_hide h_grooms, coefRead_hide h_free h_grooms h_host h_log h_mem h_outbox h_regs h_regs2]

theorem groomStep_hide {L : List Part} (h_free : Part.free ∈ L) (h_grooms : Part.grooms ∈ L) (h_host : Part.host ∈ L) (h_log : Part.log ∈ L) (h_mem : Part.mem ∈ L) (h_outbox : Part.outbox ∈ L) (h_regs : Part.regs ∈ L) (h_regs2 : Part.regs2 ∈ L) (k : Nat) (mine : W128 → Bool) (body : NI → State → State) (s : State) (hb : ∀ f s, hide L (body f s) = hide L s) :
    hide L (groomStep k mine body s) = hide L s := by
  unfold groomStep
  simp only [hide_ite, ite_self, implies_true, forall_const, hb, coefLoad_hide h_free h_grooms h_host h_log h_mem h_outbox h_regs h_regs2, groomFault_hide h_free h_grooms h_host h_log h_outbox h_regs h_regs2, h_free, h_grooms, h_host, h_log, h_mem, h_outbox, h_regs, h_regs2]; (repeat' (first | (simp only [hide_ite, ite_self, implies_true, forall_const, hb, coefLoad_hide h_free h_grooms h_host h_log h_mem h_outbox h_regs h_regs2, groomFault_hide h_free h_grooms h_host h_log h_outbox h_regs h_regs2, h_free, h_grooms, h_host, h_log, h_mem, h_outbox, h_regs, h_regs2]; done) | split | dsimp only))

theorem groomNext_hide {L : List Part} (h_regs : Part.regs ∈ L) (k : Nat) (s : State) :
    hide L (groomNext k s) = hide L s := by
  unfold groomNext
  simp only [groomPcSet_hide h_regs]

theorem groomGwait_hide {L : List Part} (h_free : Part.free ∈ L) (h_grooms : Part.grooms ∈ L) (h_host : Part.host ∈ L) (h_log : Part.log ∈ L) (h_mem : Part.mem ∈ L) (h_outbox : Part.outbox ∈ L) (h_regs : Part.regs ∈ L) (h_regs2 : Part.regs2 ∈ L) (k : Nat) (s : State) :
    hide L (groomGwait k s) = hide L s := by
  unfold groomGwait
  apply groomStep_hide <;> first | assumption | (intros; simp only [hide_ite, ite_self, implies_true, forall_const, groomStep_hide h_free h_grooms h_host h_log h_mem h_outbox h_regs h_regs2, groomHalt_hide h_free h_grooms h_host h_log h_outbox h_regs h_regs2, groomNext_hide h_regs, groomMod_hide h_grooms, h_free, h_grooms, h_host, h_log, h_mem, h_outbox, h_regs, h_regs2]; done) | (intros; (repeat' (first | (simp only [hide_ite, ite_self, implies_true, forall_const, groomStep_hide h_free h_grooms h_host h_log h_mem h_outbox h_regs h_regs2, groomHalt_hide h_free h_grooms h_host h_log h_outbox h_regs h_regs2, groomNext_hide h_regs, groomMod_hide h_grooms, h_free, h_grooms, h_host, h_log, h_mem, h_outbox, h_regs, h_regs2]; done) | split | dsimp only)); done)

theorem skipNote_hide {L : List Part} (h_log : Part.log ∈ L) (h_regs : Part.regs ∈ L) (k : Nat) (s : State) :
    hide L (skipNote k s) = hide L s := by
  unfold skipNote
  simp only [regAdd_hide h_regs, raise_hide h_log h_regs, reg64Set_hide h_regs]

theorem groomGskip_hide {L : List Part} (h_free : Part.free ∈ L) (h_grooms : Part.grooms ∈ L) (h_host : Part.host ∈ L) (h_log : Part.log ∈ L) (h_mem : Part.mem ∈ L) (h_outbox : Part.outbox ∈ L) (h_regs : Part.regs ∈ L) (h_regs2 : Part.regs2 ∈ L) (k : Nat) (s : State) :
    hide L (groomGskip k s) = hide L s := by
  unfold groomGskip
  apply groomStep_hide <;> first | assumption | (intros; simp only [hide_ite, ite_self, implies_true, forall_const, groomStep_hide h_free h_grooms h_host h_log h_mem h_outbox h_regs h_regs2, groomFault_hide h_free h_grooms h_host h_log h_outbox h_regs h_regs2, groomSet_hide h_grooms, groomNext_hide h_regs, skipNote_hide h_log h_regs, h_free, h_grooms, h_host, h_log, h_mem, h_outbox, h_regs, h_regs2]; done) | (intros; (repeat' (first | (simp only [hide_ite, ite_self, implies_true, forall_const, groomStep_hide h_free h_grooms h_host h_log h_mem h_outbox h_regs h_regs2, groomFault_hide h_free h_grooms h_host h_log h_outbox h_regs h_regs2, groomSet_hide h_grooms, groomNext_hide h_regs, skipNote_hide h_log h_regs, h_free, h_grooms, h_host, h_log, h_mem, h_outbox, h_regs, h_regs2]; done) | split | dsimp only)); done)

theorem groomGsignal_hide {L : List Part} (h_cores : Part.cores ∈ L) (h_free : Part.free ∈ L) (h_grooms : Part.grooms ∈ L) (h_host : Part.host ∈ L) (h_log : Part.log ∈ L) (h_mem : Part.mem ∈ L) (h_outbox : Part.outbox ∈ L) (h_regs : Part.regs ∈ L) (h_regs2 : Part.regs2 ∈ L) (k : Nat) (s : State) :
    hide L (groomGsignal k s) = hide L s := by
  unfold groomGsignal
  apply groomStep_hide <;> first | assumption | (intros; simp only [hide_ite, ite_self, implies_true, forall_const, groomStep_hide h_free h_grooms h_host h_log h_mem h_outbox h_regs h_regs2, groomFault_hide h_free h_grooms h_host h_log h_outbox h_regs h_regs2, groomNext_hide h_regs, gcntAdd_hide h_cores h_free h_grooms h_host h_log h_outbox h_regs h_regs2, h_cores, h_free, h_grooms, h_host, h_log, h_mem, h_outbox, h_regs, h_regs2]; done) | (intros; (repeat' (first | (simp only [hide_ite, ite_self, implies_true, forall_const, groomStep_hide h_free h_grooms h_host h_log h_mem h_outbox h_regs h_regs2, groomFault_hide h_free h_grooms h_host h_log h_outbox h_regs h_regs2, groomNext_hide h_regs, gcntAdd_hide h_cores h_free h_grooms h_host h_log h_outbox h_regs h_regs2, h_cores, h_free, h_grooms, h_host, h_log, h_mem, h_outbox, h_regs, h_regs2]; done) | split | dsimp only)); done)

theorem cutFreeze_hide {L : List Part} (h_ckpt : Part.ckpt ∈ L) (h_grooms : Part.grooms ∈ L) (k sec : Nat) (s : State) :
    hide L (cutFreeze k sec s) = hide L s := by
  unfold cutFreeze
  simp only [hide_ite, ite_self, implies_true, forall_const, hide_ckpt h_ckpt, groomMod_hide h_grooms, h_ckpt, h_grooms]; (repeat' (first | (simp only [hide_ite, ite_self, implies_true, forall_const, hide_ckpt h_ckpt, groomMod_hide h_grooms, h_ckpt, h_grooms]; done) | split | dsimp only))

theorem groomGend_hide {L : List Part} (h_ckpt : Part.ckpt ∈ L) (h_free : Part.free ∈ L) (h_grooms : Part.grooms ∈ L) (h_host : Part.host ∈ L) (h_log : Part.log ∈ L) (h_mem : Part.mem ∈ L) (h_outbox : Part.outbox ∈ L) (h_regs : Part.regs ∈ L) (h_regs2 : Part.regs2 ∈ L) (k : Nat) (s : State) :
    hide L (groomGend k s) = hide L s := by
  unfold groomGend
  apply groomStep_hide <;> first | assumption | (intros; simp only [hide_ite, ite_self, implies_true, forall_const, groomStep_hide h_free h_grooms h_host h_log h_mem h_outbox h_regs h_regs2, reg64Set_hide h_regs, groomPcSet_hide h_regs, groomMod_hide h_grooms, coefLoad_hide h_free h_grooms h_host h_log h_mem h_outbox h_regs h_regs2, cutFreeze_hide h_ckpt h_grooms, h_ckpt, h_free, h_grooms, h_host, h_log, h_mem, h_outbox, h_regs, h_regs2]; done) | (intros; (repeat' (first | (simp only [hide_ite, ite_self, implies_true, forall_const, groomStep_hide h_free h_grooms h_host h_log h_mem h_outbox h_regs h_regs2, reg64Set_hide h_regs, groomPcSet_hide h_regs, groomMod_hide h_grooms, coefLoad_hide h_free h_grooms h_host h_log h_mem h_outbox h_regs h_regs2, cutFreeze_hide h_ckpt h_grooms, h_ckpt, h_free, h_grooms, h_host, h_log, h_mem, h_outbox, h_regs, h_regs2]; done) | split | dsimp only)); done)

theorem cutStateRead_hide {L : List Part} (h_ckpt : Part.ckpt ∈ L) (h_grooms : Part.grooms ∈ L) (k : Nat) (s : State) :
    hide L (cutStateRead k s) = hide L s := by
  unfold cutStateRead
  simp only [hide_ite, ite_self, implies_true, forall_const, hide_ckpt h_ckpt, groomMod_hide h_grooms, h_ckpt, h_grooms]; (repeat' (first | (simp only [hide_ite, ite_self, implies_true, forall_const, hide_ckpt h_ckpt, groomMod_hide h_grooms, h_ckpt, h_grooms]; done) | split | dsimp only))

theorem gopEnd_hide {L : List Part} (h_grooms : Part.grooms ∈ L) (h_regs : Part.regs ∈ L) (k : Nat) (s : State) :
    hide L (gopEnd k s) = hide L s := by
  unfold gopEnd
  simp only [groomNext_hide h_regs, groomMod_hide h_grooms]

theorem gopBegin_hide {L : List Part} (h_free : Part.free ∈ L) (h_grooms : Part.grooms ∈ L) (h_host : Part.host ∈ L) (h_log : Part.log ∈ L) (h_outbox : Part.outbox ∈ L) (h_regs : Part.regs ∈ L) (h_regs2 : Part.regs2 ∈ L) (k : Nat) (f : GopF) (s : State) :
    hide L (gopBegin k f s) = hide L s := by
  unfold gopBegin
  simp only [hide_ite, ite_self, implies_true, forall_const, groomFault_hide h_free h_grooms h_host h_log h_outbox h_regs h_regs2, gopEnd_hide h_grooms h_regs, groomMod_hide h_grooms, h_free, h_grooms, h_host, h_log, h_outbox, h_regs, h_regs2]; (repeat' (first | (simp only [hide_ite, ite_self, implies_true, forall_const, groomFault_hide h_free h_grooms h_host h_log h_outbox h_regs h_regs2, gopEnd_hide h_grooms h_regs, groomMod_hide h_grooms, h_free, h_grooms, h_host, h_log, h_outbox, h_regs, h_regs2]; done) | split | dsimp only))

theorem groomGop_hide {L : List Part} (h_free : Part.free ∈ L) (h_grooms : Part.grooms ∈ L) (h_host : Part.host ∈ L) (h_log : Part.log ∈ L) (h_mem : Part.mem ∈ L) (h_outbox : Part.outbox ∈ L) (h_regs : Part.regs ∈ L) (h_regs2 : Part.regs2 ∈ L) (op k : Nat) (s : State) :
    hide L (groomGop op k s) = hide L s := by
  unfold groomGop
  apply groomStep_hide <;> first | assumption | (intros; simp only [hide_ite, ite_self, implies_true, forall_const, groomStep_hide h_free h_grooms h_host h_log h_mem h_outbox h_regs h_regs2, gopBegin_hide h_free h_grooms h_host h_log h_outbox h_regs h_regs2, h_free, h_grooms, h_host, h_log, h_mem, h_outbox, h_regs, h_regs2]; done) | (intros; (repeat' (first | (simp only [hide_ite, ite_self, implies_true, forall_const, groomStep_hide h_free h_grooms h_host h_log h_mem h_outbox h_regs h_regs2, gopBegin_hide h_free h_grooms h_host h_log h_outbox h_regs h_regs2, h_free, h_grooms, h_host, h_log, h_mem, h_outbox, h_regs, h_regs2]; done) | split | dsimp only)); done)

theorem exchPut_hide {L : List Part} (h_exch : Part.exch ∈ L) (key : Nat) (e : Exch) (s : State) :
    hide L (exchPut key e s) = hide L s := by
  unfold exchPut
  simp only [hide_exch h_exch]

theorem groomAccess_hide {L : List Part} (h_log : Part.log ∈ L) (h_mem : Part.mem ∈ L) (h_regs : Part.regs ∈ L) (k : Nat) (write : Bool) (as : List Nat) (s : State) :
    hide L (groomAccess k write as s) = hide L s := by
  unfold groomAccess
  simp only [implies_true, cacheAccess_hide h_log h_mem h_regs, regAdd64_hide h_regs, hide_foldl]

theorem grainErrorsAt_hide {L : List Part} (h_log : Part.log ∈ L) (h_mem : Part.mem ∈ L) (h_regs : Part.regs ∈ L) (as : List Nat) (s : State) :
    hide L (grainErrorsAt as s).2 = hide L s := by
  unfold grainErrorsAt
  simp only [implies_true, readErrors_hide h_log h_mem h_regs, hide_foldl_snd]

theorem keeperReads_hide {L : List Part} (h_log : Part.log ∈ L) (h_mem : Part.mem ∈ L) (h_regs : Part.regs ∈ L) (st : GopSt) (b : Nat) (s : State) :
    hide L (keeperReads st b s).2 = hide L s := by
  unfold keeperReads
  simp only [implies_true, readErrors_hide h_log h_mem h_regs, metaAccess_hide h_log h_mem h_regs, hide_foldl_snd]

theorem reanchorKnown_hide {L : List Part} (h_grooms : Part.grooms ∈ L) (key : Nat) (st : GopSt) (s : State) :
    hide L (reanchorKnown key st s) = hide L s := by
  unfold reanchorKnown
  simp only [hide_ite, ite_self, implies_true, groomMod_hide h_grooms, hide_foldl]

theorem verdictTry_hide {L : List Part} (h_exch : Part.exch ∈ L) (h_grooms : Part.grooms ∈ L) (h_log : Part.log ∈ L) (h_mem : Part.mem ∈ L) (h_regs : Part.regs ∈ L) (h b : Nat) (st : GopSt) (s : State) :
    hide L (verdictTry h b st s) = hide L s := by
  unfold verdictTry
  simp only [hide_ite, ite_self, implies_true, forall_const, keeperReads_hide h_log h_mem h_regs, reanchorKnown_hide h_grooms, exchPut_hide h_exch, h_exch, h_grooms, h_log, h_mem, h_regs]; (repeat' (first | (simp only [hide_ite, ite_self, implies_true, forall_const, keeperReads_hide h_log h_mem h_regs, reanchorKnown_hide h_grooms, exchPut_hide h_exch, h_exch, h_grooms, h_log, h_mem, h_regs]; done) | split | dsimp only))

theorem partialTake_hide {L : List Part} (h_exch : Part.exch ∈ L) (h_grooms : Part.grooms ∈ L) (h_log : Part.log ∈ L) (h_mem : Part.mem ∈ L) (h_regs : Part.regs ∈ L) (h b : Nat) (st : GopSt) (e : Exch) (s : State) :
    hide L (partialTake h b st e s) = hide L s := by
  unfold partialTake
  simp only [grainErrorsAt_hide h_log h_mem h_regs, groomAccess_hide h_log h_mem h_regs, verdictTry_hide h_exch h_grooms h_log h_mem h_regs, exchPut_hide h_exch]

theorem groomPartialMsg_hide {L : List Part} (h_exch : Part.exch ∈ L) (h_grooms : Part.grooms ∈ L) (h_log : Part.log ∈ L) (h_mem : Part.mem ∈ L) (h_regs : Part.regs ∈ L) (h b : Nat) (s : State) :
    hide L (groomPartialMsg h b s) = hide L s := by
  unfold groomPartialMsg
  simp only [hide_ite, ite_self, implies_true, forall_const, partialTake_hide h_exch h_grooms h_log h_mem h_regs, h_exch, h_grooms, h_log, h_mem, h_regs]; (repeat' (first | (simp only [hide_ite, ite_self, implies_true, forall_const, partialTake_hide h_exch h_grooms h_log h_mem h_regs, h_exch, h_grooms, h_log, h_mem, h_regs]; done) | split | dsimp only))

theorem keeperWrite_hide {L : List Part} (h_log : Part.log ∈ L) (h_mem : Part.mem ∈ L) (h_regs : Part.regs ∈ L) (st : GopSt) (b : Nat) (sat : Bool) (s : State) :
    hide L (keeperWrite st b sat s) = hide L s := by
  unfold keeperWrite
  simp only [hide_ite, ite_self, metaWrite_hide h_log h_mem h_regs, raise_hide h_log h_regs]

theorem holderWrite_hide {L : List Part} (h_exch : Part.exch ∈ L) (h_log : Part.log ∈ L) (h_mem : Part.mem ∈ L) (h_regs : Part.regs ∈ L) (k b : Nat) (st : GopSt) (e : Exch) (s : State) :
    hide L (holderWrite k b st e s) = hide L s := by
  unfold holderWrite
  simp only [hide_ite, ite_self, implies_true, memWrite_hide h_mem, groomAccess_hide h_log h_mem h_regs, exchPut_hide h_exch, keeperWrite_hide h_log h_mem h_regs, hide_foldl]

theorem exchClean_hide {L : List Part} (h_exch : Part.exch ∈ L) (s : State) :
    hide L (exchClean s) = hide L s := by
  unfold exchClean
  simp only [hide_exch h_exch]

theorem groomVerdictMsg_hide {L : List Part} (h_exch : Part.exch ∈ L) (h_free : Part.free ∈ L) (h_grooms : Part.grooms ∈ L) (h_host : Part.host ∈ L) (h_log : Part.log ∈ L) (h_mem : Part.mem ∈ L) (h_outbox : Part.outbox ∈ L) (h_regs : Part.regs ∈ L) (h_regs2 : Part.regs2 ∈ L) (k b : Nat) (s : State) :
    hide L (groomVerdictMsg k b s) = hide L s := by
  unfold groomVerdictMsg
  simp only [hide_ite, ite_self, implies_true, forall_const, verdictTry_hide h_exch h_grooms h_log h_mem h_regs, exchClean_hide h_exch, groomFault_hide h_free h_grooms h_host h_log h_outbox h_regs h_regs2, holderWrite_hide h_exch h_log h_mem h_regs, h_exch, h_free, h_grooms, h_host, h_log, h_mem, h_outbox, h_regs, h_regs2]; (repeat' (first | (simp only [hide_ite, ite_self, implies_true, forall_const, verdictTry_hide h_exch h_grooms h_log h_mem h_regs, exchClean_hide h_exch, groomFault_hide h_free h_grooms h_host h_log h_outbox h_regs h_regs2, holderWrite_hide h_exch h_log h_mem h_regs, h_exch, h_free, h_grooms, h_host, h_log, h_mem, h_outbox, h_regs, h_regs2]; done) | split | dsimp only))

theorem reanchorAgree_hide {L : List Part} (h_free : Part.free ∈ L) (h_grooms : Part.grooms ∈ L) (h_host : Part.host ∈ L) (h_log : Part.log ∈ L) (h_outbox : Part.outbox ∈ L) (h_regs : Part.regs ∈ L) (h_regs2 : Part.regs2 ∈ L) (s : State) :
    hide L (reanchorAgree s) = hide L s := by
  unfold reanchorAgree
  simp only [hide_ite, ite_self, implies_true, groomMod_hide h_grooms, groomFault_hide h_free h_grooms h_host h_log h_outbox h_regs h_regs2, hide_foldl]

theorem gopDone_hide {L : List Part} (h_exch : Part.exch ∈ L) (h_grooms : Part.grooms ∈ L) (h_log : Part.log ∈ L) (h_regs : Part.regs ∈ L) (k : Nat) (s : State) :
    hide L (gopDone k s) = hide L s := by
  unfold gopDone
  simp only [hide_ite, ite_self, implies_true, forall_const, raise_hide h_log h_regs, groomMod_hide h_grooms, exchClean_hide h_exch, gopEnd_hide h_grooms h_regs, h_exch, h_grooms, h_log, h_regs]; (repeat' (first | (simp only [hide_ite, ite_self, implies_true, forall_const, raise_hide h_log h_regs, groomMod_hide h_grooms, exchClean_hide h_exch, gopEnd_hide h_grooms h_regs, h_exch, h_grooms, h_log, h_regs]; done) | split | dsimp only))

theorem groomRunSet_hide {L : List Part} (h_free : Part.free ∈ L) (h_grooms : Part.grooms ∈ L) (h_host : Part.host ∈ L) (h_log : Part.log ∈ L) (h_mem : Part.mem ∈ L) (h_outbox : Part.outbox ∈ L) (h_regs : Part.regs ∈ L) (h_regs2 : Part.regs2 ∈ L) (k : Nat) (v : Bool) (s : State) :
    hide L (groomRunSet k v s) = hide L s := by
  unfold groomRunSet
  simp only [hide_ite, ite_self, rfSet_hide h_regs, coefLoad_hide h_free h_grooms h_host h_log h_mem h_outbox h_regs h_regs2, groomMod_hide h_grooms]

theorem groomRun_hide {L : List Part} (h_free : Part.free ∈ L) (h_grooms : Part.grooms ∈ L) (h_host : Part.host ∈ L) (h_log : Part.log ∈ L) (h_mem : Part.mem ∈ L) (h_outbox : Part.outbox ∈ L) (h_regs : Part.regs ∈ L) (h_regs2 : Part.regs2 ∈ L) (k : Nat) (v : Bool) (s : State) :
    hide L (groomRun k v s) = hide L s := by
  unfold groomRun
  apply hostWrite_hide <;> first | assumption | (intros; simp only [hide_ite, ite_self, implies_true, forall_const, hostWrite_hide h_host h_log h_outbox h_regs h_regs2, refuse_hide h_host h_log h_outbox h_regs h_regs2, groomRunSet_hide h_free h_grooms h_host h_log h_mem h_outbox h_regs h_regs2, h_free, h_grooms, h_host, h_log, h_mem, h_outbox, h_regs, h_regs2]; done) | (intros; (repeat' (first | (simp only [hide_ite, ite_self, implies_true, forall_const, hostWrite_hide h_host h_log h_outbox h_regs h_regs2, refuse_hide h_host h_log h_outbox h_regs h_regs2, groomRunSet_hide h_free h_grooms h_host h_log h_mem h_outbox h_regs h_regs2, h_free, h_grooms, h_host, h_log, h_mem, h_outbox, h_regs, h_regs2]; done) | split | dsimp only)); done)

theorem groomStopped_hide {L : List Part} (h_free : Part.free ∈ L) (h_grooms : Part.grooms ∈ L) (h_regs : Part.regs ∈ L) (k : Nat) (s : State) :
    hide L (groomStopped k s) = hide L s := by
  unfold groomStopped
  simp only [hide_ite, ite_self, groomMod_hide h_grooms, countOn_hide h_free h_regs]

theorem countsZero_hide {L : List Part} (h_grooms : Part.grooms ∈ L) (k : Nat) (s : State) :
    hide L (countsZero k s) = hide L s := by
  unfold countsZero
  simp only [groomMod_hide h_grooms]

theorem groomZeroCounts_hide {L : List Part} (h_grooms : Part.grooms ∈ L) (h_host : Part.host ∈ L) (h_log : Part.log ∈ L) (h_outbox : Part.outbox ∈ L) (h_regs : Part.regs ∈ L) (h_regs2 : Part.regs2 ∈ L) (k : Nat) (s : State) :
    hide L (groomZeroCounts k s) = hide L s := by
  unfold groomZeroCounts
  apply hostAct_hide <;> first | assumption | (intros; simp only [hide_ite, ite_self, implies_true, forall_const, hostAct_hide h_host h_log h_outbox h_regs h_regs2, refuse_hide h_host h_log h_outbox h_regs h_regs2, countsZero_hide h_grooms, h_grooms, h_host, h_log, h_outbox, h_regs, h_regs2]; done) | (intros; (repeat' (first | (simp only [hide_ite, ite_self, implies_true, forall_const, hostAct_hide h_host h_log h_outbox h_regs h_regs2, refuse_hide h_host h_log h_outbox h_regs h_regs2, countsZero_hide h_grooms, h_grooms, h_host, h_log, h_outbox, h_regs, h_regs2]; done) | split | dsimp only)); done)

theorem groomHang_hide {L : List Part} (h_host : Part.host ∈ L) (h_log : Part.log ∈ L) (h_outbox : Part.outbox ∈ L) (h_regs : Part.regs ∈ L) (h_regs2 : Part.regs2 ∈ L) (k : Nat) (w : GroomWait) (s : State) :
    hide L (groomHang k w s) = hide L s := by
  unfold groomHang
  simp only [hide_ite, ite_self, raise_hide h_log h_regs, record_hide h_host h_log h_outbox h_regs h_regs2]

theorem answer_hide {L : List Part} (h_hostRead : Part.hostRead ∈ L) (h_outbox : Part.outbox ∈ L) (v : W32) (s : State) :
    hide L (answer v s) = hide L s := by
  unfold answer
  simp only [hide_hostRead h_hostRead, emit_hide h_outbox]

theorem readBar0_hide {L : List Part} (h_free : Part.free ∈ L) (h_hostRead : Part.hostRead ∈ L) (h_latches : Part.latches ∈ L) (h_outbox : Part.outbox ∈ L) (h_regs : Part.regs ∈ L) (off : Nat) (s : State) :
    hide L (readBar0 off s) = hide L s := by
  unfold readBar0
  simp only [hide_ite, ite_self, hide_free h_free, hide_latches h_latches, countOn_hide h_free h_regs, rfSet_hide h_regs, answer_hide h_hostRead h_outbox]

theorem registerRead_hide {L : List Part} (h_cfg : Part.cfg ∈ L) (h_free : Part.free ∈ L) (h_host : Part.host ∈ L) (h_hostRead : Part.hostRead ∈ L) (h_latches : Part.latches ∈ L) (h_log : Part.log ∈ L) (h_outbox : Part.outbox ∈ L) (h_regs : Part.regs ∈ L) (h_regs2 : Part.regs2 ∈ L) (bar : Bar) (off : Nat) (s : State) :
    hide L (registerRead bar off s) = hide L s := by
  unfold registerRead
  simp only [hide_ite, ite_self, implies_true, forall_const, unsupported_hide h_cfg h_outbox, answer_hide h_hostRead h_outbox, readBar0_hide h_free h_hostRead h_latches h_outbox h_regs, refuse_hide h_host h_log h_outbox h_regs h_regs2, h_cfg, h_free, h_host, h_hostRead, h_latches, h_log, h_outbox, h_regs, h_regs2]; (repeat' (first | (simp only [hide_ite, ite_self, implies_true, forall_const, unsupported_hide h_cfg h_outbox, answer_hide h_hostRead h_outbox, readBar0_hide h_free h_hostRead h_latches h_outbox h_regs, refuse_hide h_host h_log h_outbox h_regs h_regs2, h_cfg, h_free, h_host, h_hostRead, h_latches, h_log, h_outbox, h_regs, h_regs2]; done) | split | dsimp only))

theorem storeWord_hide {L : List Part} (h_latches : Part.latches ∈ L) (h_regs : Part.regs ∈ L) (off : Nat) (v : W32) (s : State) :
    hide L (storeWord off v s) = hide L s := by
  unfold storeWord
  simp only [hide_ite, ite_self, hide_latches h_latches, regSet_hide h_regs]

theorem ctxRunWrite_hide {L : List Part} (h_cores : Part.cores ∈ L) (h_regs : Part.regs ∈ L) (n : Nat) (x : Ctx) (v : Bool) (s : State) :
    hide L (ctxRunWrite n x v s) = hide L s := by
  unfold ctxRunWrite
  simp only [hide_ite, ite_self, ostlerRun_hide h_cores h_regs]

theorem effCore_hide {L : List Part} (h_cores : Part.cores ∈ L) (h_host : Part.host ∈ L) (h_latches : Part.latches ∈ L) (h_log : Part.log ∈ L) (h_outbox : Part.outbox ∈ L) (h_regs : Part.regs ∈ L) (h_regs2 : Part.regs2 ∈ L) (n o : Nat) (v : W32) (s : State) :
    hide L (effCore n o v s) = hide L s := by
  unfold effCore
  simp only [hide_ite, ite_self, implies_true, forall_const, flushDo_hide h_cores h_host h_log h_outbox h_regs h_regs2, storeWord_hide h_latches h_regs, lockPeakSet_hide h_regs, ctxRunWrite_hide h_cores h_regs, ctxMod_hide h_cores, convZero_hide h_regs, syncArm_hide h_cores h_host h_log h_outbox h_regs h_regs2, coreMod_hide h_cores, h_cores, h_host, h_latches, h_log, h_outbox, h_regs, h_regs2, hide_foldl, hide_foldl_fst, hide_foldl_snd]; (repeat' (first | (simp only [hide_ite, ite_self, implies_true, forall_const, flushDo_hide h_cores h_host h_log h_outbox h_regs h_regs2, storeWord_hide h_latches h_regs, lockPeakSet_hide h_regs, ctxRunWrite_hide h_cores h_regs, ctxMod_hide h_cores, convZero_hide h_regs, syncArm_hide h_cores h_host h_log h_outbox h_regs h_regs2, coreMod_hide h_cores, h_cores, h_host, h_latches, h_log, h_outbox, h_regs, h_regs2, hide_foldl, hide_foldl_fst, hide_foldl_snd]; done) | split | dsimp only))

theorem effHbm_hide {L : List Part} (h_free : Part.free ∈ L) (h_grooms : Part.grooms ∈ L) (h_host : Part.host ∈ L) (h_latches : Part.latches ∈ L) (h_log : Part.log ∈ L) (h_mem : Part.mem ∈ L) (h_outbox : Part.outbox ∈ L) (h_regs : Part.regs ∈ L) (h_regs2 : Part.regs2 ∈ L) (k o : Nat) (v : W32) (s : State) :
    hide L (effHbm k o v s) = hide L s := by
  unfold effHbm
  simp only [hide_ite, ite_self, implies_true, forall_const, tgSet_hide h_mem, hbmModeSet_hide h_regs, storeWord_hide h_latches h_regs, hbmPeakSet_hide h_regs, tgStart_hide h_host h_log h_mem h_outbox h_regs h_regs2, tgStop_hide h_mem, countsZero_hide h_grooms, groomRunSet_hide h_free h_grooms h_host h_log h_mem h_outbox h_regs h_regs2, groomMod_hide h_grooms, groomPcSet_hide h_regs, h_free, h_grooms, h_host, h_latches, h_log, h_mem, h_outbox, h_regs, h_regs2]; (repeat' (first | (simp only [hide_ite, ite_self, implies_true, forall_const, tgSet_hide h_mem, hbmModeSet_hide h_regs, storeWord_hide h_latches h_regs, hbmPeakSet_hide h_regs, tgStart_hide h_host h_log h_mem h_outbox h_regs h_regs2, tgStop_hide h_mem, countsZero_hide h_grooms, groomRunSet_hide h_free h_grooms h_host h_log h_mem h_outbox h_regs h_regs2, groomMod_hide h_grooms, groomPcSet_hide h_regs, h_free, h_grooms, h_host, h_latches, h_log, h_mem, h_outbox, h_regs, h_regs2]; done) | split | dsimp only))

theorem effDie_hide {L : List Part} (h_host : Part.host ∈ L) (h_latches : Part.latches ∈ L) (h_log : Part.log ∈ L) (h_mem : Part.mem ∈ L) (h_outbox : Part.outbox ∈ L) (h_regs : Part.regs ∈ L) (h_regs2 : Part.regs2 ∈ L) (n o : Nat) (v : W32) (s : State) :
    hide L (effDie n o v s) = hide L s := by
  unfold effDie
  repeat' (first | (simp only [hide_ite, ite_self, implies_true, forall_const, loftChange_hide h_host h_log h_mem h_outbox h_regs h_regs2, loftFlushDo_hide h_mem h_regs, storeWord_hide h_latches h_regs, h_host, h_latches, h_log, h_mem, h_outbox, h_regs, h_regs2]; done) | split | dsimp only | intro _ _ | (refine (hide_foldl _ _ _ ?_).trans ?_) | (refine (hide_foldl_snd _ _ _ ?_).trans ?_) | (simp only [hide, h_host, h_latches, h_log, h_mem, h_outbox, h_regs, h_regs2, if_true]; done) | (simp only [hide_ite, ite_self, implies_true, forall_const, loftChange_hide h_host h_log h_mem h_outbox h_regs h_regs2, loftFlushDo_hide h_mem h_regs, storeWord_hide h_latches h_regs, h_host, h_latches, h_log, h_mem, h_outbox, h_regs, h_regs2]; simp only [hide, h_host, h_latches, h_log, h_mem, h_outbox, h_regs, h_regs2, if_true]; done) | simp only [hide_ite, ite_self, implies_true, forall_const, loftChange_hide h_host h_log h_mem h_outbox h_regs h_regs2, loftFlushDo_hide h_mem h_regs, storeWord_hide h_latches h_regs, h_host, h_latches, h_log, h_mem, h_outbox, h_regs, h_regs2])

theorem effPort_hide {L : List Part} (h_fab : Part.fab ∈ L) (h_latches : Part.latches ∈ L) (h_regs : Part.regs ∈ L) (p o : Nat) (v : W32) (s : State) :
    hide L (effPort p o v s) = hide L s := by
  unfold effPort
  repeat' (first | (simp only [hide_ite, ite_self, implies_true, forall_const, rtSet_hide h_fab, storeWord_hide h_latches h_regs, h_fab, h_latches, h_regs]; done) | split | dsimp only | intro _ _ | (refine (hide_foldl _ _ _ ?_).trans ?_) | (refine (hide_foldl_snd _ _ _ ?_).trans ?_) | (simp only [hide, h_fab, h_latches, h_regs, if_true]; done) | (simp only [hide_ite, ite_self, implies_true, forall_const, rtSet_hide h_fab, storeWord_hide h_latches h_regs, h_fab, h_latches, h_regs]; simp only [hide, h_fab, h_latches, h_regs, if_true]; done) | simp only [hide_ite, ite_self, implies_true, forall_const, rtSet_hide h_fab, storeWord_hide h_latches h_regs, h_fab, h_latches, h_regs])

theorem effCommon_hide {L : List Part} (h_fab : Part.fab ∈ L) (h_latches : Part.latches ∈ L) (h_regs : Part.regs ∈ L) (o : Nat) (v : W32) (s : State) :
    hide L (effCommon o v s) = hide L s := by
  unfold effCommon
  simp only [hide_ite, ite_self, implies_true, forall_const, hide_fab h_fab, rtSet_hide h_fab, storeWord_hide h_latches h_regs, h_fab, h_latches, h_regs]; (repeat' (first | (simp only [hide_ite, ite_self, implies_true, forall_const, hide_fab h_fab, rtSet_hide h_fab, storeWord_hide h_latches h_regs, h_fab, h_latches, h_regs]; done) | split | dsimp only))

theorem collOut_hide {L : List Part} (h_fab : Part.fab ∈ L) (e : Nat) (s : State) :
    hide L (collOut e s) = hide L s := by
  unfold collOut
  simp only [hide_ite, ite_self, collSet_hide h_fab]

theorem effColl_hide {L : List Part} (h_fab : Part.fab ∈ L) (h_host : Part.host ∈ L) (h_latches : Part.latches ∈ L) (h_log : Part.log ∈ L) (h_outbox : Part.outbox ∈ L) (h_regs : Part.regs ∈ L) (h_regs2 : Part.regs2 ∈ L) (o : Nat) (v : W32) (s : State) :
    hide L (effColl o v s) = hide L s := by
  unfold effColl
  simp only [hide_ite, ite_self, implies_true, forall_const, hide_fab h_fab, collEntryValidate_hide h_fab h_host h_log h_outbox h_regs h_regs2, collSet_hide h_fab, collOut_hide h_fab, storeWord_hide h_latches h_regs, h_fab, h_host, h_latches, h_log, h_outbox, h_regs, h_regs2, hide_foldl, hide_foldl_fst, hide_foldl_snd]; (repeat' (first | (simp only [hide_ite, ite_self, implies_true, forall_const, hide_fab h_fab, collEntryValidate_hide h_fab h_host h_log h_outbox h_regs h_regs2, collSet_hide h_fab, collOut_hide h_fab, storeWord_hide h_latches h_regs, h_fab, h_host, h_latches, h_log, h_outbox, h_regs, h_regs2, hide_foldl, hide_foldl_fst, hide_foldl_snd]; done) | split | dsimp only))

theorem effCage_hide {L : List Part} (h_cages : Part.cages ∈ L) (h_host : Part.host ∈ L) (h_latches : Part.latches ∈ L) (h_log : Part.log ∈ L) (h_outbox : Part.outbox ∈ L) (h_regs : Part.regs ∈ L) (h_regs2 : Part.regs2 ∈ L) (g o : Nat) (v : W32) (s : State) :
    hide L (effCage g o v s) = hide L s := by
  unfold effCage
  simp only [hide_ite, ite_self, implies_true, forall_const, cageHoldOpen_hide h_cages h_host h_log h_outbox h_regs h_regs2, cageEnable_hide h_cages h_regs, storeWord_hide h_latches h_regs, h_cages, h_host, h_latches, h_log, h_outbox, h_regs, h_regs2]; (repeat' (first | (simp only [hide_ite, ite_self, implies_true, forall_const, cageHoldOpen_hide h_cages h_host h_log h_outbox h_regs h_regs2, cageEnable_hide h_cages h_regs, storeWord_hide h_latches h_regs, h_cages, h_host, h_latches, h_log, h_outbox, h_regs, h_regs2]; done) | split | dsimp only))

theorem effGlb_hide {L : List Part} (h_boot : Part.boot ∈ L) (h_cages : Part.cages ∈ L) (h_cfg : Part.cfg ∈ L) (h_ckpt : Part.ckpt ∈ L) (h_cores : Part.cores ∈ L) (h_epoch : Part.epoch ∈ L) (h_exch : Part.exch ∈ L) (h_fab : Part.fab ∈ L) (h_grooms : Part.grooms ∈ L) (h_hitch : Part.hitch ∈ L) (h_host : Part.host ∈ L) (h_job : Part.job ∈ L) (h_latches : Part.latches ∈ L) (h_log : Part.log ∈ L) (h_mem : Part.mem ∈ L) (h_outbox : Part.outbox ∈ L) (h_power : Part.power ∈ L) (h_regs : Part.regs ∈ L) (h_regs2 : Part.regs2 ∈ L) (o : Nat) (v : W32) (s : State) :
    hide L (effGlb o v s) = hide L s := by
  unfold effGlb
  simp only [hide_ite, ite_self, implies_true, forall_const, dieTempPeakClr_hide h_regs, hostResetCmd_hide h_boot h_cages h_cfg h_ckpt h_cores h_epoch h_exch h_fab h_grooms h_hitch h_host h_job h_latches h_log h_mem h_power h_regs h_regs2, blockReset_hide h_boot h_cages h_fab h_host h_log h_outbox h_regs h_regs2, storeWord_hide h_latches h_regs, tackTargetWrite_hide h_host h_log h_outbox h_regs h_regs2, regSet_hide h_regs, h_boot, h_cages, h_cfg, h_ckpt, h_cores, h_epoch, h_exch, h_fab, h_grooms, h_hitch, h_host, h_job, h_latches, h_log, h_mem, h_outbox, h_power, h_regs, h_regs2]; (repeat' (first | (simp only [hide_ite, ite_self, implies_true, forall_const, dieTempPeakClr_hide h_regs, hostResetCmd_hide h_boot h_cages h_cfg h_ckpt h_cores h_epoch h_exch h_fab h_grooms h_hitch h_host h_job h_latches h_log h_mem h_power h_regs h_regs2, blockReset_hide h_boot h_cages h_fab h_host h_log h_outbox h_regs h_regs2, storeWord_hide h_latches h_regs, tackTargetWrite_hide h_host h_log h_outbox h_regs h_regs2, regSet_hide h_regs, h_boot, h_cages, h_cfg, h_ckpt, h_cores, h_epoch, h_exch, h_fab, h_grooms, h_hitch, h_host, h_job, h_latches, h_log, h_mem, h_outbox, h_power, h_regs, h_regs2]; done) | split | dsimp only))

theorem writeEffect_hide {L : List Part} (h_boot : Part.boot ∈ L) (h_cages : Part.cages ∈ L) (h_cfg : Part.cfg ∈ L) (h_ckpt : Part.ckpt ∈ L) (h_cores : Part.cores ∈ L) (h_epoch : Part.epoch ∈ L) (h_exch : Part.exch ∈ L) (h_fab : Part.fab ∈ L) (h_free : Part.free ∈ L) (h_grooms : Part.grooms ∈ L) (h_hitch : Part.hitch ∈ L) (h_host : Part.host ∈ L) (h_job : Part.job ∈ L) (h_latches : Part.latches ∈ L) (h_log : Part.log ∈ L) (h_mem : Part.mem ∈ L) (h_outbox : Part.outbox ∈ L) (h_power : Part.power ∈ L) (h_regs : Part.regs ∈ L) (h_regs2 : Part.regs2 ∈ L) (off : Nat) (v : W32) (s : State) :
    hide L (writeEffect off v s) = hide L s := by
  unfold writeEffect
  repeat' (first | (simp only [hide_ite, ite_self, implies_true, forall_const, effGlb_hide h_boot h_cages h_cfg h_ckpt h_cores h_epoch h_exch h_fab h_grooms h_hitch h_host h_job h_latches h_log h_mem h_outbox h_power h_regs h_regs2, secSeal_hide h_boot h_host h_log h_outbox h_regs h_regs2, storeWord_hide h_latches h_regs, effPort_hide h_fab h_latches h_regs, effCommon_hide h_fab h_latches h_regs, effColl_hide h_fab h_host h_latches h_log h_outbox h_regs h_regs2, effCage_hide h_cages h_host h_latches h_log h_outbox h_regs h_regs2, effHbm_hide h_free h_grooms h_host h_latches h_log h_mem h_outbox h_regs h_regs2, effCore_hide h_cores h_host h_latches h_log h_outbox h_regs h_regs2, effDie_hide h_host h_latches h_log h_mem h_outbox h_regs h_regs2, h_boot, h_cages, h_cfg, h_ckpt, h_cores, h_epoch, h_exch, h_fab, h_free, h_grooms, h_hitch, h_host, h_job, h_latches, h_log, h_mem, h_outbox, h_power, h_regs, h_regs2]; done) | split | dsimp only | intro _ _ | (refine (hide_foldl _ _ _ ?_).trans ?_) | (refine (hide_foldl_snd _ _ _ ?_).trans ?_) | (simp only [hide, h_boot, h_cages, h_cfg, h_ckpt, h_cores, h_epoch, h_exch, h_fab, h_free, h_grooms, h_hitch, h_host, h_job, h_latches, h_log, h_mem, h_outbox, h_power, h_regs, h_regs2, if_true]; done) | (simp only [hide_ite, ite_self, implies_true, forall_const, effGlb_hide h_boot h_cages h_cfg h_ckpt h_cores h_epoch h_exch h_fab h_grooms h_hitch h_host h_job h_latches h_log h_mem h_outbox h_power h_regs h_regs2, secSeal_hide h_boot h_host h_log h_outbox h_regs h_regs2, storeWord_hide h_latches h_regs, effPort_hide h_fab h_latches h_regs, effCommon_hide h_fab h_latches h_regs, effColl_hide h_fab h_host h_latches h_log h_outbox h_regs h_regs2, effCage_hide h_cages h_host h_latches h_log h_outbox h_regs h_regs2, effHbm_hide h_free h_grooms h_host h_latches h_log h_mem h_outbox h_regs h_regs2, effCore_hide h_cores h_host h_latches h_log h_outbox h_regs h_regs2, effDie_hide h_host h_latches h_log h_mem h_outbox h_regs h_regs2, h_boot, h_cages, h_cfg, h_ckpt, h_cores, h_epoch, h_exch, h_fab, h_free, h_grooms, h_hitch, h_host, h_job, h_latches, h_log, h_mem, h_outbox, h_power, h_regs, h_regs2]; simp only [hide, h_boot, h_cages, h_cfg, h_ckpt, h_cores, h_epoch, h_exch, h_fab, h_free, h_grooms, h_hitch, h_host, h_job, h_latches, h_log, h_mem, h_outbox, h_power, h_regs, h_regs2, if_true]; done) | simp only [hide_ite, ite_self, implies_true, forall_const, effGlb_hide h_boot h_cages h_cfg h_ckpt h_cores h_epoch h_exch h_fab h_grooms h_hitch h_host h_job h_latches h_log h_mem h_outbox h_power h_regs h_regs2, secSeal_hide h_boot h_host h_log h_outbox h_regs h_regs2, storeWord_hide h_latches h_regs, effPort_hide h_fab h_latches h_regs, effCommon_hide h_fab h_latches h_regs, effColl_hide h_fab h_host h_latches h_log h_outbox h_regs h_regs2, effCage_hide h_cages h_host h_latches h_log h_outbox h_regs h_regs2, effHbm_hide h_free h_grooms h_host h_latches h_log h_mem h_outbox h_regs h_regs2, effCore_hide h_cores h_host h_latches h_log h_outbox h_regs h_regs2, effDie_hide h_host h_latches h_log h_mem h_outbox h_regs h_regs2, h_boot, h_cages, h_cfg, h_ckpt, h_cores, h_epoch, h_exch, h_fab, h_free, h_grooms, h_hitch, h_host, h_job, h_latches, h_log, h_mem, h_outbox, h_power, h_regs, h_regs2])

theorem writeBar0_hide {L : List Part} (h_boot : Part.boot ∈ L) (h_cages : Part.cages ∈ L) (h_cfg : Part.cfg ∈ L) (h_ckpt : Part.ckpt ∈ L) (h_cores : Part.cores ∈ L) (h_epoch : Part.epoch ∈ L) (h_exch : Part.exch ∈ L) (h_fab : Part.fab ∈ L) (h_free : Part.free ∈ L) (h_grooms : Part.grooms ∈ L) (h_hitch : Part.hitch ∈ L) (h_host : Part.host ∈ L) (h_job : Part.job ∈ L) (h_latches : Part.latches ∈ L) (h_log : Part.log ∈ L) (h_mem : Part.mem ∈ L) (h_outbox : Part.outbox ∈ L) (h_power : Part.power ∈ L) (h_regs : Part.regs ∈ L) (h_regs2 : Part.regs2 ∈ L) (off : Nat) (v : W32) (w : Writer) (s : State) :
    hide L (writeBar0 off v w s) = hide L s := by
  unfold writeBar0
  simp only [hide_ite, ite_self, refuse_hide h_host h_log h_outbox h_regs h_regs2, writeEffect_hide h_boot h_cages h_cfg h_ckpt h_cores h_epoch h_exch h_fab h_free h_grooms h_hitch h_host h_job h_latches h_log h_mem h_outbox h_power h_regs h_regs2]

theorem store2_hide {L : List Part} (h_regs2 : Part.regs2 ∈ L) (off : Nat) (v : W32) (s : State) :
    hide L (store2 off v s) = hide L s := by
  unfold store2
  simp only [reg2Set_hide h_regs2]

theorem writeRing_hide {L : List Part} (h_host : Part.host ∈ L) (h_log : Part.log ∈ L) (h_outbox : Part.outbox ∈ L) (h_regs : Part.regs ∈ L) (h_regs2 : Part.regs2 ∈ L) (r o : Nat) (v : W32) (s : State) :
    hide L (writeRing r o v s) = hide L s := by
  unfold writeRing
  simp only [hide_ite, ite_self, implies_true, forall_const, refuse_hide h_host h_log h_outbox h_regs h_regs2, rf2Set_hide h_regs2, record_hide h_host h_log h_outbox h_regs h_regs2, store2_hide h_regs2, cplDrain_hide h_host h_outbox h_regs2, cmdDoorbell_hide h_host h_log h_outbox h_regs h_regs2, h_host, h_log, h_outbox, h_regs, h_regs2]; (repeat' (first | (simp only [hide_ite, ite_self, implies_true, forall_const, refuse_hide h_host h_log h_outbox h_regs h_regs2, rf2Set_hide h_regs2, record_hide h_host h_log h_outbox h_regs h_regs2, store2_hide h_regs2, cplDrain_hide h_host h_outbox h_regs2, cmdDoorbell_hide h_host h_log h_outbox h_regs h_regs2, h_host, h_log, h_outbox, h_regs, h_regs2]; done) | split | dsimp only))

theorem writeBar2_hide {L : List Part} (h_boot : Part.boot ∈ L) (h_host : Part.host ∈ L) (h_log : Part.log ∈ L) (h_outbox : Part.outbox ∈ L) (h_regs : Part.regs ∈ L) (h_regs2 : Part.regs2 ∈ L) (off : Nat) (v : W32) (s : State) :
    hide L (writeBar2 off v s) = hide L s := by
  unfold writeBar2
  simp only [hide_ite, ite_self, refuse_hide h_host h_log h_outbox h_regs h_regs2, mailboxGo_hide h_boot h_host h_log h_outbox h_regs h_regs2, writeRing_hide h_host h_log h_outbox h_regs h_regs2, msixGo_hide h_outbox h_regs2, store2_hide h_regs2]

theorem writeCfg_hide {L : List Part} (h_cfg : Part.cfg ∈ L) (h_host : Part.host ∈ L) (h_outbox : Part.outbox ∈ L) (h_regs2 : Part.regs2 ∈ L) (off : Nat) (v : W32) (s : State) :
    hide L (writeCfg off v s) = hide L s := by
  unfold writeCfg
  simp only [hide_ite, ite_self, msixGo_hide h_outbox h_regs2, ringsResume_hide h_host h_outbox h_regs2, cfgSet_hide h_cfg]

theorem registerWrite_hide {L : List Part} (h_boot : Part.boot ∈ L) (h_cages : Part.cages ∈ L) (h_cfg : Part.cfg ∈ L) (h_ckpt : Part.ckpt ∈ L) (h_cores : Part.cores ∈ L) (h_epoch : Part.epoch ∈ L) (h_exch : Part.exch ∈ L) (h_fab : Part.fab ∈ L) (h_free : Part.free ∈ L) (h_grooms : Part.grooms ∈ L) (h_hitch : Part.hitch ∈ L) (h_host : Part.host ∈ L) (h_job : Part.job ∈ L) (h_latches : Part.latches ∈ L) (h_log : Part.log ∈ L) (h_mem : Part.mem ∈ L) (h_outbox : Part.outbox ∈ L) (h_power : Part.power ∈ L) (h_regs : Part.regs ∈ L) (h_regs2 : Part.regs2 ∈ L) (bar : Bar) (off : Nat) (v : W32) (w : Writer) (s : State) :
    hide L (registerWrite bar off v w s) = hide L s := by
  unfold registerWrite
  simp only [hide_ite, ite_self, implies_true, forall_const, unsupported_hide h_cfg h_outbox, writeCfg_hide h_cfg h_host h_outbox h_regs2, writeBar0_hide h_boot h_cages h_cfg h_ckpt h_cores h_epoch h_exch h_fab h_free h_grooms h_hitch h_host h_job h_latches h_log h_mem h_outbox h_power h_regs h_regs2, writeBar2_hide h_boot h_host h_log h_outbox h_regs h_regs2, h_boot, h_cages, h_cfg, h_ckpt, h_cores, h_epoch, h_exch, h_fab, h_free, h_grooms, h_hitch, h_host, h_job, h_latches, h_log, h_mem, h_outbox, h_power, h_regs, h_regs2]; (repeat' (first | (simp only [hide_ite, ite_self, implies_true, forall_const, unsupported_hide h_cfg h_outbox, writeCfg_hide h_cfg h_host h_outbox h_regs2, writeBar0_hide h_boot h_cages h_cfg h_ckpt h_cores h_epoch h_exch h_fab h_free h_grooms h_hitch h_host h_job h_latches h_log h_mem h_outbox h_power h_regs h_regs2, writeBar2_hide h_boot h_host h_log h_outbox h_regs h_regs2, h_boot, h_cages, h_cfg, h_ckpt, h_cores, h_epoch, h_exch, h_fab, h_free, h_grooms, h_hitch, h_host, h_job, h_latches, h_log, h_mem, h_outbox, h_power, h_regs, h_regs2]; done) | split | dsimp only))

end Sys2Proof.Machine
end

