-- ==== Sys2Proof/Laws/FramesJob.lean ====
section
/-!
SUPPORT. Hitches, epochs, checkpoints and restarts: what each operation leaves alone. `f_hide` says that `f` changes the parts
named in its hypotheses at most.
-/
namespace Sys2Proof.Machine

set_option linter.unusedSimpArgs false
set_option linter.unusedTactic false
set_option linter.unreachableTactic false

theorem scratchApply_hide {L : List Part} (h_boot : Part.boot ∈ L) (h_cages : Part.cages ∈ L) (h_cfg : Part.cfg ∈ L) (h_ckpt : Part.ckpt ∈ L) (h_cores : Part.cores ∈ L) (h_epoch : Part.epoch ∈ L) (h_exch : Part.exch ∈ L) (h_fab : Part.fab ∈ L) (h_free : Part.free ∈ L) (h_grooms : Part.grooms ∈ L) (h_hitch : Part.hitch ∈ L) (h_host : Part.host ∈ L) (h_job : Part.job ∈ L) (h_latches : Part.latches ∈ L) (h_log : Part.log ∈ L) (h_mem : Part.mem ∈ L) (h_outbox : Part.outbox ∈ L) (h_power : Part.power ∈ L) (h_regs : Part.regs ∈ L) (h_regs2 : Part.regs2 ∈ L) (s : State) (a : Action) :
    hide L (scratchApply s a) = hide L s := by
  unfold scratchApply
  repeat' (first | (simp only [hide_ite, ite_self, implies_true, forall_const, writeEffect_hide h_boot h_cages h_cfg h_ckpt h_cores h_epoch h_exch h_fab h_free h_grooms h_hitch h_host h_job h_latches h_log h_mem h_outbox h_power h_regs h_regs2, rtSet_hide h_fab, h_boot, h_cages, h_cfg, h_ckpt, h_cores, h_epoch, h_exch, h_fab, h_free, h_grooms, h_hitch, h_host, h_job, h_latches, h_log, h_mem, h_outbox, h_power, h_regs, h_regs2]; done) | split | dsimp only | intro _ _ | (refine (hide_foldl _ _ _ ?_).trans ?_) | (refine (hide_foldl_snd _ _ _ ?_).trans ?_) | (simp only [hide, h_boot, h_cages, h_cfg, h_ckpt, h_cores, h_epoch, h_exch, h_fab, h_free, h_grooms, h_hitch, h_host, h_job, h_latches, h_log, h_mem, h_outbox, h_power, h_regs, h_regs2, if_true]; done) | (simp only [hide_ite, ite_self, implies_true, forall_const, writeEffect_hide h_boot h_cages h_cfg h_ckpt h_cores h_epoch h_exch h_fab h_free h_grooms h_hitch h_host h_job h_latches h_log h_mem h_outbox h_power h_regs h_regs2, rtSet_hide h_fab, h_boot, h_cages, h_cfg, h_ckpt, h_cores, h_epoch, h_exch, h_fab, h_free, h_grooms, h_hitch, h_host, h_job, h_latches, h_log, h_mem, h_outbox, h_power, h_regs, h_regs2]; simp only [hide, h_boot, h_cages, h_cfg, h_ckpt, h_cores, h_epoch, h_exch, h_fab, h_free, h_grooms, h_hitch, h_host, h_job, h_latches, h_log, h_mem, h_outbox, h_power, h_regs, h_regs2, if_true]; done) | simp only [hide_ite, ite_self, implies_true, forall_const, writeEffect_hide h_boot h_cages h_cfg h_ckpt h_cores h_epoch h_exch h_fab h_free h_grooms h_hitch h_host h_job h_latches h_log h_mem h_outbox h_power h_regs h_regs2, rtSet_hide h_fab, h_boot, h_cages, h_cfg, h_ckpt, h_cores, h_epoch, h_exch, h_fab, h_free, h_grooms, h_hitch, h_host, h_job, h_latches, h_log, h_mem, h_outbox, h_power, h_regs, h_regs2])

theorem foreHitch_hide {L : List Part} (h_host : Part.host ∈ L) (op : Nat) (tag num : W16) (s : State) :
    hide L (foreHitch op tag num s) = hide L s := by
  unfold foreHitch
  simp only [fore_hide h_host]

theorem abortsEnd_hide {L : List Part} (h_host : Part.host ∈ L) (h_log : Part.log ∈ L) (h_outbox : Part.outbox ∈ L) (h_regs : Part.regs ∈ L) (h_regs2 : Part.regs2 ∈ L) (h : HitchC) (ok : Bool) (s : State) :
    hide L (abortsEnd h ok s) = hide L s := by
  unfold abortsEnd
  simp only [hide_ite, ite_self, implies_true, foreHitch_hide h_host, complete'_hide h_host h_outbox h_regs2, refuseCmd_hide h_host h_log h_outbox h_regs h_regs2, hide_foldl]

theorem hitchDone_hide {L : List Part} (h_hitch : Part.hitch ∈ L) (h_host : Part.host ∈ L) (h_log : Part.log ∈ L) (h_outbox : Part.outbox ∈ L) (h_regs : Part.regs ∈ L) (h_regs2 : Part.regs2 ∈ L) (h : HitchC) (s : State) :
    hide L (hitchDone h s) = hide L s := by
  unfold hitchDone
  simp only [hide_ite, ite_self, implies_true, forall_const, abortsEnd_hide h_host h_log h_outbox h_regs h_regs2, coordPut_hide h_hitch, foreHitch_hide h_host, complete'_hide h_host h_outbox h_regs2, h_hitch, h_host, h_log, h_outbox, h_regs, h_regs2]; (repeat' (first | (simp only [hide_ite, ite_self, implies_true, forall_const, abortsEnd_hide h_host h_log h_outbox h_regs h_regs2, coordPut_hide h_hitch, foreHitch_hide h_host, complete'_hide h_host h_outbox h_regs2, h_hitch, h_host, h_log, h_outbox, h_regs, h_regs2]; done) | split | dsimp only))

theorem hitchAbortDecide_hide {L : List Part} (h_ckpt : Part.ckpt ∈ L) (h_cores : Part.cores ∈ L) (h_fab : Part.fab ∈ L) (h_free : Part.free ∈ L) (h_grooms : Part.grooms ∈ L) (h_hitch : Part.hitch ∈ L) (h_host : Part.host ∈ L) (h_log : Part.log ∈ L) (h_mem : Part.mem ∈ L) (h_outbox : Part.outbox ∈ L) (h_regs : Part.regs ∈ L) (h_regs2 : Part.regs2 ∈ L) (h : HitchC) (cause : Nat) (timedOut : Bool) (s : State) :
    hide L (hitchAbortDecide h cause timedOut s) = hide L s := by
  unfold hitchAbortDecide
  simp only [hide_ite, ite_self, abortsEnd_hide h_host h_log h_outbox h_regs h_regs2, coordPut_hide h_hitch, coordSend_hide h_ckpt h_cores h_fab h_free h_grooms h_host h_log h_mem h_outbox h_regs h_regs2, record_hide h_host h_log h_outbox h_regs h_regs2]

theorem coordFollow_hide {L : List Part} (h_ckpt : Part.ckpt ∈ L) (h_cores : Part.cores ∈ L) (h_fab : Part.fab ∈ L) (h_free : Part.free ∈ L) (h_grooms : Part.grooms ∈ L) (h_hitch : Part.hitch ∈ L) (h_host : Part.host ∈ L) (h_log : Part.log ∈ L) (h_mem : Part.mem ∈ L) (h_outbox : Part.outbox ∈ L) (h_regs : Part.regs ∈ L) (h_regs2 : Part.regs2 ∈ L) (num : W16) (st : HState) (s : State) :
    hide L (coordFollow num st s) = hide L s := by
  unfold coordFollow
  simp only [hide_ite, ite_self, implies_true, forall_const, abortsEnd_hide h_host h_log h_outbox h_regs h_regs2, coordPut_hide h_hitch, hitchAbortDecide_hide h_ckpt h_cores h_fab h_free h_grooms h_hitch h_host h_log h_mem h_outbox h_regs h_regs2, bumpFree_hide h_free, hitchDone_hide h_hitch h_host h_log h_outbox h_regs h_regs2, h_ckpt, h_cores, h_fab, h_free, h_grooms, h_hitch, h_host, h_log, h_mem, h_outbox, h_regs, h_regs2]; (repeat' (first | (simp only [hide_ite, ite_self, implies_true, forall_const, abortsEnd_hide h_host h_log h_outbox h_regs h_regs2, coordPut_hide h_hitch, hitchAbortDecide_hide h_ckpt h_cores h_fab h_free h_grooms h_hitch h_host h_log h_mem h_outbox h_regs h_regs2, bumpFree_hide h_free, hitchDone_hide h_hitch h_host h_log h_outbox h_regs h_regs2, h_ckpt, h_cores, h_fab, h_free, h_grooms, h_hitch, h_host, h_log, h_mem, h_outbox, h_regs, h_regs2]; done) | split | dsimp only))

theorem hitchOpen_hide {L : List Part} (h_hitch : Part.hitch ∈ L) (h_host : Part.host ∈ L) (h_log : Part.log ∈ L) (h_outbox : Part.outbox ∈ L) (h_regs : Part.regs ∈ L) (h_regs2 : Part.regs2 ∈ L) (tag : W16) (ranks : List Nat) (limit : Nat) (s : State) :
    hide L (hitchOpen tag ranks limit s) = hide L s := by
  unfold hitchOpen
  simp only [hide_ite, ite_self, refuseCmd_hide h_host h_log h_outbox h_regs h_regs2, hitchNew_hide h_hitch, complete'_hide h_host h_outbox h_regs2]

theorem hitchStage_hide {L : List Part} (h_free : Part.free ∈ L) (h_hitch : Part.hitch ∈ L) (h_host : Part.host ∈ L) (h_log : Part.log ∈ L) (h_outbox : Part.outbox ∈ L) (h_regs : Part.regs ∈ L) (h_regs2 : Part.regs2 ∈ L) (tag num : W16) (rank : Nat) (a : Action) (s : State) :
    hide L (hitchStage tag num rank a s) = hide L s := by
  unfold hitchStage
  simp only [hide_ite, ite_self, implies_true, forall_const, refuseCmd_hide h_host h_log h_outbox h_regs h_regs2, bumpFree_hide h_free, complete'_hide h_host h_outbox h_regs2, coordPut_hide h_hitch, h_free, h_hitch, h_host, h_log, h_outbox, h_regs, h_regs2]; (repeat' (first | (simp only [hide_ite, ite_self, implies_true, forall_const, refuseCmd_hide h_host h_log h_outbox h_regs h_regs2, bumpFree_hide h_free, complete'_hide h_host h_outbox h_regs2, coordPut_hide h_hitch, h_free, h_hitch, h_host, h_log, h_outbox, h_regs, h_regs2]; done) | split | dsimp only))

theorem hitchCommit_hide {L : List Part} (h_ckpt : Part.ckpt ∈ L) (h_cores : Part.cores ∈ L) (h_fab : Part.fab ∈ L) (h_free : Part.free ∈ L) (h_grooms : Part.grooms ∈ L) (h_hitch : Part.hitch ∈ L) (h_host : Part.host ∈ L) (h_log : Part.log ∈ L) (h_mem : Part.mem ∈ L) (h_outbox : Part.outbox ∈ L) (h_regs : Part.regs ∈ L) (h_regs2 : Part.regs2 ∈ L) (tag num : W16) (s : State) :
    hide L (hitchCommit tag num s) = hide L s := by
  unfold hitchCommit
  repeat' (first | (simp only [hide_ite, ite_self, implies_true, forall_const, refuseCmd_hide h_host h_log h_outbox h_regs h_regs2, prepareSend_hide h_ckpt h_cores h_fab h_free h_grooms h_hitch h_host h_log h_mem h_outbox h_regs h_regs2, h_ckpt, h_cores, h_fab, h_free, h_grooms, h_hitch, h_host, h_log, h_mem, h_outbox, h_regs, h_regs2]; done) | split | dsimp only | intro _ _ | (refine (hide_foldl _ _ _ ?_).trans ?_) | (refine (hide_foldl_snd _ _ _ ?_).trans ?_) | (simp only [hide, h_ckpt, h_cores, h_fab, h_free, h_grooms, h_hitch, h_host, h_log, h_mem, h_outbox, h_regs, h_regs2, if_true]; done) | (simp only [hide_ite, ite_self, implies_true, forall_const, refuseCmd_hide h_host h_log h_outbox h_regs h_regs2, prepareSend_hide h_ckpt h_cores h_fab h_free h_grooms h_hitch h_host h_log h_mem h_outbox h_regs h_regs2, h_ckpt, h_cores, h_fab, h_free, h_grooms, h_hitch, h_host, h_log, h_mem, h_outbox, h_regs, h_regs2]; simp only [hide, h_ckpt, h_cores, h_fab, h_free, h_grooms, h_hitch, h_host, h_log, h_mem, h_outbox, h_regs, h_regs2, if_true]; done) | simp only [hide_ite, ite_self, implies_true, forall_const, refuseCmd_hide h_host h_log h_outbox h_regs h_regs2, prepareSend_hide h_ckpt h_cores h_fab h_free h_grooms h_hitch h_host h_log h_mem h_outbox h_regs h_regs2, h_ckpt, h_cores, h_fab, h_free, h_grooms, h_hitch, h_host, h_log, h_mem, h_outbox, h_regs, h_regs2])

theorem hitchAbort_hide {L : List Part} (h_ckpt : Part.ckpt ∈ L) (h_cores : Part.cores ∈ L) (h_fab : Part.fab ∈ L) (h_free : Part.free ∈ L) (h_grooms : Part.grooms ∈ L) (h_hitch : Part.hitch ∈ L) (h_host : Part.host ∈ L) (h_log : Part.log ∈ L) (h_mem : Part.mem ∈ L) (h_outbox : Part.outbox ∈ L) (h_regs : Part.regs ∈ L) (h_regs2 : Part.regs2 ∈ L) (tag num : W16) (s : State) :
    hide L (hitchAbort tag num s) = hide L s := by
  unfold hitchAbort
  repeat' (first | (simp only [hide_ite, ite_self, implies_true, forall_const, refuseCmd_hide h_host h_log h_outbox h_regs h_regs2, complete'_hide h_host h_outbox h_regs2, coordPut_hide h_hitch, hitchAbortDecide_hide h_ckpt h_cores h_fab h_free h_grooms h_hitch h_host h_log h_mem h_outbox h_regs h_regs2, sendRank_hide h_ckpt h_cores h_fab h_free h_grooms h_host h_log h_mem h_outbox h_regs h_regs2, h_ckpt, h_cores, h_fab, h_free, h_grooms, h_hitch, h_host, h_log, h_mem, h_outbox, h_regs, h_regs2]; done) | split | dsimp only | intro _ _ | (refine (hide_foldl _ _ _ ?_).trans ?_) | (refine (hide_foldl_snd _ _ _ ?_).trans ?_) | (simp only [hide, h_ckpt, h_cores, h_fab, h_free, h_grooms, h_hitch, h_host, h_log, h_mem, h_outbox, h_regs, h_regs2, if_true]; done) | (simp only [hide_ite, ite_self, implies_true, forall_const, refuseCmd_hide h_host h_log h_outbox h_regs h_regs2, complete'_hide h_host h_outbox h_regs2, coordPut_hide h_hitch, hitchAbortDecide_hide h_ckpt h_cores h_fab h_free h_grooms h_hitch h_host h_log h_mem h_outbox h_regs h_regs2, sendRank_hide h_ckpt h_cores h_fab h_free h_grooms h_host h_log h_mem h_outbox h_regs h_regs2, h_ckpt, h_cores, h_fab, h_free, h_grooms, h_hitch, h_host, h_log, h_mem, h_outbox, h_regs, h_regs2]; simp only [hide, h_ckpt, h_cores, h_fab, h_free, h_grooms, h_hitch, h_host, h_log, h_mem, h_outbox, h_regs, h_regs2, if_true]; done) | simp only [hide_ite, ite_self, implies_true, forall_const, refuseCmd_hide h_host h_log h_outbox h_regs h_regs2, complete'_hide h_host h_outbox h_regs2, coordPut_hide h_hitch, hitchAbortDecide_hide h_ckpt h_cores h_fab h_free h_grooms h_hitch h_host h_log h_mem h_outbox h_regs h_regs2, sendRank_hide h_ckpt h_cores h_fab h_free h_grooms h_host h_log h_mem h_outbox h_regs h_regs2, h_ckpt, h_cores, h_fab, h_free, h_grooms, h_hitch, h_host, h_log, h_mem, h_outbox, h_regs, h_regs2])

theorem hitchQuery_hide {L : List Part} (h_host : Part.host ∈ L) (h_log : Part.log ∈ L) (h_outbox : Part.outbox ∈ L) (h_regs : Part.regs ∈ L) (h_regs2 : Part.regs2 ∈ L) (tag num : W16) (s : State) :
    hide L (hitchQuery tag num s) = hide L s := by
  unfold hitchQuery
  repeat' (first | (simp only [hide_ite, ite_self, implies_true, forall_const, refuseCmd_hide h_host h_log h_outbox h_regs h_regs2, complete'_hide h_host h_outbox h_regs2, h_host, h_log, h_outbox, h_regs, h_regs2]; done) | split | dsimp only | intro _ _ | (refine (hide_foldl _ _ _ ?_).trans ?_) | (refine (hide_foldl_snd _ _ _ ?_).trans ?_) | (simp only [hide, h_host, h_log, h_outbox, h_regs, h_regs2, if_true]; done) | (simp only [hide_ite, ite_self, implies_true, forall_const, refuseCmd_hide h_host h_log h_outbox h_regs h_regs2, complete'_hide h_host h_outbox h_regs2, h_host, h_log, h_outbox, h_regs, h_regs2]; simp only [hide, h_host, h_log, h_outbox, h_regs, h_regs2, if_true]; done) | simp only [hide_ite, ite_self, implies_true, forall_const, refuseCmd_hide h_host h_log h_outbox h_regs h_regs2, complete'_hide h_host h_outbox h_regs2, h_host, h_log, h_outbox, h_regs, h_regs2])

theorem hitchVote_hide {L : List Part} (h_ckpt : Part.ckpt ∈ L) (h_cores : Part.cores ∈ L) (h_fab : Part.fab ∈ L) (h_free : Part.free ∈ L) (h_grooms : Part.grooms ∈ L) (h_hitch : Part.hitch ∈ L) (h_host : Part.host ∈ L) (h_log : Part.log ∈ L) (h_mem : Part.mem ∈ L) (h_outbox : Part.outbox ∈ L) (h_regs : Part.regs ∈ L) (h_regs2 : Part.regs2 ∈ L) (num : W16) (rank cause : Nat) (s : State) :
    hide L (hitchVote num rank cause s) = hide L s := by
  unfold hitchVote
  simp only [hide_ite, ite_self, implies_true, forall_const, hitchAbortDecide_hide h_ckpt h_cores h_fab h_free h_grooms h_hitch h_host h_log h_mem h_outbox h_regs h_regs2, coordSend_hide h_ckpt h_cores h_fab h_free h_grooms h_host h_log h_mem h_outbox h_regs h_regs2, abortsEnd_hide h_host h_log h_outbox h_regs h_regs2, coordPut_hide h_hitch, h_ckpt, h_cores, h_fab, h_free, h_grooms, h_hitch, h_host, h_log, h_mem, h_outbox, h_regs, h_regs2]; (repeat' (first | (simp only [hide_ite, ite_self, implies_true, forall_const, hitchAbortDecide_hide h_ckpt h_cores h_fab h_free h_grooms h_hitch h_host h_log h_mem h_outbox h_regs h_regs2, coordSend_hide h_ckpt h_cores h_fab h_free h_grooms h_host h_log h_mem h_outbox h_regs h_regs2, abortsEnd_hide h_host h_log h_outbox h_regs h_regs2, coordPut_hide h_hitch, h_ckpt, h_cores, h_fab, h_free, h_grooms, h_hitch, h_host, h_log, h_mem, h_outbox, h_regs, h_regs2]; done) | split | dsimp only))

theorem hitchPrepareTimeout_hide {L : List Part} (h_ckpt : Part.ckpt ∈ L) (h_cores : Part.cores ∈ L) (h_fab : Part.fab ∈ L) (h_free : Part.free ∈ L) (h_grooms : Part.grooms ∈ L) (h_hitch : Part.hitch ∈ L) (h_host : Part.host ∈ L) (h_log : Part.log ∈ L) (h_mem : Part.mem ∈ L) (h_outbox : Part.outbox ∈ L) (h_regs : Part.regs ∈ L) (h_regs2 : Part.regs2 ∈ L) (num : W16) (s : State) :
    hide L (hitchPrepareTimeout num s) = hide L s := by
  unfold hitchPrepareTimeout
  repeat' (first | (simp only [hide_ite, ite_self, implies_true, forall_const, hitchAbortDecide_hide h_ckpt h_cores h_fab h_free h_grooms h_hitch h_host h_log h_mem h_outbox h_regs h_regs2, h_ckpt, h_cores, h_fab, h_free, h_grooms, h_hitch, h_host, h_log, h_mem, h_outbox, h_regs, h_regs2]; done) | split | dsimp only | intro _ _ | (refine (hide_foldl _ _ _ ?_).trans ?_) | (refine (hide_foldl_snd _ _ _ ?_).trans ?_) | (simp only [hide, h_ckpt, h_cores, h_fab, h_free, h_grooms, h_hitch, h_host, h_log, h_mem, h_outbox, h_regs, h_regs2, if_true]; done) | (simp only [hide_ite, ite_self, implies_true, forall_const, hitchAbortDecide_hide h_ckpt h_cores h_fab h_free h_grooms h_hitch h_host h_log h_mem h_outbox h_regs h_regs2, h_ckpt, h_cores, h_fab, h_free, h_grooms, h_hitch, h_host, h_log, h_mem, h_outbox, h_regs, h_regs2]; simp only [hide, h_ckpt, h_cores, h_fab, h_free, h_grooms, h_hitch, h_host, h_log, h_mem, h_outbox, h_regs, h_regs2, if_true]; done) | simp only [hide_ite, ite_self, implies_true, forall_const, hitchAbortDecide_hide h_ckpt h_cores h_fab h_free h_grooms h_hitch h_host h_log h_mem h_outbox h_regs h_regs2, h_ckpt, h_cores, h_fab, h_free, h_grooms, h_hitch, h_host, h_log, h_mem, h_outbox, h_regs, h_regs2])

theorem hitchAck_hide {L : List Part} (h_ckpt : Part.ckpt ∈ L) (h_cores : Part.cores ∈ L) (h_fab : Part.fab ∈ L) (h_free : Part.free ∈ L) (h_grooms : Part.grooms ∈ L) (h_hitch : Part.hitch ∈ L) (h_host : Part.host ∈ L) (h_log : Part.log ∈ L) (h_mem : Part.mem ∈ L) (h_outbox : Part.outbox ∈ L) (h_regs : Part.regs ∈ L) (h_regs2 : Part.regs2 ∈ L) (num : W16) (rank : Nat) (s : State) :
    hide L (hitchAck num rank s) = hide L s := by
  unfold hitchAck
  simp only [hide_ite, ite_self, implies_true, forall_const, coordSend_hide h_ckpt h_cores h_fab h_free h_grooms h_host h_log h_mem h_outbox h_regs h_regs2, laneAddRetry_hide h_ckpt h_cores h_fab h_free h_grooms h_hitch h_host h_log h_mem h_outbox h_regs h_regs2, hitchDone_hide h_hitch h_host h_log h_outbox h_regs h_regs2, coordPut_hide h_hitch, h_ckpt, h_cores, h_fab, h_free, h_grooms, h_hitch, h_host, h_log, h_mem, h_outbox, h_regs, h_regs2]; (repeat' (first | (simp only [hide_ite, ite_self, implies_true, forall_const, coordSend_hide h_ckpt h_cores h_fab h_free h_grooms h_host h_log h_mem h_outbox h_regs h_regs2, laneAddRetry_hide h_ckpt h_cores h_fab h_free h_grooms h_hitch h_host h_log h_mem h_outbox h_regs h_regs2, hitchDone_hide h_hitch h_host h_log h_outbox h_regs h_regs2, coordPut_hide h_hitch, h_ckpt, h_cores, h_fab, h_free, h_grooms, h_hitch, h_host, h_log, h_mem, h_outbox, h_regs, h_regs2]; done) | split | dsimp only))

theorem holdPorts_hide {L : List Part} (h_fab : Part.fab ∈ L) (num : W16) (v : Bool) (acts : List Action) (s : State) :
    hide L (holdPorts num v acts s) = hide L s := by
  unfold holdPorts
  simp only [implies_true, portMod_hide h_fab, hide_foldl]

theorem moveRing_hide {L : List Part} (h_hitch : Part.hitch ∈ L) (h_regs : Part.regs ∈ L) (num : W16) (s : State) (a : Action) :
    hide L (moveRing num s a) = hide L s := by
  unfold moveRing
  simp only [hide_ite, ite_self, implies_true, forall_const, partPut_hide h_hitch, ringStateSet_hide h_regs, ringCode_hide h_regs, h_hitch, h_regs]; (repeat' (first | (simp only [hide_ite, ite_self, implies_true, forall_const, partPut_hide h_hitch, ringStateSet_hide h_regs, ringCode_hide h_regs, h_hitch, h_regs]; done) | split | dsimp only))

theorem hitchTakeOver_hide {L : List Part} (h_ckpt : Part.ckpt ∈ L) (h_cores : Part.cores ∈ L) (h_fab : Part.fab ∈ L) (h_free : Part.free ∈ L) (h_grooms : Part.grooms ∈ L) (h_hitch : Part.hitch ∈ L) (h_host : Part.host ∈ L) (h_log : Part.log ∈ L) (h_mem : Part.mem ∈ L) (h_outbox : Part.outbox ∈ L) (h_regs : Part.regs ∈ L) (h_regs2 : Part.regs2 ∈ L) (num : W16) (limit : Nat) (all : List (Nat × Action)) (s : State) :
    hide L (hitchTakeOver num limit all s) = hide L s := by
  unfold hitchTakeOver
  simp only [hide_hitch h_hitch, coordSend_hide h_ckpt h_cores h_fab h_free h_grooms h_host h_log h_mem h_outbox h_regs h_regs2]

theorem hitchPrepare_hide {L : List Part} (h_ckpt : Part.ckpt ∈ L) (h_cores : Part.cores ∈ L) (h_fab : Part.fab ∈ L) (h_free : Part.free ∈ L) (h_grooms : Part.grooms ∈ L) (h_hitch : Part.hitch ∈ L) (h_host : Part.host ∈ L) (h_log : Part.log ∈ L) (h_mem : Part.mem ∈ L) (h_outbox : Part.outbox ∈ L) (h_regs : Part.regs ∈ L) (h_regs2 : Part.regs2 ∈ L) (num : W16) (coord limit : Nat) (all : List (Nat × Action)) (s : State) :
    hide L (hitchPrepare num coord limit all s) = hide L s := by
  unfold hitchPrepare
  simp only [hide_ite, ite_self, implies_true, hide_hitch h_hitch, hitchTakeOver_hide h_ckpt h_cores h_fab h_free h_grooms h_hitch h_host h_log h_mem h_outbox h_regs h_regs2, sendRank_hide h_ckpt h_cores h_fab h_free h_grooms h_host h_log h_mem h_outbox h_regs h_regs2, moveRing_hide h_hitch h_regs, holdPorts_hide h_fab, hide_foldl]

theorem ringsGo_hide {L : List Part} (h_hitch : Part.hitch ∈ L) (h_regs : Part.regs ∈ L) (h : HitchP) (s : State) :
    hide L (ringsGo h s) = hide L s := by
  unfold ringsGo
  simp only [implies_true, moveRing_hide h_hitch h_regs, hide_foldl]

theorem locksNote_hide {L : List Part} (h_regs : Part.regs ∈ L) (acts : List Action) (locks : List RingLock) (s : State) :
    hide L (locksNote acts locks s) = hide L s := by
  unfold locksNote
  repeat' (first | (simp only [hide_ite, ite_self, implies_true, forall_const, rfSet_hide h_regs, ringCode_hide h_regs, h_regs, hide_foldl, hide_foldl_fst, hide_foldl_snd]; done) | split | dsimp only | intro _ _ | (refine (hide_foldl _ _ _ ?_).trans ?_) | (refine (hide_foldl_snd _ _ _ ?_).trans ?_) | (simp only [hide, h_regs, if_true]; done) | (simp only [hide_ite, ite_self, implies_true, forall_const, rfSet_hide h_regs, ringCode_hide h_regs, h_regs, hide_foldl, hide_foldl_fst, hide_foldl_snd]; simp only [hide, h_regs, if_true]; done) | simp only [hide_ite, ite_self, implies_true, forall_const, rfSet_hide h_regs, ringCode_hide h_regs, h_regs, hide_foldl, hide_foldl_fst, hide_foldl_snd])

theorem hitchPrepared_hide {L : List Part} (h_ckpt : Part.ckpt ∈ L) (h_cores : Part.cores ∈ L) (h_fab : Part.fab ∈ L) (h_free : Part.free ∈ L) (h_grooms : Part.grooms ∈ L) (h_hitch : Part.hitch ∈ L) (h_host : Part.host ∈ L) (h_log : Part.log ∈ L) (h_mem : Part.mem ∈ L) (h_outbox : Part.outbox ∈ L) (h_regs : Part.regs ∈ L) (h_regs2 : Part.regs2 ∈ L) (num : W16) (locks : List RingLock) (trained : List (Fin 24 × Fin 8)) (s : State) :
    hide L (hitchPrepared num locks trained s) = hide L s := by
  unfold hitchPrepared
  repeat' (first | (simp only [hide_ite, ite_self, implies_true, forall_const, ringsGo_hide h_hitch h_regs, portMod_hide h_fab, locksNote_hide h_regs, sendRank_hide h_ckpt h_cores h_fab h_free h_grooms h_host h_log h_mem h_outbox h_regs h_regs2, partPut_hide h_hitch, h_ckpt, h_cores, h_fab, h_free, h_grooms, h_hitch, h_host, h_log, h_mem, h_outbox, h_regs, h_regs2, hide_foldl, hide_foldl_fst, hide_foldl_snd]; done) | split | dsimp only | intro _ _ | (refine (hide_foldl _ _ _ ?_).trans ?_) | (refine (hide_foldl_snd _ _ _ ?_).trans ?_) | (simp only [hide, h_ckpt, h_cores, h_fab, h_free, h_grooms, h_hitch, h_host, h_log, h_mem, h_outbox, h_regs, h_regs2, if_true]; done) | (simp only [hide_ite, ite_self, implies_true, forall_const, ringsGo_hide h_hitch h_regs, portMod_hide h_fab, locksNote_hide h_regs, sendRank_hide h_ckpt h_cores h_fab h_free h_grooms h_host h_log h_mem h_outbox h_regs h_regs2, partPut_hide h_hitch, h_ckpt, h_cores, h_fab, h_free, h_grooms, h_hitch, h_host, h_log, h_mem, h_outbox, h_regs, h_regs2, hide_foldl, hide_foldl_fst, hide_foldl_snd]; simp only [hide, h_ckpt, h_cores, h_fab, h_free, h_grooms, h_hitch, h_host, h_log, h_mem, h_outbox, h_regs, h_regs2, if_true]; done) | simp only [hide_ite, ite_self, implies_true, forall_const, ringsGo_hide h_hitch h_regs, portMod_hide h_fab, locksNote_hide h_regs, sendRank_hide h_ckpt h_cores h_fab h_free h_grooms h_host h_log h_mem h_outbox h_regs h_regs2, partPut_hide h_hitch, h_ckpt, h_cores, h_fab, h_free, h_grooms, h_hitch, h_host, h_log, h_mem, h_outbox, h_regs, h_regs2, hide_foldl, hide_foldl_fst, hide_foldl_snd])

theorem applyOne_hide {L : List Part} (h_boot : Part.boot ∈ L) (h_cages : Part.cages ∈ L) (h_cfg : Part.cfg ∈ L) (h_ckpt : Part.ckpt ∈ L) (h_cores : Part.cores ∈ L) (h_epoch : Part.epoch ∈ L) (h_exch : Part.exch ∈ L) (h_fab : Part.fab ∈ L) (h_free : Part.free ∈ L) (h_grooms : Part.grooms ∈ L) (h_hitch : Part.hitch ∈ L) (h_host : Part.host ∈ L) (h_job : Part.job ∈ L) (h_latches : Part.latches ∈ L) (h_log : Part.log ∈ L) (h_mem : Part.mem ∈ L) (h_outbox : Part.outbox ∈ L) (h_power : Part.power ∈ L) (h_regs : Part.regs ∈ L) (h_regs2 : Part.regs2 ∈ L) (s : State) (a : Action) :
    hide L (applyOne s a) = hide L s := by
  unfold applyOne
  simp only [hide_ite, ite_self, implies_true, forall_const, writeEffect_hide h_boot h_cages h_cfg h_ckpt h_cores h_epoch h_exch h_fab h_free h_grooms h_hitch h_host h_job h_latches h_log h_mem h_outbox h_power h_regs h_regs2, rtSet_hide h_fab, ringPark_hide h_cages h_regs, ringStateSet_hide h_regs, rfSet_hide h_regs, h_boot, h_cages, h_cfg, h_ckpt, h_cores, h_epoch, h_exch, h_fab, h_free, h_grooms, h_hitch, h_host, h_job, h_latches, h_log, h_mem, h_outbox, h_power, h_regs, h_regs2]; (repeat' (first | (simp only [hide_ite, ite_self, implies_true, forall_const, writeEffect_hide h_boot h_cages h_cfg h_ckpt h_cores h_epoch h_exch h_fab h_free h_grooms h_hitch h_host h_job h_latches h_log h_mem h_outbox h_power h_regs h_regs2, rtSet_hide h_fab, ringPark_hide h_cages h_regs, ringStateSet_hide h_regs, rfSet_hide h_regs, h_boot, h_cages, h_cfg, h_ckpt, h_cores, h_epoch, h_exch, h_fab, h_free, h_grooms, h_hitch, h_host, h_job, h_latches, h_log, h_mem, h_outbox, h_power, h_regs, h_regs2]; done) | split | dsimp only))

theorem lanesTake_hide {L : List Part} (h_fab : Part.fab ∈ L) (h_host : Part.host ∈ L) (h_log : Part.log ∈ L) (h_outbox : Part.outbox ∈ L) (h_regs : Part.regs ∈ L) (h_regs2 : Part.regs2 ∈ L) (acts : List Action) (before s : State) :
    hide L (lanesTake acts before s) = hide L s := by
  unfold lanesTake
  simp only [implies_true, lanesApply_hide h_fab h_host h_log h_outbox h_regs h_regs2, hide_foldl]

theorem resendEdited_hide {L : List Part} (h_ckpt : Part.ckpt ∈ L) (h_cores : Part.cores ∈ L) (h_fab : Part.fab ∈ L) (h_free : Part.free ∈ L) (h_grooms : Part.grooms ∈ L) (h_host : Part.host ∈ L) (h_log : Part.log ∈ L) (h_mem : Part.mem ∈ L) (h_outbox : Part.outbox ∈ L) (h_regs : Part.regs ∈ L) (h_regs2 : Part.regs2 ∈ L) (edited : List Nat) (s : State) :
    hide L (resendEdited edited s) = hide L s := by
  unfold resendEdited
  simp only [implies_true, injectGo_hide h_ckpt h_cores h_fab h_free h_grooms h_host h_log h_mem h_outbox h_regs h_regs2, hide_foldl]

theorem hitchCommitted_hide {L : List Part} (h_boot : Part.boot ∈ L) (h_cages : Part.cages ∈ L) (h_cfg : Part.cfg ∈ L) (h_ckpt : Part.ckpt ∈ L) (h_cores : Part.cores ∈ L) (h_epoch : Part.epoch ∈ L) (h_exch : Part.exch ∈ L) (h_fab : Part.fab ∈ L) (h_free : Part.free ∈ L) (h_grooms : Part.grooms ∈ L) (h_hitch : Part.hitch ∈ L) (h_host : Part.host ∈ L) (h_job : Part.job ∈ L) (h_latches : Part.latches ∈ L) (h_log : Part.log ∈ L) (h_mem : Part.mem ∈ L) (h_outbox : Part.outbox ∈ L) (h_power : Part.power ∈ L) (h_regs : Part.regs ∈ L) (h_regs2 : Part.regs2 ∈ L) (num : W16) (s : State) :
    hide L (hitchCommitted num s) = hide L s := by
  unfold hitchCommitted
  simp only [hide_ite, ite_self, implies_true, forall_const, lanesTake_hide h_fab h_host h_log h_outbox h_regs h_regs2, applyOne_hide h_boot h_cages h_cfg h_ckpt h_cores h_epoch h_exch h_fab h_free h_grooms h_hitch h_host h_job h_latches h_log h_mem h_outbox h_power h_regs h_regs2, resendEdited_hide h_ckpt h_cores h_fab h_free h_grooms h_host h_log h_mem h_outbox h_regs h_regs2, sendRank_hide h_ckpt h_cores h_fab h_free h_grooms h_host h_log h_mem h_outbox h_regs h_regs2, coordFollow_hide h_ckpt h_cores h_fab h_free h_grooms h_hitch h_host h_log h_mem h_outbox h_regs h_regs2, partPut_hide h_hitch, h_boot, h_cages, h_cfg, h_ckpt, h_cores, h_epoch, h_exch, h_fab, h_free, h_grooms, h_hitch, h_host, h_job, h_latches, h_log, h_mem, h_outbox, h_power, h_regs, h_regs2, hide_foldl, hide_foldl_fst, hide_foldl_snd]; (repeat' (first | (simp only [hide_ite, ite_self, implies_true, forall_const, lanesTake_hide h_fab h_host h_log h_outbox h_regs h_regs2, applyOne_hide h_boot h_cages h_cfg h_ckpt h_cores h_epoch h_exch h_fab h_free h_grooms h_hitch h_host h_job h_latches h_log h_mem h_outbox h_power h_regs h_regs2, resendEdited_hide h_ckpt h_cores h_fab h_free h_grooms h_host h_log h_mem h_outbox h_regs h_regs2, sendRank_hide h_ckpt h_cores h_fab h_free h_grooms h_host h_log h_mem h_outbox h_regs h_regs2, coordFollow_hide h_ckpt h_cores h_fab h_free h_grooms h_hitch h_host h_log h_mem h_outbox h_regs h_regs2, partPut_hide h_hitch, h_boot, h_cages, h_cfg, h_ckpt, h_cores, h_epoch, h_exch, h_fab, h_free, h_grooms, h_hitch, h_host, h_job, h_latches, h_log, h_mem, h_outbox, h_power, h_regs, h_regs2, hide_foldl, hide_foldl_fst, hide_foldl_snd]; done) | split | dsimp only))

theorem reopen_hide {L : List Part} (h_cages : Part.cages ∈ L) (h_ckpt : Part.ckpt ∈ L) (h_cores : Part.cores ∈ L) (h_fab : Part.fab ∈ L) (h_free : Part.free ∈ L) (h_grooms : Part.grooms ∈ L) (h_hitch : Part.hitch ∈ L) (h_host : Part.host ∈ L) (h_log : Part.log ∈ L) (h_mem : Part.mem ∈ L) (h_outbox : Part.outbox ∈ L) (h_regs : Part.regs ∈ L) (h_regs2 : Part.regs2 ∈ L) (h : HitchP) (s : State) :
    hide L (reopen h s) = hide L s := by
  unfold reopen
  simp only [holdPorts_hide h_fab, partDrop_hide h_hitch, laneAddRetry_hide h_ckpt h_cores h_fab h_free h_grooms h_hitch h_host h_log h_mem h_outbox h_regs h_regs2, pumpAll_hide h_fab h_outbox h_regs, retryStuck_hide h_ckpt h_cores h_fab h_free h_grooms h_host h_log h_mem h_outbox h_regs h_regs2, releaseHeld_hide h_ckpt h_cores h_fab h_free h_grooms h_host h_log h_mem h_outbox h_regs h_regs2, swapsResume_hide h_cages h_fab h_host h_log h_outbox h_regs h_regs2]

theorem hitchRelease_hide {L : List Part} (h_cages : Part.cages ∈ L) (h_ckpt : Part.ckpt ∈ L) (h_cores : Part.cores ∈ L) (h_fab : Part.fab ∈ L) (h_free : Part.free ∈ L) (h_grooms : Part.grooms ∈ L) (h_hitch : Part.hitch ∈ L) (h_host : Part.host ∈ L) (h_log : Part.log ∈ L) (h_mem : Part.mem ∈ L) (h_outbox : Part.outbox ∈ L) (h_regs : Part.regs ∈ L) (h_regs2 : Part.regs2 ∈ L) (num : W16) (s : State) :
    hide L (hitchRelease num s) = hide L s := by
  unfold hitchRelease
  simp only [hide_ite, ite_self, implies_true, forall_const, reopen_hide h_cages h_ckpt h_cores h_fab h_free h_grooms h_hitch h_host h_log h_mem h_outbox h_regs h_regs2, coordFollow_hide h_ckpt h_cores h_fab h_free h_grooms h_hitch h_host h_log h_mem h_outbox h_regs h_regs2, pumpAll_hide h_fab h_outbox h_regs, linkResend_hide h_fab h_outbox h_regs, h_cages, h_ckpt, h_cores, h_fab, h_free, h_grooms, h_hitch, h_host, h_log, h_mem, h_outbox, h_regs, h_regs2, hide_foldl, hide_foldl_fst, hide_foldl_snd]; (repeat' (first | (simp only [hide_ite, ite_self, implies_true, forall_const, reopen_hide h_cages h_ckpt h_cores h_fab h_free h_grooms h_hitch h_host h_log h_mem h_outbox h_regs h_regs2, coordFollow_hide h_ckpt h_cores h_fab h_free h_grooms h_hitch h_host h_log h_mem h_outbox h_regs h_regs2, pumpAll_hide h_fab h_outbox h_regs, linkResend_hide h_fab h_outbox h_regs, h_cages, h_ckpt, h_cores, h_fab, h_free, h_grooms, h_hitch, h_host, h_log, h_mem, h_outbox, h_regs, h_regs2, hide_foldl, hide_foldl_fst, hide_foldl_snd]; done) | split | dsimp only))

theorem undoBegin_hide {L : List Part} (h_fab : Part.fab ∈ L) (h_hitch : Part.hitch ∈ L) (h : HitchP) (s : State) :
    hide L (undoBegin h s) = hide L s := by
  unfold undoBegin
  repeat' (first | (simp only [hide_ite, ite_self, implies_true, forall_const, partPut_hide h_hitch, portMod_hide h_fab, h_fab, h_hitch, hide_foldl, hide_foldl_fst, hide_foldl_snd]; done) | split | dsimp only | intro _ _ | (refine (hide_foldl _ _ _ ?_).trans ?_) | (refine (hide_foldl_snd _ _ _ ?_).trans ?_) | (simp only [hide, h_fab, h_hitch, if_true]; done) | (simp only [hide_ite, ite_self, implies_true, forall_const, partPut_hide h_hitch, portMod_hide h_fab, h_fab, h_hitch, hide_foldl, hide_foldl_fst, hide_foldl_snd]; simp only [hide, h_fab, h_hitch, if_true]; done) | simp only [hide_ite, ite_self, implies_true, forall_const, partPut_hide h_hitch, portMod_hide h_fab, h_fab, h_hitch, hide_foldl, hide_foldl_fst, hide_foldl_snd])

theorem hitchAborted_hide {L : List Part} (h_ckpt : Part.ckpt ∈ L) (h_cores : Part.cores ∈ L) (h_fab : Part.fab ∈ L) (h_free : Part.free ∈ L) (h_grooms : Part.grooms ∈ L) (h_hitch : Part.hitch ∈ L) (h_host : Part.host ∈ L) (h_log : Part.log ∈ L) (h_mem : Part.mem ∈ L) (h_outbox : Part.outbox ∈ L) (h_regs : Part.regs ∈ L) (h_regs2 : Part.regs2 ∈ L) (num : W16) (s : State) :
    hide L (hitchAborted num s) = hide L s := by
  unfold hitchAborted
  repeat' (first | (simp only [hide_ite, ite_self, implies_true, forall_const, undoBegin_hide h_fab h_hitch, coordFollow_hide h_ckpt h_cores h_fab h_free h_grooms h_hitch h_host h_log h_mem h_outbox h_regs h_regs2, h_ckpt, h_cores, h_fab, h_free, h_grooms, h_hitch, h_host, h_log, h_mem, h_outbox, h_regs, h_regs2]; done) | split | dsimp only | intro _ _ | (refine (hide_foldl _ _ _ ?_).trans ?_) | (refine (hide_foldl_snd _ _ _ ?_).trans ?_) | (simp only [hide, h_ckpt, h_cores, h_fab, h_free, h_grooms, h_hitch, h_host, h_log, h_mem, h_outbox, h_regs, h_regs2, if_true]; done) | (simp only [hide_ite, ite_self, implies_true, forall_const, undoBegin_hide h_fab h_hitch, coordFollow_hide h_ckpt h_cores h_fab h_free h_grooms h_hitch h_host h_log h_mem h_outbox h_regs h_regs2, h_ckpt, h_cores, h_fab, h_free, h_grooms, h_hitch, h_host, h_log, h_mem, h_outbox, h_regs, h_regs2]; simp only [hide, h_ckpt, h_cores, h_fab, h_free, h_grooms, h_hitch, h_host, h_log, h_mem, h_outbox, h_regs, h_regs2, if_true]; done) | simp only [hide_ite, ite_self, implies_true, forall_const, undoBegin_hide h_fab h_hitch, coordFollow_hide h_ckpt h_cores h_fab h_free h_grooms h_hitch h_host h_log h_mem h_outbox h_regs h_regs2, h_ckpt, h_cores, h_fab, h_free, h_grooms, h_hitch, h_host, h_log, h_mem, h_outbox, h_regs, h_regs2])

theorem hitchDecisionTimeout_hide {L : List Part} (h_fab : Part.fab ∈ L) (h_free : Part.free ∈ L) (h_hitch : Part.hitch ∈ L) (h_host : Part.host ∈ L) (h_log : Part.log ∈ L) (h_outbox : Part.outbox ∈ L) (h_regs : Part.regs ∈ L) (h_regs2 : Part.regs2 ∈ L) (num : W16) (s : State) :
    hide L (hitchDecisionTimeout num s) = hide L s := by
  unfold hitchDecisionTimeout
  simp only [hide_ite, ite_self, implies_true, forall_const, record_hide h_host h_log h_outbox h_regs h_regs2, undoBegin_hide h_fab h_hitch, bumpFree_hide h_free, h_fab, h_free, h_hitch, h_host, h_log, h_outbox, h_regs, h_regs2]; (repeat' (first | (simp only [hide_ite, ite_self, implies_true, forall_const, record_hide h_host h_log h_outbox h_regs h_regs2, undoBegin_hide h_fab h_hitch, bumpFree_hide h_free, h_fab, h_free, h_hitch, h_host, h_log, h_outbox, h_regs, h_regs2]; done) | split | dsimp only))

theorem ringsBack_hide {L : List Part} (h_cages : Part.cages ∈ L) (h_fab : Part.fab ∈ L) (h_host : Part.host ∈ L) (h_log : Part.log ∈ L) (h_outbox : Part.outbox ∈ L) (h_regs : Part.regs ∈ L) (h_regs2 : Part.regs2 ∈ L) (h : HitchP) (s : State) :
    hide L (ringsBack h s) = hide L s := by
  unfold ringsBack
  simp only [implies_true, mislock_hide h_cages h_fab h_host h_log h_outbox h_regs h_regs2, regSet_hide h_regs, hide_foldl]

theorem hitchUndoDone_hide {L : List Part} (h_cages : Part.cages ∈ L) (h_ckpt : Part.ckpt ∈ L) (h_cores : Part.cores ∈ L) (h_fab : Part.fab ∈ L) (h_free : Part.free ∈ L) (h_grooms : Part.grooms ∈ L) (h_hitch : Part.hitch ∈ L) (h_host : Part.host ∈ L) (h_log : Part.log ∈ L) (h_mem : Part.mem ∈ L) (h_outbox : Part.outbox ∈ L) (h_regs : Part.regs ∈ L) (h_regs2 : Part.regs2 ∈ L) (num : W16) (s : State) :
    hide L (hitchUndoDone num s) = hide L s := by
  unfold hitchUndoDone
  simp only [hide_ite, ite_self, implies_true, forall_const, ringsBack_hide h_cages h_fab h_host h_log h_outbox h_regs h_regs2, reopen_hide h_cages h_ckpt h_cores h_fab h_free h_grooms h_hitch h_host h_log h_mem h_outbox h_regs h_regs2, sendRank_hide h_ckpt h_cores h_fab h_free h_grooms h_host h_log h_mem h_outbox h_regs h_regs2, h_cages, h_ckpt, h_cores, h_fab, h_free, h_grooms, h_hitch, h_host, h_log, h_mem, h_outbox, h_regs, h_regs2]; (repeat' (first | (simp only [hide_ite, ite_self, implies_true, forall_const, ringsBack_hide h_cages h_fab h_host h_log h_outbox h_regs h_regs2, reopen_hide h_cages h_ckpt h_cores h_fab h_free h_grooms h_hitch h_host h_log h_mem h_outbox h_regs h_regs2, sendRank_hide h_ckpt h_cores h_fab h_free h_grooms h_host h_log h_mem h_outbox h_regs h_regs2, h_cages, h_ckpt, h_cores, h_fab, h_free, h_grooms, h_hitch, h_host, h_log, h_mem, h_outbox, h_regs, h_regs2]; done) | split | dsimp only))

theorem templateOpen_hide {L : List Part} (h_ckpt : Part.ckpt ∈ L) (h_cores : Part.cores ∈ L) (h_fab : Part.fab ∈ L) (h_free : Part.free ∈ L) (h_grooms : Part.grooms ∈ L) (h_hitch : Part.hitch ∈ L) (h_host : Part.host ∈ L) (h_log : Part.log ∈ L) (h_mem : Part.mem ∈ L) (h_outbox : Part.outbox ∈ L) (h_regs : Part.regs ∈ L) (h_regs2 : Part.regs2 ∈ L) (s : State) (t : Template) :
    hide L (templateOpen s t) = hide L s := by
  unfold templateOpen
  simp only [hide_ite, ite_self, hitchNew_hide h_hitch, bumpFree_hide h_free, record_hide h_host h_log h_outbox h_regs h_regs2, coordPut_hide h_hitch, prepareSend_hide h_ckpt h_cores h_fab h_free h_grooms h_hitch h_host h_log h_mem h_outbox h_regs h_regs2]

theorem templatesRun_hide {L : List Part} (h_ckpt : Part.ckpt ∈ L) (h_cores : Part.cores ∈ L) (h_fab : Part.fab ∈ L) (h_free : Part.free ∈ L) (h_grooms : Part.grooms ∈ L) (h_hitch : Part.hitch ∈ L) (h_host : Part.host ∈ L) (h_job : Part.job ∈ L) (h_log : Part.log ∈ L) (h_mem : Part.mem ∈ L) (h_outbox : Part.outbox ∈ L) (h_regs : Part.regs ∈ L) (h_regs2 : Part.regs2 ∈ L) (s : State) :
    hide L (templatesRun s) = hide L s := by
  unfold templatesRun
  simp only [hide_ite, ite_self, implies_true, hide_job h_job, templateOpen_hide h_ckpt h_cores h_fab h_free h_grooms h_hitch h_host h_log h_mem h_outbox h_regs h_regs2, hide_foldl]

theorem partResolve_hide {L : List Part} (h_cages : Part.cages ∈ L) (h_fab : Part.fab ∈ L) (h_hitch : Part.hitch ∈ L) (h_host : Part.host ∈ L) (h_log : Part.log ∈ L) (h_outbox : Part.outbox ∈ L) (h_regs : Part.regs ∈ L) (h_regs2 : Part.regs2 ∈ L) (s : State) (h : HitchP) :
    hide L (partResolve s h) = hide L s := by
  unfold partResolve
  simp only [hide_ite, ite_self, ringsBack_hide h_cages h_fab h_host h_log h_outbox h_regs h_regs2, undoBegin_hide h_fab h_hitch, holdPorts_hide h_fab, partDrop_hide h_hitch]

theorem coordResolve_hide {L : List Part} (h_hitch : Part.hitch ∈ L) (h_host : Part.host ∈ L) (h_log : Part.log ∈ L) (h_outbox : Part.outbox ∈ L) (h_regs : Part.regs ∈ L) (h_regs2 : Part.regs2 ∈ L) (s : State) (h : HitchC) :
    hide L (coordResolve s h) = hide L s := by
  unfold coordResolve
  simp only [hide_ite, ite_self, implies_true, forall_const, hitchDone_hide h_hitch h_host h_log h_outbox h_regs h_regs2, record_hide h_host h_log h_outbox h_regs h_regs2, h_hitch, h_host, h_log, h_outbox, h_regs, h_regs2]; (repeat' (first | (simp only [hide_ite, ite_self, implies_true, forall_const, hitchDone_hide h_hitch h_host h_log h_outbox h_regs h_regs2, record_hide h_host h_log h_outbox h_regs h_regs2, h_hitch, h_host, h_log, h_outbox, h_regs, h_regs2]; done) | split | dsimp only))

theorem hitchesResolve_hide {L : List Part} (h_cages : Part.cages ∈ L) (h_fab : Part.fab ∈ L) (h_hitch : Part.hitch ∈ L) (h_host : Part.host ∈ L) (h_log : Part.log ∈ L) (h_outbox : Part.outbox ∈ L) (h_regs : Part.regs ∈ L) (h_regs2 : Part.regs2 ∈ L) (s : State) :
    hide L (hitchesResolve s) = hide L s := by
  unfold hitchesResolve
  simp only [implies_true, portMod_hide h_fab, coordResolve_hide h_hitch h_host h_log h_outbox h_regs h_regs2, partResolve_hide h_cages h_fab h_hitch h_host h_log h_outbox h_regs h_regs2, hide_foldl]

theorem deviceEpochClose_hide {L : List Part} (h_ckpt : Part.ckpt ∈ L) (h_cores : Part.cores ∈ L) (h_fab : Part.fab ∈ L) (h_free : Part.free ∈ L) (h_grooms : Part.grooms ∈ L) (h_hitch : Part.hitch ∈ L) (h_host : Part.host ∈ L) (h_job : Part.job ∈ L) (h_log : Part.log ∈ L) (h_mem : Part.mem ∈ L) (h_outbox : Part.outbox ∈ L) (h_regs : Part.regs ∈ L) (h_regs2 : Part.regs2 ∈ L) (s : State) :
    hide L (deviceEpochClose s) = hide L s := by
  unfold deviceEpochClose
  simp only [hide_ite, ite_self, templatesRun_hide h_ckpt h_cores h_fab h_free h_grooms h_hitch h_host h_job h_log h_mem h_outbox h_regs h_regs2, deviceEpochCloseCore_hide h_cores h_free h_host h_log h_outbox h_regs h_regs2]

theorem barrierJoinMsg_hide {L : List Part} (h_ckpt : Part.ckpt ∈ L) (h_cores : Part.cores ∈ L) (h_epoch : Part.epoch ∈ L) (h_fab : Part.fab ∈ L) (h_free : Part.free ∈ L) (h_grooms : Part.grooms ∈ L) (h_host : Part.host ∈ L) (h_log : Part.log ∈ L) (h_mem : Part.mem ∈ L) (h_outbox : Part.outbox ∈ L) (h_regs : Part.regs ∈ L) (h_regs2 : Part.regs2 ∈ L) (rank : Nat) (req : Bool) (interval : Nat) (s : State) :
    hide L (barrierJoinMsg rank req interval s) = hide L s := by
  unfold barrierJoinMsg
  repeat' (first | (simp only [hide_ite, ite_self, implies_true, forall_const, hide_epoch h_epoch, hide_free h_free, sendAll_hide h_ckpt h_cores h_fab h_free h_grooms h_host h_log h_mem h_outbox h_regs h_regs2, h_ckpt, h_cores, h_epoch, h_fab, h_free, h_grooms, h_host, h_log, h_mem, h_outbox, h_regs, h_regs2, hide_free_epoch h_free h_epoch]; done) | dsimp only | split)

theorem barrierCloseMsg_hide {L : List Part} (h_cores : Part.cores ∈ L) (h_epoch : Part.epoch ∈ L) (h_free : Part.free ∈ L) (h_host : Part.host ∈ L) (h_log : Part.log ∈ L) (h_outbox : Part.outbox ∈ L) (h_regs : Part.regs ∈ L) (h_regs2 : Part.regs2 ∈ L) (shadow storage : Bool) (s : State) :
    hide L (barrierCloseMsg shadow storage s) = hide L s := by
  unfold barrierCloseMsg
  simp only [hide_ite, ite_self, hide_epoch h_epoch, epochRelease_hide h_cores h_free h_host h_log h_outbox h_regs h_regs2]

theorem descStepAll_hide {L : List Part} (h_cores : Part.cores ∈ L) (s : State) :
    hide L (descStepAll s) = hide L s := by
  unfold descStepAll
  simp only [implies_true, coreMod_hide h_cores, hide_foldl]

theorem cutFail_hide {L : List Part} (h_ckpt : Part.ckpt ∈ L) (h_grooms : Part.grooms ∈ L) (h_host : Part.host ∈ L) (h_log : Part.log ∈ L) (h_outbox : Part.outbox ∈ L) (h_regs : Part.regs ∈ L) (h_regs2 : Part.regs2 ∈ L) (s : State) :
    hide L (cutFail s) = hide L s := by
  unfold cutFail
  simp only [hide_ite, ite_self, implies_true, forall_const, hide_ckpt h_ckpt, groomMod_hide h_grooms, record_hide h_host h_log h_outbox h_regs h_regs2, h_ckpt, h_grooms, h_host, h_log, h_outbox, h_regs, h_regs2, hide_foldl, hide_foldl_fst, hide_foldl_snd]; (repeat' (first | (simp only [hide_ite, ite_self, implies_true, forall_const, hide_ckpt h_ckpt, groomMod_hide h_grooms, record_hide h_host h_log h_outbox h_regs h_regs2, h_ckpt, h_grooms, h_host, h_log, h_outbox, h_regs, h_regs2, hide_foldl, hide_foldl_fst, hide_foldl_snd]; done) | split | dsimp only))

theorem cutTake_hide {L : List Part} (h_ckpt : Part.ckpt ∈ L) (h_grooms : Part.grooms ∈ L) (h_host : Part.host ∈ L) (h_log : Part.log ∈ L) (h_outbox : Part.outbox ∈ L) (h_regs : Part.regs ∈ L) (h_regs2 : Part.regs2 ∈ L) (step : Nat) (shadow storage : Bool) (s : State) :
    hide L (cutTake step shadow storage s) = hide L s := by
  unfold cutTake
  simp only [hide_ite, ite_self, implies_true, hide_ckpt h_ckpt, evAdvance_hide h_log, cutFail_hide h_ckpt h_grooms h_host h_log h_outbox h_regs h_regs2, cutFreeze_hide h_ckpt h_grooms, hide_foldl]

theorem stepCommit_hide {L : List Part} (h_ckpt : Part.ckpt ∈ L) (h_cores : Part.cores ∈ L) (h_epoch : Part.epoch ∈ L) (h_grooms : Part.grooms ∈ L) (h_host : Part.host ∈ L) (h_job : Part.job ∈ L) (h_log : Part.log ∈ L) (h_outbox : Part.outbox ∈ L) (h_regs : Part.regs ∈ L) (h_regs2 : Part.regs2 ∈ L) (s : State) :
    hide L (stepCommit s) = hide L s := by
  unfold stepCommit
  repeat' (first | (simp only [hide_ite, ite_self, implies_true, forall_const, hide_epoch h_epoch, hide_job h_job, descStepAll_hide h_cores, reg64Set_hide h_regs, regSet_hide h_regs, cutTake_hide h_ckpt h_grooms h_host h_log h_outbox h_regs h_regs2, h_ckpt, h_cores, h_epoch, h_grooms, h_host, h_job, h_log, h_outbox, h_regs, h_regs2, hide_foldl, hide_foldl_fst, hide_foldl_snd, hide_epoch_job h_epoch h_job]; done) | dsimp only | split)

theorem reportsSend_hide {L : List Part} (h_ckpt : Part.ckpt ∈ L) (h_cores : Part.cores ∈ L) (h_epoch : Part.epoch ∈ L) (h_fab : Part.fab ∈ L) (h_free : Part.free ∈ L) (h_grooms : Part.grooms ∈ L) (h_host : Part.host ∈ L) (h_log : Part.log ∈ L) (h_mem : Part.mem ∈ L) (h_outbox : Part.outbox ∈ L) (h_regs : Part.regs ∈ L) (h_regs2 : Part.regs2 ∈ L) (s : State) :
    hide L (reportsSend s) = hide L s := by
  unfold reportsSend
  repeat' (first | (simp only [hide_ite, ite_self, implies_true, forall_const, hide_epoch h_epoch, hide_log h_log, sendRank_hide h_ckpt h_cores h_fab h_free h_grooms h_host h_log h_mem h_outbox h_regs h_regs2, h_ckpt, h_cores, h_epoch, h_fab, h_free, h_grooms, h_host, h_log, h_mem, h_outbox, h_regs, h_regs2, hide_foldl, hide_foldl_fst, hide_foldl_snd]; done) | split | dsimp only | intro _ _ | (refine (hide_foldl _ _ _ ?_).trans ?_) | (refine (hide_foldl_snd _ _ _ ?_).trans ?_) | (simp only [hide, h_ckpt, h_cores, h_epoch, h_fab, h_free, h_grooms, h_host, h_log, h_mem, h_outbox, h_regs, h_regs2, if_true]; done) | (simp only [hide_ite, ite_self, implies_true, forall_const, hide_epoch h_epoch, hide_log h_log, sendRank_hide h_ckpt h_cores h_fab h_free h_grooms h_host h_log h_mem h_outbox h_regs h_regs2, h_ckpt, h_cores, h_epoch, h_fab, h_free, h_grooms, h_host, h_log, h_mem, h_outbox, h_regs, h_regs2, hide_foldl, hide_foldl_fst, hide_foldl_snd]; simp only [hide, h_ckpt, h_cores, h_epoch, h_fab, h_free, h_grooms, h_host, h_log, h_mem, h_outbox, h_regs, h_regs2, if_true]; done) | simp only [hide_ite, ite_self, implies_true, forall_const, hide_epoch h_epoch, hide_log h_log, sendRank_hide h_ckpt h_cores h_fab h_free h_grooms h_host h_log h_mem h_outbox h_regs h_regs2, h_ckpt, h_cores, h_epoch, h_fab, h_free, h_grooms, h_host, h_log, h_mem, h_outbox, h_regs, h_regs2, hide_foldl, hide_foldl_fst, hide_foldl_snd])

theorem termsAge_hide {L : List Part} (h_log : Part.log ∈ L) (s : State) :
    hide L (termsAge s) = hide L s := by
  unfold termsAge
  simp only [hide_log h_log]

theorem riskTick_hide {L : List Part} (h_ckpt : Part.ckpt ∈ L) (h_cores : Part.cores ∈ L) (h_epoch : Part.epoch ∈ L) (h_fab : Part.fab ∈ L) (h_free : Part.free ∈ L) (h_grooms : Part.grooms ∈ L) (h_host : Part.host ∈ L) (h_log : Part.log ∈ L) (h_mem : Part.mem ∈ L) (h_outbox : Part.outbox ∈ L) (h_regs : Part.regs ∈ L) (h_regs2 : Part.regs2 ∈ L) (decay : List Nat) (s : State) :
    hide L (riskTick decay s) = hide L s := by
  unfold riskTick
  simp only [hide_ite, ite_self, rfSet_hide h_regs, termsAge_hide h_log, record_hide h_host h_log h_outbox h_regs h_regs2, reportsSend_hide h_ckpt h_cores h_epoch h_fab h_free h_grooms h_host h_log h_mem h_outbox h_regs h_regs2]

theorem twinSet_hide {L : List Part} (h_regs : Part.regs ∈ L) (v : Nat) (s : State) :
    hide L (twinSet v s) = hide L s := by
  unfold twinSet
  simp only [rfSet_hide h_regs]

theorem twinPairing_hide {L : List Part} (h_host : Part.host ∈ L) (h_log : Part.log ∈ L) (h_outbox : Part.outbox ∈ L) (h_regs : Part.regs ∈ L) (h_regs2 : Part.regs2 ∈ L) (h : BitVec 13) (side : BitVec 1) (feed : BitVec 3) (s : State) :
    hide L (twinPairing h side feed s) = hide L s := by
  unfold twinPairing
  simp only [hide_ite, ite_self, rfSet_hide h_regs, record_hide h_host h_log h_outbox h_regs h_regs2, twinSet_hide h_regs, msix_hide h_outbox h_regs2]

theorem twinHeartbeat_hide {L : List Part} (h_ckpt : Part.ckpt ∈ L) (h_cores : Part.cores ∈ L) (h_fab : Part.fab ∈ L) (h_free : Part.free ∈ L) (h_grooms : Part.grooms ∈ L) (h_host : Part.host ∈ L) (h_log : Part.log ∈ L) (h_mem : Part.mem ∈ L) (h_outbox : Part.outbox ∈ L) (h_regs : Part.regs ∈ L) (h_regs2 : Part.regs2 ∈ L) (s : State) :
    hide L (twinHeartbeat s) = hide L s := by
  unfold twinHeartbeat
  simp only [hide_ite, ite_self, sendTo_hide h_ckpt h_cores h_fab h_free h_grooms h_host h_log h_mem h_outbox h_regs h_regs2]

theorem shadowFail_hide {L : List Part} (h_ckpt : Part.ckpt ∈ L) (h_grooms : Part.grooms ∈ L) (h_host : Part.host ∈ L) (h_log : Part.log ∈ L) (h_outbox : Part.outbox ∈ L) (h_regs : Part.regs ∈ L) (h_regs2 : Part.regs2 ∈ L) (s : State) :
    hide L (shadowFail s) = hide L s := by
  unfold shadowFail
  simp only [hide_ite, ite_self, implies_true, forall_const, hide_ckpt h_ckpt, record_hide h_host h_log h_outbox h_regs h_regs2, cutFail_hide h_ckpt h_grooms h_host h_log h_outbox h_regs h_regs2, h_ckpt, h_grooms, h_host, h_log, h_outbox, h_regs, h_regs2]; (repeat' (first | (simp only [hide_ite, ite_self, implies_true, forall_const, hide_ckpt h_ckpt, record_hide h_host h_log h_outbox h_regs h_regs2, cutFail_hide h_ckpt h_grooms h_host h_log h_outbox h_regs h_regs2, h_ckpt, h_grooms, h_host, h_log, h_outbox, h_regs, h_regs2]; done) | split | dsimp only))

theorem twinHeartbeatTimeout_hide {L : List Part} (h_ckpt : Part.ckpt ∈ L) (h_grooms : Part.grooms ∈ L) (h_host : Part.host ∈ L) (h_log : Part.log ∈ L) (h_outbox : Part.outbox ∈ L) (h_regs : Part.regs ∈ L) (h_regs2 : Part.regs2 ∈ L) (s : State) :
    hide L (twinHeartbeatTimeout s) = hide L s := by
  unfold twinHeartbeatTimeout
  simp only [hide_ite, ite_self, implies_true, forall_const, shadowFail_hide h_ckpt h_grooms h_host h_log h_outbox h_regs h_regs2, record_hide h_host h_log h_outbox h_regs h_regs2, twinSet_hide h_regs, h_ckpt, h_grooms, h_host, h_log, h_outbox, h_regs, h_regs2]; (repeat' (first | (simp only [hide_ite, ite_self, implies_true, forall_const, shadowFail_hide h_ckpt h_grooms h_host h_log h_outbox h_regs h_regs2, record_hide h_host h_log h_outbox h_regs h_regs2, twinSet_hide h_regs, h_ckpt, h_grooms, h_host, h_log, h_outbox, h_regs, h_regs2]; done) | split | dsimp only))

theorem twinReview_hide {L : List Part} (h_regs : Part.regs ∈ L) (s : State) :
    hide L (twinReview s) = hide L s := by
  unfold twinReview
  simp only [hide_ite, ite_self, twinSet_hide h_regs]

theorem farrierLaneRepair_hide {L : List Part} (h_boot : Part.boot ∈ L) (h_ckpt : Part.ckpt ∈ L) (h_cores : Part.cores ∈ L) (h_fab : Part.fab ∈ L) (h_free : Part.free ∈ L) (h_grooms : Part.grooms ∈ L) (h_hitch : Part.hitch ∈ L) (h_host : Part.host ∈ L) (h_log : Part.log ∈ L) (h_mem : Part.mem ∈ L) (h_outbox : Part.outbox ∈ L) (h_regs : Part.regs ∈ L) (h_regs2 : Part.regs2 ∈ L) (p lane : Nat) (r : RepairResult) (s : State) :
    hide L (farrierLaneRepair p lane r s) = hide L s := by
  unfold farrierLaneRepair
  simp only [hide_ite, ite_self, implies_true, forall_const, hide_boot h_boot, laneAddHitch_hide h_ckpt h_cores h_fab h_free h_grooms h_hitch h_host h_log h_mem h_outbox h_regs h_regs2, portMod_hide h_fab, record_hide h_host h_log h_outbox h_regs h_regs2, rfSet_hide h_regs, bumpFree_hide h_free, h_boot, h_ckpt, h_cores, h_fab, h_free, h_grooms, h_hitch, h_host, h_log, h_mem, h_outbox, h_regs, h_regs2]; (repeat' (first | (simp only [hide_ite, ite_self, implies_true, forall_const, hide_boot h_boot, laneAddHitch_hide h_ckpt h_cores h_fab h_free h_grooms h_hitch h_host h_log h_mem h_outbox h_regs h_regs2, portMod_hide h_fab, record_hide h_host h_log h_outbox h_regs h_regs2, rfSet_hide h_regs, bumpFree_hide h_free, h_boot, h_ckpt, h_cores, h_fab, h_free, h_grooms, h_hitch, h_host, h_log, h_mem, h_outbox, h_regs, h_regs2]; done) | split | dsimp only))

theorem rowsGood_hide {L : List Part} (h_free : Part.free ∈ L) (h_mem : Part.mem ∈ L) (rows : List (Nat × Nat)) (s : State) :
    hide L (rowsGood rows s) = hide L s := by
  unfold rowsGood
  repeat' (first | (simp only [hide_ite, ite_self, implies_true, forall_const, hide_free h_free, hide_mem h_mem, h_free, h_mem, hide_foldl, hide_foldl_fst, hide_foldl_snd]; done) | split | dsimp only | intro _ _ | (refine (hide_foldl _ _ _ ?_).trans ?_) | (refine (hide_foldl_snd _ _ _ ?_).trans ?_) | (simp only [hide, h_free, h_mem, if_true]; done) | (simp only [hide_ite, ite_self, implies_true, forall_const, hide_free h_free, hide_mem h_mem, h_free, h_mem, hide_foldl, hide_foldl_fst, hide_foldl_snd]; simp only [hide, h_free, h_mem, if_true]; done) | simp only [hide_ite, ite_self, implies_true, forall_const, hide_free h_free, hide_mem h_mem, h_free, h_mem, hide_foldl, hide_foldl_fst, hide_foldl_snd])

theorem farrierRepair_hide {L : List Part} (h_boot : Part.boot ∈ L) (h_free : Part.free ∈ L) (h_host : Part.host ∈ L) (h_log : Part.log ∈ L) (h_mem : Part.mem ∈ L) (h_outbox : Part.outbox ∈ L) (h_regs : Part.regs ∈ L) (h_regs2 : Part.regs2 ∈ L) (rows stalls : List (Fin 256)) (s : State) :
    hide L (farrierRepair rows stalls s) = hide L s := by
  unfold farrierRepair
  simp only [hide_ite, ite_self, hide_boot h_boot, rowsGood_hide h_free h_mem, record_hide h_host h_log h_outbox h_regs h_regs2]

theorem engineRead_hide {L : List Part} (h_log : Part.log ∈ L) (h_mem : Part.mem ∈ L) (h_regs : Part.regs ∈ L) (a n : Nat) (s : State) :
    hide L (engineRead a n s).2 = hide L s := by
  unfold engineRead
  simp only [hide_ite, ite_self, readErrors_hide h_log h_mem h_regs, hbmAccess_hide h_log h_mem h_regs]

theorem rangesRead_hide {L : List Part} (h_log : Part.log ∈ L) (h_mem : Part.mem ∈ L) (h_regs : Part.regs ∈ L) (s : State) :
    hide L (rangesRead s).2 = hide L s := by
  unfold rangesRead
  repeat' (first | (simp only [hide_ite, ite_self, implies_true, forall_const, engineRead_hide h_log h_mem h_regs, h_log, h_mem, h_regs, hide_foldl, hide_foldl_fst, hide_foldl_snd]; done) | split | dsimp only | intro _ _ | (refine (hide_foldl _ _ _ ?_).trans ?_) | (refine (hide_foldl_snd _ _ _ ?_).trans ?_) | (simp only [hide, h_log, h_mem, h_regs, if_true]; done) | (simp only [hide_ite, ite_self, implies_true, forall_const, engineRead_hide h_log h_mem h_regs, h_log, h_mem, h_regs, hide_foldl, hide_foldl_fst, hide_foldl_snd]; simp only [hide, h_log, h_mem, h_regs, if_true]; done) | simp only [hide_ite, ite_self, implies_true, forall_const, engineRead_hide h_log h_mem h_regs, h_log, h_mem, h_regs, hide_foldl, hide_foldl_fst, hide_foldl_snd])

theorem imageSend_hide {L : List Part} (h_ckpt : Part.ckpt ∈ L) (h_cores : Part.cores ∈ L) (h_fab : Part.fab ∈ L) (h_free : Part.free ∈ L) (h_grooms : Part.grooms ∈ L) (h_host : Part.host ∈ L) (h_log : Part.log ∈ L) (h_mem : Part.mem ∈ L) (h_outbox : Part.outbox ∈ L) (h_regs : Part.regs ∈ L) (h_regs2 : Part.regs2 ∈ L) (dst slot step : Nat) (manifest rest : List Byte) (s : State) :
    hide L (imageSend dst slot step manifest rest s) = hide L s := by
  unfold imageSend
  simp only [implies_true, spaceSend_hide h_ckpt h_cores h_fab h_free h_grooms h_host h_log h_mem h_outbox h_regs h_regs2, pumpAll_hide h_fab h_outbox h_regs, hide_foldl]

theorem storageSend_hide {L : List Part} (h_ckpt : Part.ckpt ∈ L) (h_cores : Part.cores ∈ L) (h_fab : Part.fab ∈ L) (h_free : Part.free ∈ L) (h_grooms : Part.grooms ∈ L) (h_host : Part.host ∈ L) (h_log : Part.log ∈ L) (h_mem : Part.mem ∈ L) (h_outbox : Part.outbox ∈ L) (h_regs : Part.regs ∈ L) (h_regs2 : Part.regs2 ∈ L) (c : Cut) (s : State) :
    hide L (storageSend c s) = hide L s := by
  unfold storageSend
  simp only [imageSend_hide h_ckpt h_cores h_fab h_free h_grooms h_host h_log h_mem h_outbox h_regs h_regs2]

theorem shadowSend_hide {L : List Part} (h_ckpt : Part.ckpt ∈ L) (h_cores : Part.cores ∈ L) (h_fab : Part.fab ∈ L) (h_free : Part.free ∈ L) (h_grooms : Part.grooms ∈ L) (h_host : Part.host ∈ L) (h_log : Part.log ∈ L) (h_mem : Part.mem ∈ L) (h_outbox : Part.outbox ∈ L) (h_regs : Part.regs ∈ L) (h_regs2 : Part.regs2 ∈ L) (c : Cut) (s : State) :
    hide L (shadowSend c s) = hide L s := by
  unfold shadowSend
  simp only [hide_ckpt h_ckpt, imageSend_hide h_ckpt h_cores h_fab h_free h_grooms h_host h_log h_mem h_outbox h_regs h_regs2, emit_hide h_outbox]

theorem servingSend_hide {L : List Part} (h_ckpt : Part.ckpt ∈ L) (h_cores : Part.cores ∈ L) (h_fab : Part.fab ∈ L) (h_free : Part.free ∈ L) (h_grooms : Part.grooms ∈ L) (h_host : Part.host ∈ L) (h_log : Part.log ∈ L) (h_mem : Part.mem ∈ L) (h_outbox : Part.outbox ∈ L) (h_regs : Part.regs ∈ L) (h_regs2 : Part.regs2 ∈ L) (x : Serving) (s : State) :
    hide L (servingSend x s) = hide L s := by
  unfold servingSend
  simp only [hide_ite, ite_self, implies_true, engineRead_hide h_log h_mem h_regs, spaceSend_hide h_ckpt h_cores h_fab h_free h_grooms h_host h_log h_mem h_outbox h_regs h_regs2, hide_foldl]

theorem servingGo_hide {L : List Part} (h_ckpt : Part.ckpt ∈ L) (h_cores : Part.cores ∈ L) (h_fab : Part.fab ∈ L) (h_free : Part.free ∈ L) (h_grooms : Part.grooms ∈ L) (h_host : Part.host ∈ L) (h_log : Part.log ∈ L) (h_mem : Part.mem ∈ L) (h_outbox : Part.outbox ∈ L) (h_regs : Part.regs ∈ L) (h_regs2 : Part.regs2 ∈ L) (s : State) :
    hide L (servingGo s) = hide L s := by
  unfold servingGo
  simp only [hide_ite, ite_self, implies_true, hide_ckpt h_ckpt, pumpAll_hide h_fab h_outbox h_regs, servingSend_hide h_ckpt h_cores h_fab h_free h_grooms h_host h_log h_mem h_outbox h_regs h_regs2, hide_foldl]

theorem cutStream_hide {L : List Part} (h_ckpt : Part.ckpt ∈ L) (h_cores : Part.cores ∈ L) (h_fab : Part.fab ∈ L) (h_free : Part.free ∈ L) (h_grooms : Part.grooms ∈ L) (h_host : Part.host ∈ L) (h_log : Part.log ∈ L) (h_mem : Part.mem ∈ L) (h_outbox : Part.outbox ∈ L) (h_regs : Part.regs ∈ L) (h_regs2 : Part.regs2 ∈ L) (s : State) :
    hide L (cutStream s) = hide L s := by
  unfold cutStream
  simp only [hide_ite, ite_self, implies_true, forall_const, hide_ckpt h_ckpt, rangesRead_hide h_log h_mem h_regs, cutFail_hide h_ckpt h_grooms h_host h_log h_outbox h_regs h_regs2, shadowSend_hide h_ckpt h_cores h_fab h_free h_grooms h_host h_log h_mem h_outbox h_regs h_regs2, storageSend_hide h_ckpt h_cores h_fab h_free h_grooms h_host h_log h_mem h_outbox h_regs h_regs2, h_ckpt, h_cores, h_fab, h_free, h_grooms, h_host, h_log, h_mem, h_outbox, h_regs, h_regs2]; (repeat' (first | (simp only [hide_ite, ite_self, implies_true, forall_const, hide_ckpt h_ckpt, rangesRead_hide h_log h_mem h_regs, cutFail_hide h_ckpt h_grooms h_host h_log h_outbox h_regs h_regs2, shadowSend_hide h_ckpt h_cores h_fab h_free h_grooms h_host h_log h_mem h_outbox h_regs h_regs2, storageSend_hide h_ckpt h_cores h_fab h_free h_grooms h_host h_log h_mem h_outbox h_regs h_regs2, h_ckpt, h_cores, h_fab, h_free, h_grooms, h_host, h_log, h_mem, h_outbox, h_regs, h_regs2]; done) | split | dsimp only))

theorem shadowStream_hide {L : List Part} (h_ckpt : Part.ckpt ∈ L) (h_cores : Part.cores ∈ L) (h_fab : Part.fab ∈ L) (h_free : Part.free ∈ L) (h_grooms : Part.grooms ∈ L) (h_host : Part.host ∈ L) (h_log : Part.log ∈ L) (h_mem : Part.mem ∈ L) (h_outbox : Part.outbox ∈ L) (h_regs : Part.regs ∈ L) (h_regs2 : Part.regs2 ∈ L) (s : State) :
    hide L (shadowStream s) = hide L s := by
  unfold shadowStream
  simp only [cutStream_hide h_ckpt h_cores h_fab h_free h_grooms h_host h_log h_mem h_outbox h_regs h_regs2, servingGo_hide h_ckpt h_cores h_fab h_free h_grooms h_host h_log h_mem h_outbox h_regs h_regs2]

theorem cutClose_hide {L : List Part} (h_ckpt : Part.ckpt ∈ L) (c : Cut) (s : State) :
    hide L (cutClose c s) = hide L s := by
  unfold cutClose
  simp only [hide_ckpt h_ckpt]

theorem shadowAck_hide {L : List Part} (h_ckpt : Part.ckpt ∈ L) (h_host : Part.host ∈ L) (h_outbox : Part.outbox ∈ L) (h_regs : Part.regs ∈ L) (h_regs2 : Part.regs2 ∈ L) (slot : Nat) (step : W64) (s : State) :
    hide L (shadowAck slot step s) = hide L s := by
  unfold shadowAck
  simp only [hide_ite, ite_self, implies_true, forall_const, hide_ckpt h_ckpt, health_hide h_host h_outbox h_regs h_regs2, cutClose_hide h_ckpt, h_ckpt, h_host, h_outbox, h_regs, h_regs2]; (repeat' (first | (simp only [hide_ite, ite_self, implies_true, forall_const, hide_ckpt h_ckpt, health_hide h_host h_outbox h_regs h_regs2, cutClose_hide h_ckpt, h_ckpt, h_host, h_outbox, h_regs, h_regs2]; done) | split | dsimp only))

theorem storageCkptDone_hide {L : List Part} (h_ckpt : Part.ckpt ∈ L) (h_host : Part.host ∈ L) (h_outbox : Part.outbox ∈ L) (h_regs : Part.regs ∈ L) (h_regs2 : Part.regs2 ∈ L) (s : State) :
    hide L (storageCkptDone s) = hide L s := by
  unfold storageCkptDone
  repeat' (first | (simp only [hide_ite, ite_self, implies_true, forall_const, health_hide h_host h_outbox h_regs h_regs2, cutClose_hide h_ckpt, reg64Set_hide h_regs, h_ckpt, h_host, h_outbox, h_regs, h_regs2]; done) | split | dsimp only | intro _ _ | (refine (hide_foldl _ _ _ ?_).trans ?_) | (refine (hide_foldl_snd _ _ _ ?_).trans ?_) | (simp only [hide, h_ckpt, h_host, h_outbox, h_regs, h_regs2, if_true]; done) | (simp only [hide_ite, ite_self, implies_true, forall_const, health_hide h_host h_outbox h_regs h_regs2, cutClose_hide h_ckpt, reg64Set_hide h_regs, h_ckpt, h_host, h_outbox, h_regs, h_regs2]; simp only [hide, h_ckpt, h_host, h_outbox, h_regs, h_regs2, if_true]; done) | simp only [hide_ite, ite_self, implies_true, forall_const, health_hide h_host h_outbox h_regs h_regs2, cutClose_hide h_ckpt, reg64Set_hide h_regs, h_ckpt, h_host, h_outbox, h_regs, h_regs2])

theorem cutStateReadCmd_hide {L : List Part} (h_ckpt : Part.ckpt ∈ L) (h_grooms : Part.grooms ∈ L) (k : Nat) (s : State) :
    hide L (cutStateReadCmd k s) = hide L s := by
  unfold cutStateReadCmd
  simp only [hide_ite, ite_self, implies_true, forall_const, cutStateRead_hide h_ckpt h_grooms, cutClose_hide h_ckpt, h_ckpt, h_grooms]; (repeat' (first | (simp only [hide_ite, ite_self, implies_true, forall_const, cutStateRead_hide h_ckpt h_grooms, cutClose_hide h_ckpt, h_ckpt, h_grooms]; done) | split | dsimp only))

theorem armAll_hide {L : List Part} (h_cores : Part.cores ∈ L) (h_grooms : Part.grooms ∈ L) (s : State) :
    hide L (armAll s) = hide L s := by
  unfold armAll
  simp only [implies_true, coreMod_hide h_cores, countsZero_hide h_grooms, hide_foldl]

theorem groomsAt_hide {L : List Part} (h_exch : Part.exch ∈ L) (h_grooms : Part.grooms ∈ L) (h_regs : Part.regs ∈ L) (step : Nat) (s : State) :
    hide L (groomsAt step s) = hide L s := by
  unfold groomsAt
  simp only [implies_true, hide_exch h_exch, reg64Set_hide h_regs, groomPcSet_hide h_regs, groomMod_hide h_grooms, hide_foldl]

theorem stepValues_hide {L : List Part} (h_regs : Part.regs ∈ L) (step cursor : Nat) (epoch : W32) (s : State) :
    hide L (stepValues step cursor epoch s) = hide L s := by
  unfold stepValues
  simp only [implies_true, regSet_hide h_regs, reg64Set_hide h_regs, hide_foldl]

theorem imagePut_hide {L : List Part} (h_boot : Part.boot ∈ L) (h_cages : Part.cages ∈ L) (h_cfg : Part.cfg ∈ L) (h_ckpt : Part.ckpt ∈ L) (h_cores : Part.cores ∈ L) (h_epoch : Part.epoch ∈ L) (h_exch : Part.exch ∈ L) (h_fab : Part.fab ∈ L) (h_free : Part.free ∈ L) (h_grooms : Part.grooms ∈ L) (h_hitch : Part.hitch ∈ L) (h_host : Part.host ∈ L) (h_job : Part.job ∈ L) (h_latches : Part.latches ∈ L) (h_log : Part.log ∈ L) (h_mem : Part.mem ∈ L) (h_outbox : Part.outbox ∈ L) (h_power : Part.power ∈ L) (h_regs : Part.regs ∈ L) (h_regs2 : Part.regs2 ∈ L) (img : ProgramImage) (sh : Shape) (s : State) :
    hide L (imagePut img sh s) = hide L s := by
  unfold imagePut
  simp only [hide_ite, ite_self, implies_true, hide_job h_job, measExtend_hide h_boot h_regs, writeBar0_hide h_boot h_cages h_cfg h_ckpt h_cores h_epoch h_exch h_fab h_free h_grooms h_hitch h_host h_job h_latches h_log h_mem h_outbox h_power h_regs h_regs2, memWrite_hide h_mem, rfSet_hide h_regs, hide_foldl]

theorem loadDo_hide {L : List Part} (h_boot : Part.boot ∈ L) (h_cages : Part.cages ∈ L) (h_cfg : Part.cfg ∈ L) (h_ckpt : Part.ckpt ∈ L) (h_cores : Part.cores ∈ L) (h_epoch : Part.epoch ∈ L) (h_exch : Part.exch ∈ L) (h_fab : Part.fab ∈ L) (h_free : Part.free ∈ L) (h_grooms : Part.grooms ∈ L) (h_hitch : Part.hitch ∈ L) (h_host : Part.host ∈ L) (h_job : Part.job ∈ L) (h_latches : Part.latches ∈ L) (h_log : Part.log ∈ L) (h_mem : Part.mem ∈ L) (h_outbox : Part.outbox ∈ L) (h_power : Part.power ∈ L) (h_regs : Part.regs ∈ L) (h_regs2 : Part.regs2 ∈ L) (img : ProgramImage) (s : State) :
    hide L (loadDo img s) = hide L s := by
  unfold loadDo
  repeat' (first | (simp only [hide_ite, ite_self, implies_true, forall_const, hide_epoch h_epoch, collArmAll_hide h_fab, groomsAt_hide h_exch h_grooms h_regs, armAll_hide h_cores h_grooms, stepValues_hide h_regs, imagePut_hide h_boot h_cages h_cfg h_ckpt h_cores h_epoch h_exch h_fab h_free h_grooms h_hitch h_host h_job h_latches h_log h_mem h_outbox h_power h_regs h_regs2, h_boot, h_cages, h_cfg, h_ckpt, h_cores, h_epoch, h_exch, h_fab, h_free, h_grooms, h_hitch, h_host, h_job, h_latches, h_log, h_mem, h_outbox, h_power, h_regs, h_regs2, hide_epoch_job h_epoch h_job]; done) | dsimp only | split)

theorem load_hide {L : List Part} (h_boot : Part.boot ∈ L) (h_cages : Part.cages ∈ L) (h_cfg : Part.cfg ∈ L) (h_ckpt : Part.ckpt ∈ L) (h_cores : Part.cores ∈ L) (h_epoch : Part.epoch ∈ L) (h_exch : Part.exch ∈ L) (h_fab : Part.fab ∈ L) (h_free : Part.free ∈ L) (h_grooms : Part.grooms ∈ L) (h_hitch : Part.hitch ∈ L) (h_host : Part.host ∈ L) (h_job : Part.job ∈ L) (h_latches : Part.latches ∈ L) (h_log : Part.log ∈ L) (h_mem : Part.mem ∈ L) (h_outbox : Part.outbox ∈ L) (h_power : Part.power ∈ L) (h_regs : Part.regs ∈ L) (h_regs2 : Part.regs2 ∈ L) (tag : W16) (img : ProgramImage) (s : State) :
    hide L (load tag img s) = hide L s := by
  unfold load
  simp only [hide_ite, ite_self, implies_true, forall_const, refuseCmd_hide h_host h_log h_outbox h_regs h_regs2, complete1_hide h_host h_outbox h_regs2, record_hide h_host h_log h_outbox h_regs h_regs2, loadDo_hide h_boot h_cages h_cfg h_ckpt h_cores h_epoch h_exch h_fab h_free h_grooms h_hitch h_host h_job h_latches h_log h_mem h_outbox h_power h_regs h_regs2, h_boot, h_cages, h_cfg, h_ckpt, h_cores, h_epoch, h_exch, h_fab, h_free, h_grooms, h_hitch, h_host, h_job, h_latches, h_log, h_mem, h_outbox, h_power, h_regs, h_regs2]; (repeat' (first | (simp only [hide_ite, ite_self, implies_true, forall_const, refuseCmd_hide h_host h_log h_outbox h_regs h_regs2, complete1_hide h_host h_outbox h_regs2, record_hide h_host h_log h_outbox h_regs h_regs2, loadDo_hide h_boot h_cages h_cfg h_ckpt h_cores h_epoch h_exch h_fab h_free h_grooms h_hitch h_host h_job h_latches h_log h_mem h_outbox h_power h_regs h_regs2, h_boot, h_cages, h_cfg, h_ckpt, h_cores, h_epoch, h_exch, h_fab, h_free, h_grooms, h_hitch, h_host, h_job, h_latches, h_log, h_mem, h_outbox, h_power, h_regs, h_regs2]; done) | split | dsimp only))

theorem restartReport_hide {L : List Part} (h_ckpt : Part.ckpt ∈ L) (h_cores : Part.cores ∈ L) (h_epoch : Part.epoch ∈ L) (h_fab : Part.fab ∈ L) (h_free : Part.free ∈ L) (h_grooms : Part.grooms ∈ L) (h_host : Part.host ∈ L) (h_log : Part.log ∈ L) (h_mem : Part.mem ∈ L) (h_outbox : Part.outbox ∈ L) (h_regs : Part.regs ∈ L) (h_regs2 : Part.regs2 ∈ L) (rank : Nat) (code : W16) (s : State) :
    hide L (restartReport rank code s) = hide L s := by
  unfold restartReport
  simp only [hide_ite, ite_self, hide_epoch h_epoch, sendAll_hide h_ckpt h_cores h_fab h_free h_grooms h_host h_log h_mem h_outbox h_regs h_regs2]

theorem paddockStop_hide {L : List Part} (h_cages : Part.cages ∈ L) (h_ckpt : Part.ckpt ∈ L) (h_cores : Part.cores ∈ L) (h_epoch : Part.epoch ∈ L) (h_exch : Part.exch ∈ L) (h_fab : Part.fab ∈ L) (h_free : Part.free ∈ L) (h_grooms : Part.grooms ∈ L) (h_hitch : Part.hitch ∈ L) (h_host : Part.host ∈ L) (h_log : Part.log ∈ L) (h_outbox : Part.outbox ∈ L) (h_regs : Part.regs ∈ L) (h_regs2 : Part.regs2 ∈ L) (code : W16) (s : State) :
    hide L (paddockStop code s) = hide L s := by
  unfold paddockStop
  repeat' (first | (simp only [hide_ite, ite_self, implies_true, forall_const, hide_ckpt h_ckpt, hide_epoch h_epoch, hide_exch h_exch, hitchesResolve_hide h_cages h_fab h_hitch h_host h_log h_outbox h_regs h_regs2, stopCore_hide h_cores h_host h_log h_outbox h_regs h_regs2, stopGroom_hide h_free h_grooms h_host h_log h_outbox h_regs h_regs2, cutFail_hide h_ckpt h_grooms h_host h_log h_outbox h_regs h_regs2, fabDiscard_hide h_fab, h_cages, h_ckpt, h_cores, h_epoch, h_exch, h_fab, h_free, h_grooms, h_hitch, h_host, h_log, h_outbox, h_regs, h_regs2, hide_foldl, hide_foldl_fst, hide_foldl_snd, hide_epoch_ckpt h_epoch h_ckpt]; done) | dsimp only | split)

theorem snapInstall_hide {L : List Part} (h_cores : Part.cores ∈ L) (h_grooms : Part.grooms ∈ L) (snap : List Byte) (s : State) :
    hide L (snapInstall snap s) = hide L s := by
  unfold snapInstall
  simp only [implies_true, coreMod_hide h_cores, groomMod_hide h_grooms, hide_foldl]

theorem installsAgain_hide {L : List Part} (h_boot : Part.boot ∈ L) (h_cages : Part.cages ∈ L) (h_cfg : Part.cfg ∈ L) (h_ckpt : Part.ckpt ∈ L) (h_cores : Part.cores ∈ L) (h_epoch : Part.epoch ∈ L) (h_exch : Part.exch ∈ L) (h_fab : Part.fab ∈ L) (h_free : Part.free ∈ L) (h_grooms : Part.grooms ∈ L) (h_hitch : Part.hitch ∈ L) (h_host : Part.host ∈ L) (h_job : Part.job ∈ L) (h_latches : Part.latches ∈ L) (h_log : Part.log ∈ L) (h_mem : Part.mem ∈ L) (h_outbox : Part.outbox ∈ L) (h_power : Part.power ∈ L) (h_regs : Part.regs ∈ L) (h_regs2 : Part.regs2 ∈ L) (s : State) :
    hide L (installsAgain s) = hide L s := by
  unfold installsAgain
  simp only [hide_ite, ite_self, implies_true, forall_const, hide_fab h_fab, writeEffect_hide h_boot h_cages h_cfg h_ckpt h_cores h_epoch h_exch h_fab h_free h_grooms h_hitch h_host h_job h_latches h_log h_mem h_outbox h_power h_regs h_regs2, writeBar0_hide h_boot h_cages h_cfg h_ckpt h_cores h_epoch h_exch h_fab h_free h_grooms h_hitch h_host h_job h_latches h_log h_mem h_outbox h_power h_regs h_regs2, h_boot, h_cages, h_cfg, h_ckpt, h_cores, h_epoch, h_exch, h_fab, h_free, h_grooms, h_hitch, h_host, h_job, h_latches, h_log, h_mem, h_outbox, h_power, h_regs, h_regs2, hide_foldl, hide_foldl_fst, hide_foldl_snd]; (repeat' (first | (simp only [hide_ite, ite_self, implies_true, forall_const, hide_fab h_fab, writeEffect_hide h_boot h_cages h_cfg h_ckpt h_cores h_epoch h_exch h_fab h_free h_grooms h_hitch h_host h_job h_latches h_log h_mem h_outbox h_power h_regs h_regs2, writeBar0_hide h_boot h_cages h_cfg h_ckpt h_cores h_epoch h_exch h_fab h_free h_grooms h_hitch h_host h_job h_latches h_log h_mem h_outbox h_power h_regs h_regs2, h_boot, h_cages, h_cfg, h_ckpt, h_cores, h_epoch, h_exch, h_fab, h_free, h_grooms, h_hitch, h_host, h_job, h_latches, h_log, h_mem, h_outbox, h_power, h_regs, h_regs2, hide_foldl, hide_foldl_fst, hide_foldl_snd]; done) | split | dsimp only))

theorem imageAgain_hide {L : List Part} (h_boot : Part.boot ∈ L) (h_cages : Part.cages ∈ L) (h_cfg : Part.cfg ∈ L) (h_ckpt : Part.ckpt ∈ L) (h_cores : Part.cores ∈ L) (h_epoch : Part.epoch ∈ L) (h_exch : Part.exch ∈ L) (h_fab : Part.fab ∈ L) (h_free : Part.free ∈ L) (h_grooms : Part.grooms ∈ L) (h_hitch : Part.hitch ∈ L) (h_host : Part.host ∈ L) (h_job : Part.job ∈ L) (h_latches : Part.latches ∈ L) (h_log : Part.log ∈ L) (h_mem : Part.mem ∈ L) (h_outbox : Part.outbox ∈ L) (h_power : Part.power ∈ L) (h_regs : Part.regs ∈ L) (h_regs2 : Part.regs2 ∈ L) (n : Nat) (given : Option ProgramImage) (s : State) :
    hide L (imageAgain n given s).2 = hide L s := by
  unfold imageAgain
  simp only [hide_ite, ite_self, implies_true, forall_const, imagePut_hide h_boot h_cages h_cfg h_ckpt h_cores h_epoch h_exch h_fab h_free h_grooms h_hitch h_host h_job h_latches h_log h_mem h_outbox h_power h_regs h_regs2, memWrite_hide h_mem, h_boot, h_cages, h_cfg, h_ckpt, h_cores, h_epoch, h_exch, h_fab, h_free, h_grooms, h_hitch, h_host, h_job, h_latches, h_log, h_mem, h_outbox, h_power, h_regs, h_regs2, hide_foldl, hide_foldl_fst, hide_foldl_snd]; (repeat' (first | (simp only [hide_ite, ite_self, implies_true, forall_const, imagePut_hide h_boot h_cages h_cfg h_ckpt h_cores h_epoch h_exch h_fab h_free h_grooms h_hitch h_host h_job h_latches h_log h_mem h_outbox h_power h_regs h_regs2, memWrite_hide h_mem, h_boot, h_cages, h_cfg, h_ckpt, h_cores, h_epoch, h_exch, h_fab, h_free, h_grooms, h_hitch, h_host, h_job, h_latches, h_log, h_mem, h_outbox, h_power, h_regs, h_regs2, hide_foldl, hide_foldl_fst, hide_foldl_snd]; done) | split | dsimp only))

theorem cageRelock_hide {L : List Part} (h_cages : Part.cages ∈ L) (h_ckpt : Part.ckpt ∈ L) (h_cores : Part.cores ∈ L) (h_fab : Part.fab ∈ L) (h_free : Part.free ∈ L) (h_grooms : Part.grooms ∈ L) (h_hitch : Part.hitch ∈ L) (h_host : Part.host ∈ L) (h_log : Part.log ∈ L) (h_mem : Part.mem ∈ L) (h_outbox : Part.outbox ∈ L) (h_regs : Part.regs ∈ L) (h_regs2 : Part.regs2 ∈ L) (s : State) (g : Nat) :
    hide L (cageRelock s g) = hide L s := by
  unfold cageRelock
  simp only [hide_ite, ite_self, implies_true, forall_const, rfSet_hide h_regs, ringStateSet_hide h_regs, ringPark_hide h_cages h_regs, cageStateSet_hide h_regs, cageMod_hide h_cages, portMod_hide h_fab, linkClear_hide h_fab, portLanesSet_hide h_regs, portStateSet_hide h_regs, cageSettle_hide h_cages h_ckpt h_cores h_fab h_free h_grooms h_hitch h_host h_log h_mem h_outbox h_regs h_regs2, h_cages, h_ckpt, h_cores, h_fab, h_free, h_grooms, h_hitch, h_host, h_log, h_mem, h_outbox, h_regs, h_regs2, hide_foldl, hide_foldl_fst, hide_foldl_snd]; (repeat' (first | (simp only [hide_ite, ite_self, implies_true, forall_const, rfSet_hide h_regs, ringStateSet_hide h_regs, ringPark_hide h_cages h_regs, cageStateSet_hide h_regs, cageMod_hide h_cages, portMod_hide h_fab, linkClear_hide h_fab, portLanesSet_hide h_regs, portStateSet_hide h_regs, cageSettle_hide h_cages h_ckpt h_cores h_fab h_free h_grooms h_hitch h_host h_log h_mem h_outbox h_regs h_regs2, h_cages, h_ckpt, h_cores, h_fab, h_free, h_grooms, h_hitch, h_host, h_log, h_mem, h_outbox, h_regs, h_regs2, hide_foldl, hide_foldl_fst, hide_foldl_snd]; done) | split | dsimp only))

theorem lanesAgain_hide {L : List Part} (h_fab : Part.fab ∈ L) (h_regs : Part.regs ∈ L) (s : State) (p : Nat) :
    hide L (lanesAgain s p) = hide L s := by
  unfold lanesAgain
  simp only [hide_ite, ite_self, linkClear_hide h_fab, portStateSet_hide h_regs, portLanesSet_hide h_regs]

theorem mapRebuild_hide {L : List Part} (h_boot : Part.boot ∈ L) (h_cages : Part.cages ∈ L) (h_cfg : Part.cfg ∈ L) (h_ckpt : Part.ckpt ∈ L) (h_cores : Part.cores ∈ L) (h_epoch : Part.epoch ∈ L) (h_exch : Part.exch ∈ L) (h_fab : Part.fab ∈ L) (h_free : Part.free ∈ L) (h_grooms : Part.grooms ∈ L) (h_hitch : Part.hitch ∈ L) (h_host : Part.host ∈ L) (h_job : Part.job ∈ L) (h_latches : Part.latches ∈ L) (h_log : Part.log ∈ L) (h_mem : Part.mem ∈ L) (h_outbox : Part.outbox ∈ L) (h_power : Part.power ∈ L) (h_regs : Part.regs ∈ L) (h_regs2 : Part.regs2 ∈ L) (r : RestartRecord) (m : List Byte) (s : State) :
    hide L (mapRebuild r m s) = hide L s := by
  unfold mapRebuild
  simp only [hide_ite, ite_self, implies_true, forall_const, hide_fab h_fab, installsAgain_hide h_boot h_cages h_cfg h_ckpt h_cores h_epoch h_exch h_fab h_free h_grooms h_hitch h_host h_job h_latches h_log h_mem h_outbox h_power h_regs h_regs2, rfSet_hide h_regs, portMod_hide h_fab, twinReview_hide h_regs, collArmAll_hide h_fab, cageRelock_hide h_cages h_ckpt h_cores h_fab h_free h_grooms h_hitch h_host h_log h_mem h_outbox h_regs h_regs2, lanesAgain_hide h_fab h_regs, h_boot, h_cages, h_cfg, h_ckpt, h_cores, h_epoch, h_exch, h_fab, h_free, h_grooms, h_hitch, h_host, h_job, h_latches, h_log, h_mem, h_outbox, h_power, h_regs, h_regs2, hide_foldl, hide_foldl_fst, hide_foldl_snd]; (repeat' (first | (simp only [hide_ite, ite_self, implies_true, forall_const, hide_fab h_fab, installsAgain_hide h_boot h_cages h_cfg h_ckpt h_cores h_epoch h_exch h_fab h_free h_grooms h_hitch h_host h_job h_latches h_log h_mem h_outbox h_power h_regs h_regs2, rfSet_hide h_regs, portMod_hide h_fab, twinReview_hide h_regs, collArmAll_hide h_fab, cageRelock_hide h_cages h_ckpt h_cores h_fab h_free h_grooms h_hitch h_host h_log h_mem h_outbox h_regs h_regs2, lanesAgain_hide h_fab h_regs, h_boot, h_cages, h_cfg, h_ckpt, h_cores, h_epoch, h_exch, h_fab, h_free, h_grooms, h_hitch, h_host, h_job, h_latches, h_log, h_mem, h_outbox, h_power, h_regs, h_regs2, hide_foldl, hide_foldl_fst, hide_foldl_snd]; done) | split | dsimp only))

theorem programsBack_hide {L : List Part} (h_cores : Part.cores ∈ L) (s : State) :
    hide L (programsBack s) = hide L s := by
  unfold programsBack
  simp only [implies_true, ctxMod_hide h_cores, hide_foldl]

theorem coreGo_hide {L : List Part} (h_cores : Part.cores ∈ L) (h_regs : Part.regs ∈ L) (s : State) (n : Nat) :
    hide L (coreGo s n) = hide L s := by
  unfold coreGo
  simp only [hide_ite, ite_self, ostlerRun_hide h_cores h_regs, rfSet_hide h_regs, ctxMod_hide h_cores]

theorem restartGo_hide {L : List Part} (h_ckpt : Part.ckpt ∈ L) (h_cores : Part.cores ∈ L) (h_epoch : Part.epoch ∈ L) (h_exch : Part.exch ∈ L) (h_free : Part.free ∈ L) (h_grooms : Part.grooms ∈ L) (h_host : Part.host ∈ L) (h_job : Part.job ∈ L) (h_log : Part.log ∈ L) (h_mem : Part.mem ∈ L) (h_outbox : Part.outbox ∈ L) (h_regs : Part.regs ∈ L) (h_regs2 : Part.regs2 ∈ L) (r : RestartRecord) (m : List Byte) (s : State) :
    hide L (restartGo r m s) = hide L s := by
  unfold restartGo
  repeat' (first | (simp only [hide_ite, ite_self, implies_true, forall_const, hide_ckpt h_ckpt, hide_epoch h_epoch, hide_job h_job, stepValues_hide h_regs, groomsAt_hide h_exch h_grooms h_regs, armAll_hide h_cores h_grooms, coreMod_hide h_cores, groomRunSet_hide h_free h_grooms h_host h_log h_mem h_outbox h_regs h_regs2, coreGo_hide h_cores h_regs, h_ckpt, h_cores, h_epoch, h_exch, h_free, h_grooms, h_host, h_job, h_log, h_mem, h_outbox, h_regs, h_regs2, hide_foldl, hide_foldl_fst, hide_foldl_snd, hide_job_epoch_ckpt h_epoch h_ckpt h_job]; done) | dsimp only | split)

theorem restartComplete_hide {L : List Part} (h_host : Part.host ∈ L) (h_outbox : Part.outbox ∈ L) (h_regs2 : Part.regs2 ∈ L) (c : W16) (s : State) :
    hide L (restartComplete c s) = hide L s := by
  unfold restartComplete
  repeat' (first | (simp only [hide_ite, ite_self, implies_true, forall_const, complete1_hide h_host h_outbox h_regs2, fore_hide h_host, h_host, h_outbox, h_regs2]; done) | split | dsimp only | intro _ _ | (refine (hide_foldl _ _ _ ?_).trans ?_) | (refine (hide_foldl_snd _ _ _ ?_).trans ?_) | (simp only [hide, h_host, h_outbox, h_regs2, if_true]; done) | (simp only [hide_ite, ite_self, implies_true, forall_const, complete1_hide h_host h_outbox h_regs2, fore_hide h_host, h_host, h_outbox, h_regs2]; simp only [hide, h_host, h_outbox, h_regs2, if_true]; done) | simp only [hide_ite, ite_self, implies_true, forall_const, complete1_hide h_host h_outbox h_regs2, fore_hide h_host, h_host, h_outbox, h_regs2])

theorem readSend_hide {L : List Part} (h_ckpt : Part.ckpt ∈ L) (h_cores : Part.cores ∈ L) (h_fab : Part.fab ∈ L) (h_free : Part.free ∈ L) (h_grooms : Part.grooms ∈ L) (h_host : Part.host ∈ L) (h_log : Part.log ∈ L) (h_mem : Part.mem ∈ L) (h_outbox : Part.outbox ∈ L) (h_regs : Part.regs ∈ L) (h_regs2 : Part.regs2 ∈ L) (first count tag : Nat) (s : State) :
    hide L (readSend first count tag s) = hide L s := by
  unfold readSend
  simp only [hide_ite, ite_self, implies_true, forall_const, evAdvance_hide h_log, pumpAll_hide h_fab h_outbox h_regs, spaceSend_hide h_ckpt h_cores h_fab h_free h_grooms h_host h_log h_mem h_outbox h_regs h_regs2, emit_hide h_outbox, h_ckpt, h_cores, h_fab, h_free, h_grooms, h_host, h_log, h_mem, h_outbox, h_regs, h_regs2]; (repeat' (first | (simp only [hide_ite, ite_self, implies_true, forall_const, evAdvance_hide h_log, pumpAll_hide h_fab h_outbox h_regs, spaceSend_hide h_ckpt h_cores h_fab h_free h_grooms h_host h_log h_mem h_outbox h_regs h_regs2, emit_hide h_outbox, h_ckpt, h_cores, h_fab, h_free, h_grooms, h_host, h_log, h_mem, h_outbox, h_regs, h_regs2]; done) | split | dsimp only))

theorem readNext_hide {L : List Part} (h_ckpt : Part.ckpt ∈ L) (h_cores : Part.cores ∈ L) (h_fab : Part.fab ∈ L) (h_free : Part.free ∈ L) (h_grooms : Part.grooms ∈ L) (h_host : Part.host ∈ L) (h_log : Part.log ∈ L) (h_mem : Part.mem ∈ L) (h_outbox : Part.outbox ∈ L) (h_regs : Part.regs ∈ L) (h_regs2 : Part.regs2 ∈ L) (s : State) :
    hide L (readNext s) = hide L s := by
  unfold readNext
  simp only [hide_ite, ite_self, implies_true, forall_const, hide_ckpt h_ckpt, readSend_hide h_ckpt h_cores h_fab h_free h_grooms h_host h_log h_mem h_outbox h_regs h_regs2, h_ckpt, h_cores, h_fab, h_free, h_grooms, h_host, h_log, h_mem, h_outbox, h_regs, h_regs2]; (repeat' (first | (simp only [hide_ite, ite_self, implies_true, forall_const, hide_ckpt h_ckpt, readSend_hide h_ckpt h_cores h_fab h_free h_grooms h_host h_log h_mem h_outbox h_regs h_regs2, h_ckpt, h_cores, h_fab, h_free, h_grooms, h_host, h_log, h_mem, h_outbox, h_regs, h_regs2]; done) | split | dsimp only))

theorem restoreStop_hide {L : List Part} (h_ckpt : Part.ckpt ∈ L) (h_host : Part.host ∈ L) (h_log : Part.log ∈ L) (h_outbox : Part.outbox ∈ L) (h_regs : Part.regs ∈ L) (h_regs2 : Part.regs2 ∈ L) (c : W16) (cls : Class) (s : State) :
    hide L (restoreStop c cls s) = hide L s := by
  unfold restoreStop
  simp only [hide_ckpt h_ckpt, restartComplete_hide h_host h_outbox h_regs2, record_hide h_host h_log h_outbox h_regs h_regs2]

theorem restoreRead_hide {L : List Part} (h_log : Part.log ∈ L) (h_mem : Part.mem ∈ L) (h_regs : Part.regs ∈ L) (m : List Byte) (s : State) :
    hide L (restoreRead m s).2 = hide L s := by
  unfold restoreRead
  repeat' (first | (simp only [hide_ite, ite_self, implies_true, forall_const, engineRead_hide h_log h_mem h_regs, h_log, h_mem, h_regs, hide_foldl, hide_foldl_fst, hide_foldl_snd]; done) | split | dsimp only | intro _ _ | (refine (hide_foldl _ _ _ ?_).trans ?_) | (refine (hide_foldl_snd _ _ _ ?_).trans ?_) | (simp only [hide, h_log, h_mem, h_regs, if_true]; done) | (simp only [hide_ite, ite_self, implies_true, forall_const, engineRead_hide h_log h_mem h_regs, h_log, h_mem, h_regs, hide_foldl, hide_foldl_fst, hide_foldl_snd]; simp only [hide, h_log, h_mem, h_regs, if_true]; done) | simp only [hide_ite, ite_self, implies_true, forall_const, engineRead_hide h_log h_mem h_regs, h_log, h_mem, h_regs, hide_foldl, hide_foldl_fst, hide_foldl_snd])

theorem restoreEnd_hide {L : List Part} (h_ckpt : Part.ckpt ∈ L) (h_cores : Part.cores ∈ L) (h_epoch : Part.epoch ∈ L) (h_exch : Part.exch ∈ L) (h_free : Part.free ∈ L) (h_grooms : Part.grooms ∈ L) (h_host : Part.host ∈ L) (h_job : Part.job ∈ L) (h_log : Part.log ∈ L) (h_mem : Part.mem ∈ L) (h_outbox : Part.outbox ∈ L) (h_regs : Part.regs ∈ L) (h_regs2 : Part.regs2 ∈ L) (x : Restore) (s : State) :
    hide L (restoreEnd x s) = hide L s := by
  unfold restoreEnd
  simp only [hide_ite, ite_self, restoreRead_hide h_log h_mem h_regs, restartComplete_hide h_host h_outbox h_regs2, restartGo_hide h_ckpt h_cores h_epoch h_exch h_free h_grooms h_host h_job h_log h_mem h_outbox h_regs h_regs2, snapInstall_hide h_cores h_grooms, restoreStop_hide h_ckpt h_host h_log h_outbox h_regs h_regs2]

theorem storageAck_hide {L : List Part} (h_fab : Part.fab ∈ L) (h_free : Part.free ∈ L) (h_outbox : Part.outbox ∈ L) (h_regs : Part.regs ∈ L) (s : State) :
    hide L (storageAck s) = hide L s := by
  unfold storageAck
  simp only [hide_ite, ite_self, implies_true, forall_const, hide_free h_free, rxTake_hide h_fab, emit_hide h_outbox, pump_hide h_fab h_outbox h_regs, queueOn_hide h_fab, h_fab, h_free, h_outbox, h_regs]; (repeat' (first | (simp only [hide_ite, ite_self, implies_true, forall_const, hide_free h_free, rxTake_hide h_fab, emit_hide h_outbox, pump_hide h_fab h_outbox h_regs, queueOn_hide h_fab, h_fab, h_free, h_outbox, h_regs]; done) | split | dsimp only))

theorem restoreAck_hide {L : List Part} (h_fab : Part.fab ∈ L) (h_free : Part.free ∈ L) (h_outbox : Part.outbox ∈ L) (h_regs : Part.regs ∈ L) (x : Restore) (s : State) :
    hide L (restoreAck x s) = hide L s := by
  unfold restoreAck
  simp only [hide_ite, ite_self, storageAck_hide h_fab h_free h_outbox h_regs, pumpAll_hide h_fab h_outbox h_regs, respond_hide h_fab h_free h_outbox h_regs, rxTake_hide h_fab]

theorem restoreJudge_hide {L : List Part} (h_boot : Part.boot ∈ L) (h_cages : Part.cages ∈ L) (h_cfg : Part.cfg ∈ L) (h_ckpt : Part.ckpt ∈ L) (h_cores : Part.cores ∈ L) (h_epoch : Part.epoch ∈ L) (h_exch : Part.exch ∈ L) (h_fab : Part.fab ∈ L) (h_free : Part.free ∈ L) (h_grooms : Part.grooms ∈ L) (h_hitch : Part.hitch ∈ L) (h_host : Part.host ∈ L) (h_job : Part.job ∈ L) (h_latches : Part.latches ∈ L) (h_log : Part.log ∈ L) (h_mem : Part.mem ∈ L) (h_outbox : Part.outbox ∈ L) (h_power : Part.power ∈ L) (h_regs : Part.regs ∈ L) (h_regs2 : Part.regs2 ∈ L) (x : Restore) (s : State) :
    hide L (restoreJudge x s) = hide L s := by
  unfold restoreJudge
  simp only [hide_ite, ite_self, implies_true, forall_const, hide_ckpt h_ckpt, restoreStop_hide h_ckpt h_host h_log h_outbox h_regs h_regs2, mapRebuild_hide h_boot h_cages h_cfg h_ckpt h_cores h_epoch h_exch h_fab h_free h_grooms h_hitch h_host h_job h_latches h_log h_mem h_outbox h_power h_regs h_regs2, readNext_hide h_ckpt h_cores h_fab h_free h_grooms h_host h_log h_mem h_outbox h_regs h_regs2, h_boot, h_cages, h_cfg, h_ckpt, h_cores, h_epoch, h_exch, h_fab, h_free, h_grooms, h_hitch, h_host, h_job, h_latches, h_log, h_mem, h_outbox, h_power, h_regs, h_regs2]; (repeat' (first | (simp only [hide_ite, ite_self, implies_true, forall_const, hide_ckpt h_ckpt, restoreStop_hide h_ckpt h_host h_log h_outbox h_regs h_regs2, mapRebuild_hide h_boot h_cages h_cfg h_ckpt h_cores h_epoch h_exch h_fab h_free h_grooms h_hitch h_host h_job h_latches h_log h_mem h_outbox h_power h_regs h_regs2, readNext_hide h_ckpt h_cores h_fab h_free h_grooms h_host h_log h_mem h_outbox h_regs h_regs2, h_boot, h_cages, h_cfg, h_ckpt, h_cores, h_epoch, h_exch, h_fab, h_free, h_grooms, h_hitch, h_host, h_job, h_latches, h_log, h_mem, h_outbox, h_power, h_regs, h_regs2]; done) | split | dsimp only))

theorem restoreNext_hide {L : List Part} (h_boot : Part.boot ∈ L) (h_cages : Part.cages ∈ L) (h_cfg : Part.cfg ∈ L) (h_ckpt : Part.ckpt ∈ L) (h_cores : Part.cores ∈ L) (h_epoch : Part.epoch ∈ L) (h_exch : Part.exch ∈ L) (h_fab : Part.fab ∈ L) (h_free : Part.free ∈ L) (h_grooms : Part.grooms ∈ L) (h_hitch : Part.hitch ∈ L) (h_host : Part.host ∈ L) (h_job : Part.job ∈ L) (h_latches : Part.latches ∈ L) (h_log : Part.log ∈ L) (h_mem : Part.mem ∈ L) (h_outbox : Part.outbox ∈ L) (h_power : Part.power ∈ L) (h_regs : Part.regs ∈ L) (h_regs2 : Part.regs2 ∈ L) (s : State) :
    hide L (restoreNext s) = hide L s := by
  unfold restoreNext
  repeat' (first | (simp only [hide_ite, ite_self, implies_true, forall_const, restoreJudge_hide h_boot h_cages h_cfg h_ckpt h_cores h_epoch h_exch h_fab h_free h_grooms h_hitch h_host h_job h_latches h_log h_mem h_outbox h_power h_regs h_regs2, readNext_hide h_ckpt h_cores h_fab h_free h_grooms h_host h_log h_mem h_outbox h_regs h_regs2, restoreEnd_hide h_ckpt h_cores h_epoch h_exch h_free h_grooms h_host h_job h_log h_mem h_outbox h_regs h_regs2, h_boot, h_cages, h_cfg, h_ckpt, h_cores, h_epoch, h_exch, h_fab, h_free, h_grooms, h_hitch, h_host, h_job, h_latches, h_log, h_mem, h_outbox, h_power, h_regs, h_regs2]; done) | split | dsimp only | intro _ _ | (refine (hide_foldl _ _ _ ?_).trans ?_) | (refine (hide_foldl_snd _ _ _ ?_).trans ?_) | (simp only [hide, h_boot, h_cages, h_cfg, h_ckpt, h_cores, h_epoch, h_exch, h_fab, h_free, h_grooms, h_hitch, h_host, h_job, h_latches, h_log, h_mem, h_outbox, h_power, h_regs, h_regs2, if_true]; done) | (simp only [hide_ite, ite_self, implies_true, forall_const, restoreJudge_hide h_boot h_cages h_cfg h_ckpt h_cores h_epoch h_exch h_fab h_free h_grooms h_hitch h_host h_job h_latches h_log h_mem h_outbox h_power h_regs h_regs2, readNext_hide h_ckpt h_cores h_fab h_free h_grooms h_host h_log h_mem h_outbox h_regs h_regs2, restoreEnd_hide h_ckpt h_cores h_epoch h_exch h_free h_grooms h_host h_job h_log h_mem h_outbox h_regs h_regs2, h_boot, h_cages, h_cfg, h_ckpt, h_cores, h_epoch, h_exch, h_fab, h_free, h_grooms, h_hitch, h_host, h_job, h_latches, h_log, h_mem, h_outbox, h_power, h_regs, h_regs2]; simp only [hide, h_boot, h_cages, h_cfg, h_ckpt, h_cores, h_epoch, h_exch, h_fab, h_free, h_grooms, h_hitch, h_host, h_job, h_latches, h_log, h_mem, h_outbox, h_power, h_regs, h_regs2, if_true]; done) | simp only [hide_ite, ite_self, implies_true, forall_const, restoreJudge_hide h_boot h_cages h_cfg h_ckpt h_cores h_epoch h_exch h_fab h_free h_grooms h_hitch h_host h_job h_latches h_log h_mem h_outbox h_power h_regs h_regs2, readNext_hide h_ckpt h_cores h_fab h_free h_grooms h_host h_log h_mem h_outbox h_regs h_regs2, restoreEnd_hide h_ckpt h_cores h_epoch h_exch h_free h_grooms h_host h_job h_log h_mem h_outbox h_regs h_regs2, h_boot, h_cages, h_cfg, h_ckpt, h_cores, h_epoch, h_exch, h_fab, h_free, h_grooms, h_hitch, h_host, h_job, h_latches, h_log, h_mem, h_outbox, h_power, h_regs, h_regs2])

theorem restoreGrain_hide {L : List Part} (h_ckpt : Part.ckpt ∈ L) (h_fab : Part.fab ∈ L) (h_free : Part.free ∈ L) (h_host : Part.host ∈ L) (h_log : Part.log ∈ L) (h_mem : Part.mem ∈ L) (h_outbox : Part.outbox ∈ L) (h_regs : Part.regs ∈ L) (h_regs2 : Part.regs2 ∈ L) (i : Nat) (data : List Byte) (s : State) :
    hide L (restoreGrain i data s) = hide L s := by
  unfold restoreGrain
  simp only [hide_ite, ite_self, implies_true, forall_const, hide_ckpt h_ckpt, record_hide h_host h_log h_outbox h_regs h_regs2, hbmAccess_hide h_log h_mem h_regs, memWrite_hide h_mem, restoreAck_hide h_fab h_free h_outbox h_regs, h_ckpt, h_fab, h_free, h_host, h_log, h_mem, h_outbox, h_regs, h_regs2]; (repeat' (first | (simp only [hide_ite, ite_self, implies_true, forall_const, hide_ckpt h_ckpt, record_hide h_host h_log h_outbox h_regs h_regs2, hbmAccess_hide h_log h_mem h_regs, memWrite_hide h_mem, restoreAck_hide h_fab h_free h_outbox h_regs, h_ckpt, h_fab, h_free, h_host, h_log, h_mem, h_outbox, h_regs, h_regs2]; done) | split | dsimp only))

theorem restoreParked_hide {L : List Part} (h_ckpt : Part.ckpt ∈ L) (h_fab : Part.fab ∈ L) (h_free : Part.free ∈ L) (h_host : Part.host ∈ L) (h_log : Part.log ∈ L) (h_mem : Part.mem ∈ L) (h_outbox : Part.outbox ∈ L) (h_regs : Part.regs ∈ L) (h_regs2 : Part.regs2 ∈ L) (s : State) :
    hide L (restoreParked s) = hide L s := by
  unfold restoreParked
  simp only [hide_ite, ite_self, implies_true, forall_const, hide_ckpt h_ckpt, restoreGrain_hide h_ckpt h_fab h_free h_host h_log h_mem h_outbox h_regs h_regs2, h_ckpt, h_fab, h_free, h_host, h_log, h_mem, h_outbox, h_regs, h_regs2, hide_foldl, hide_foldl_fst, hide_foldl_snd]; (repeat' (first | (simp only [hide_ite, ite_self, implies_true, forall_const, hide_ckpt h_ckpt, restoreGrain_hide h_ckpt h_fab h_free h_host h_log h_mem h_outbox h_regs h_regs2, h_ckpt, h_fab, h_free, h_host, h_log, h_mem, h_outbox, h_regs, h_regs2, hide_foldl, hide_foldl_fst, hide_foldl_snd]; done) | split | dsimp only))

theorem storageReadData_hide {L : List Part} (h_boot : Part.boot ∈ L) (h_cages : Part.cages ∈ L) (h_cfg : Part.cfg ∈ L) (h_ckpt : Part.ckpt ∈ L) (h_cores : Part.cores ∈ L) (h_epoch : Part.epoch ∈ L) (h_exch : Part.exch ∈ L) (h_fab : Part.fab ∈ L) (h_free : Part.free ∈ L) (h_grooms : Part.grooms ∈ L) (h_hitch : Part.hitch ∈ L) (h_host : Part.host ∈ L) (h_job : Part.job ∈ L) (h_latches : Part.latches ∈ L) (h_log : Part.log ∈ L) (h_mem : Part.mem ∈ L) (h_outbox : Part.outbox ∈ L) (h_power : Part.power ∈ L) (h_regs : Part.regs ∈ L) (h_regs2 : Part.regs2 ∈ L) (i : Nat) (data : List Byte) (s : State) :
    hide L (storageReadData i data s) = hide L s := by
  unfold storageReadData
  simp only [hide_ite, ite_self, restoreNext_hide h_boot h_cages h_cfg h_ckpt h_cores h_epoch h_exch h_fab h_free h_grooms h_hitch h_host h_job h_latches h_log h_mem h_outbox h_power h_regs h_regs2, restoreGrain_hide h_ckpt h_fab h_free h_host h_log h_mem h_outbox h_regs h_regs2, restoreParked_hide h_ckpt h_fab h_free h_host h_log h_mem h_outbox h_regs h_regs2]

theorem readAgain_hide {L : List Part} (h_ckpt : Part.ckpt ∈ L) (h_cores : Part.cores ∈ L) (h_fab : Part.fab ∈ L) (h_free : Part.free ∈ L) (h_grooms : Part.grooms ∈ L) (h_host : Part.host ∈ L) (h_log : Part.log ∈ L) (h_mem : Part.mem ∈ L) (h_outbox : Part.outbox ∈ L) (h_regs : Part.regs ∈ L) (h_regs2 : Part.regs2 ∈ L) (tag b : Nat) (got : List Nat) (k0 : Nat) (k1 : Nat) (s : State) :
    hide L (readAgain tag b got k0 k1 s) = hide L s := by
  induction k0 generalizing k1 s with
  | zero => rfl
  | succ k ih =>
    unfold readAgain
    try simp only [hide_ite, ite_self, implies_true, forall_const, readSend_hide h_ckpt h_cores h_fab h_free h_grooms h_host h_log h_mem h_outbox h_regs h_regs2, h_ckpt, h_cores, h_fab, h_free, h_grooms, h_host, h_log, h_mem, h_outbox, h_regs, h_regs2, ih]
    repeat' (first | rfl | (simp only [hide_ite, ite_self, implies_true, forall_const, readSend_hide h_ckpt h_cores h_fab h_free h_grooms h_host h_log h_mem h_outbox h_regs h_regs2, h_ckpt, h_cores, h_fab, h_free, h_grooms, h_host, h_log, h_mem, h_outbox, h_regs, h_regs2, ih]; done) | split)

theorem storageReadTimeout_hide {L : List Part} (h_boot : Part.boot ∈ L) (h_cages : Part.cages ∈ L) (h_cfg : Part.cfg ∈ L) (h_ckpt : Part.ckpt ∈ L) (h_cores : Part.cores ∈ L) (h_epoch : Part.epoch ∈ L) (h_exch : Part.exch ∈ L) (h_fab : Part.fab ∈ L) (h_free : Part.free ∈ L) (h_grooms : Part.grooms ∈ L) (h_hitch : Part.hitch ∈ L) (h_host : Part.host ∈ L) (h_job : Part.job ∈ L) (h_latches : Part.latches ∈ L) (h_log : Part.log ∈ L) (h_mem : Part.mem ∈ L) (h_outbox : Part.outbox ∈ L) (h_power : Part.power ∈ L) (h_regs : Part.regs ∈ L) (h_regs2 : Part.regs2 ∈ L) (tag : BitVec 5) (s : State) :
    hide L (storageReadTimeout tag s) = hide L s := by
  unfold storageReadTimeout
  simp only [hide_ite, ite_self, implies_true, forall_const, restoreNext_hide h_boot h_cages h_cfg h_ckpt h_cores h_epoch h_exch h_fab h_free h_grooms h_hitch h_host h_job h_latches h_log h_mem h_outbox h_power h_regs h_regs2, restoreParked_hide h_ckpt h_fab h_free h_host h_log h_mem h_outbox h_regs h_regs2, readAgain_hide h_ckpt h_cores h_fab h_free h_grooms h_host h_log h_mem h_outbox h_regs h_regs2, h_boot, h_cages, h_cfg, h_ckpt, h_cores, h_epoch, h_exch, h_fab, h_free, h_grooms, h_hitch, h_host, h_job, h_latches, h_log, h_mem, h_outbox, h_power, h_regs, h_regs2]; (repeat' (first | (simp only [hide_ite, ite_self, implies_true, forall_const, restoreNext_hide h_boot h_cages h_cfg h_ckpt h_cores h_epoch h_exch h_fab h_free h_grooms h_hitch h_host h_job h_latches h_log h_mem h_outbox h_power h_regs h_regs2, restoreParked_hide h_ckpt h_fab h_free h_host h_log h_mem h_outbox h_regs h_regs2, readAgain_hide h_ckpt h_cores h_fab h_free h_grooms h_host h_log h_mem h_outbox h_regs h_regs2, h_boot, h_cages, h_cfg, h_ckpt, h_cores, h_epoch, h_exch, h_fab, h_free, h_grooms, h_hitch, h_host, h_job, h_latches, h_log, h_mem, h_outbox, h_power, h_regs, h_regs2]; done) | split | dsimp only))

theorem restoreLost_hide {L : List Part} (h_ckpt : Part.ckpt ∈ L) (h_host : Part.host ∈ L) (h_log : Part.log ∈ L) (h_outbox : Part.outbox ∈ L) (h_regs : Part.regs ∈ L) (h_regs2 : Part.regs2 ∈ L) (s : State) :
    hide L (restoreLost s) = hide L s := by
  unfold restoreLost
  simp only [hide_ite, ite_self, restoreStop_hide h_ckpt h_host h_log h_outbox h_regs h_regs2]

theorem deliveryLostCmd_hide {L : List Part} (h_ckpt : Part.ckpt ∈ L) (h_cores : Part.cores ∈ L) (h_fab : Part.fab ∈ L) (h_grooms : Part.grooms ∈ L) (h_host : Part.host ∈ L) (h_log : Part.log ∈ L) (h_outbox : Part.outbox ∈ L) (h_regs : Part.regs ∈ L) (h_regs2 : Part.regs2 ∈ L) (dst space : Nat) (seq : W16) (s : State) :
    hide L (deliveryLostCmd dst space seq s) = hide L s := by
  unfold deliveryLostCmd
  simp only [hide_ite, ite_self, implies_true, forall_const, hide_ckpt h_ckpt, txPut_hide h_fab, restoreLost_hide h_ckpt h_host h_log h_outbox h_regs h_regs2, shadowFail_hide h_ckpt h_grooms h_host h_log h_outbox h_regs h_regs2, deliveryLost_hide h_cores h_fab h_host h_log h_outbox h_regs h_regs2, record_hide h_host h_log h_outbox h_regs h_regs2, cutFail_hide h_ckpt h_grooms h_host h_log h_outbox h_regs h_regs2, h_ckpt, h_cores, h_fab, h_grooms, h_host, h_log, h_outbox, h_regs, h_regs2]; (repeat' (first | (simp only [hide_ite, ite_self, implies_true, forall_const, hide_ckpt h_ckpt, txPut_hide h_fab, restoreLost_hide h_ckpt h_host h_log h_outbox h_regs h_regs2, shadowFail_hide h_ckpt h_grooms h_host h_log h_outbox h_regs h_regs2, deliveryLost_hide h_cores h_fab h_host h_log h_outbox h_regs h_regs2, record_hide h_host h_log h_outbox h_regs h_regs2, cutFail_hide h_ckpt h_grooms h_host h_log h_outbox h_regs h_regs2, h_ckpt, h_cores, h_fab, h_grooms, h_host, h_log, h_outbox, h_regs, h_regs2]; done) | split | dsimp only))

theorem e2eResponseCmd_hide {L : List Part} (h_ckpt : Part.ckpt ∈ L) (h_cores : Part.cores ∈ L) (h_fab : Part.fab ∈ L) (h_free : Part.free ∈ L) (h_grooms : Part.grooms ∈ L) (h_host : Part.host ∈ L) (h_log : Part.log ∈ L) (h_mem : Part.mem ∈ L) (h_outbox : Part.outbox ∈ L) (h_regs : Part.regs ∈ L) (h_regs2 : Part.regs2 ∈ L) (src space : Nat) (cum : W16) (bitmap : List Nat) (fault : Option (W16 × W16)) (s : State) :
    hide L (e2eResponseCmd src space cum bitmap fault s) = hide L s := by
  unfold e2eResponseCmd
  simp only [hide_ite, ite_self, e2eResponse_hide h_ckpt h_cores h_fab h_free h_grooms h_host h_log h_mem h_outbox h_regs h_regs2, shadowFail_hide h_ckpt h_grooms h_host h_log h_outbox h_regs h_regs2]

theorem restoreBegin_hide {L : List Part} (h_boot : Part.boot ∈ L) (h_cages : Part.cages ∈ L) (h_cfg : Part.cfg ∈ L) (h_ckpt : Part.ckpt ∈ L) (h_cores : Part.cores ∈ L) (h_epoch : Part.epoch ∈ L) (h_exch : Part.exch ∈ L) (h_fab : Part.fab ∈ L) (h_free : Part.free ∈ L) (h_grooms : Part.grooms ∈ L) (h_hitch : Part.hitch ∈ L) (h_host : Part.host ∈ L) (h_job : Part.job ∈ L) (h_latches : Part.latches ∈ L) (h_log : Part.log ∈ L) (h_mem : Part.mem ∈ L) (h_outbox : Part.outbox ∈ L) (h_power : Part.power ∈ L) (h_regs : Part.regs ∈ L) (h_regs2 : Part.regs2 ∈ L) (r : RestartRecord) (i : Nat) (ms : List (List Byte)) (s : State) :
    hide L (restoreBegin r i ms s) = hide L s := by
  unfold restoreBegin
  simp only [hide_ite, ite_self, hide_ckpt h_ckpt, readNext_hide h_ckpt h_cores h_fab h_free h_grooms h_host h_log h_mem h_outbox h_regs h_regs2, mapRebuild_hide h_boot h_cages h_cfg h_ckpt h_cores h_epoch h_exch h_fab h_free h_grooms h_hitch h_host h_job h_latches h_log h_mem h_outbox h_power h_regs h_regs2]

theorem manifestHeld_hide {L : List Part} (h_log : Part.log ∈ L) (h_mem : Part.mem ∈ L) (h_regs : Part.regs ∈ L) (step : W64) (slot : Nat) (s : State) :
    hide L (manifestHeld step slot s).2 = hide L s := by
  unfold manifestHeld
  simp only [hide_ite, ite_self, implies_true, forall_const, engineRead_hide h_log h_mem h_regs, h_log, h_mem, h_regs]; (repeat' (first | (simp only [hide_ite, ite_self, implies_true, forall_const, engineRead_hide h_log h_mem h_regs, h_log, h_mem, h_regs]; done) | split | dsimp only))

theorem manifestsRead_hide {L : List Part} (h_log : Part.log ∈ L) (h_mem : Part.mem ∈ L) (h_regs : Part.regs ∈ L) (r : RestartRecord) (seen : RestartSeen) (s : State) :
    hide L (manifestsRead r seen s).2 = hide L s := by
  unfold manifestsRead
  repeat' (first | (simp only [hide_ite, ite_self, implies_true, forall_const, manifestHeld_hide h_log h_mem h_regs, h_log, h_mem, h_regs, hide_foldl, hide_foldl_fst, hide_foldl_snd]; done) | split | dsimp only | intro _ _ | (refine (hide_foldl _ _ _ ?_).trans ?_) | (refine (hide_foldl_snd _ _ _ ?_).trans ?_) | (simp only [hide, h_log, h_mem, h_regs, if_true]; done) | (simp only [hide_ite, ite_self, implies_true, forall_const, manifestHeld_hide h_log h_mem h_regs, h_log, h_mem, h_regs, hide_foldl, hide_foldl_fst, hide_foldl_snd]; simp only [hide, h_log, h_mem, h_regs, if_true]; done) | simp only [hide_ite, ite_self, implies_true, forall_const, manifestHeld_hide h_log h_mem h_regs, h_log, h_mem, h_regs, hide_foldl, hide_foldl_fst, hide_foldl_snd])

theorem servingSet_hide {L : List Part} (h_ckpt : Part.ckpt ∈ L) (r : RestartRecord) (s : State) :
    hide L (servingSet r s) = hide L s := by
  unfold servingSet
  simp only [hide_ckpt h_ckpt]

theorem restart_hide {L : List Part} (h_boot : Part.boot ∈ L) (h_cages : Part.cages ∈ L) (h_cfg : Part.cfg ∈ L) (h_ckpt : Part.ckpt ∈ L) (h_cores : Part.cores ∈ L) (h_epoch : Part.epoch ∈ L) (h_exch : Part.exch ∈ L) (h_fab : Part.fab ∈ L) (h_free : Part.free ∈ L) (h_grooms : Part.grooms ∈ L) (h_hitch : Part.hitch ∈ L) (h_host : Part.host ∈ L) (h_job : Part.job ∈ L) (h_latches : Part.latches ∈ L) (h_log : Part.log ∈ L) (h_mem : Part.mem ∈ L) (h_outbox : Part.outbox ∈ L) (h_power : Part.power ∈ L) (h_regs : Part.regs ∈ L) (h_regs2 : Part.regs2 ∈ L) (tag : W16) (r : RestartRecord) (seen : RestartSeen) (s : State) :
    hide L (restart tag r seen s) = hide L s := by
  unfold restart
  simp only [hide_ite, ite_self, implies_true, forall_const, complete1_hide h_host h_outbox h_regs2, record_hide h_host h_log h_outbox h_regs h_regs2, refuseCmd_hide h_host h_log h_outbox h_regs h_regs2, manifestsRead_hide h_log h_mem h_regs, farrierRepair_hide h_boot h_free h_host h_log h_mem h_outbox h_regs h_regs2, imageAgain_hide h_boot h_cages h_cfg h_ckpt h_cores h_epoch h_exch h_fab h_free h_grooms h_hitch h_host h_job h_latches h_log h_mem h_outbox h_power h_regs h_regs2, programsBack_hide h_cores, servingSet_hide h_ckpt, mapRebuild_hide h_boot h_cages h_cfg h_ckpt h_cores h_epoch h_exch h_fab h_free h_grooms h_hitch h_host h_job h_latches h_log h_mem h_outbox h_power h_regs h_regs2, restoreBegin_hide h_boot h_cages h_cfg h_ckpt h_cores h_epoch h_exch h_fab h_free h_grooms h_hitch h_host h_job h_latches h_log h_mem h_outbox h_power h_regs h_regs2, h_boot, h_cages, h_cfg, h_ckpt, h_cores, h_epoch, h_exch, h_fab, h_free, h_grooms, h_hitch, h_host, h_job, h_latches, h_log, h_mem, h_outbox, h_power, h_regs, h_regs2]; (repeat' (first | (simp only [hide_ite, ite_self, implies_true, forall_const, complete1_hide h_host h_outbox h_regs2, record_hide h_host h_log h_outbox h_regs h_regs2, refuseCmd_hide h_host h_log h_outbox h_regs h_regs2, manifestsRead_hide h_log h_mem h_regs, farrierRepair_hide h_boot h_free h_host h_log h_mem h_outbox h_regs h_regs2, imageAgain_hide h_boot h_cages h_cfg h_ckpt h_cores h_epoch h_exch h_fab h_free h_grooms h_hitch h_host h_job h_latches h_log h_mem h_outbox h_power h_regs h_regs2, programsBack_hide h_cores, servingSet_hide h_ckpt, mapRebuild_hide h_boot h_cages h_cfg h_ckpt h_cores h_epoch h_exch h_fab h_free h_grooms h_hitch h_host h_job h_latches h_log h_mem h_outbox h_power h_regs h_regs2, restoreBegin_hide h_boot h_cages h_cfg h_ckpt h_cores h_epoch h_exch h_fab h_free h_grooms h_hitch h_host h_job h_latches h_log h_mem h_outbox h_power h_regs h_regs2, h_boot, h_cages, h_cfg, h_ckpt, h_cores, h_epoch, h_exch, h_fab, h_free, h_grooms, h_hitch, h_host, h_job, h_latches, h_log, h_mem, h_outbox, h_power, h_regs, h_regs2]; done) | split | dsimp only))

theorem blockResetDo_hide {L : List Part} (h_boot : Part.boot ∈ L) (h_cages : Part.cages ∈ L) (h_cores : Part.cores ∈ L) (h_exch : Part.exch ∈ L) (h_fab : Part.fab ∈ L) (h_grooms : Part.grooms ∈ L) (h_host : Part.host ∈ L) (h_latches : Part.latches ∈ L) (h_log : Part.log ∈ L) (h_mem : Part.mem ∈ L) (h_outbox : Part.outbox ∈ L) (h_regs : Part.regs ∈ L) (h_regs2 : Part.regs2 ∈ L) (k i : Nat) (s : State) :
    hide L (blockResetDo k i s) = hide L s := by
  unfold blockResetDo
  simp only [hide_ite, ite_self, implies_true, forall_const, coreBlockReset_hide h_cores h_host h_latches h_log h_outbox h_regs h_regs2, groomBlockReset_hide h_exch h_grooms h_latches h_regs, hbmBlockReset_hide h_latches h_log h_mem h_regs, dieBlockReset_hide h_cores h_host h_latches h_log h_mem h_outbox h_regs h_regs2, portBlockReset_hide h_fab h_latches h_regs, cageLost_hide h_cages h_fab h_host h_log h_outbox h_regs h_regs2, trimFit_hide h_boot, h_boot, h_cages, h_cores, h_exch, h_fab, h_grooms, h_host, h_latches, h_log, h_mem, h_outbox, h_regs, h_regs2, hide_foldl, hide_foldl_fst, hide_foldl_snd]; (repeat' (first | (simp only [hide_ite, ite_self, implies_true, forall_const, coreBlockReset_hide h_cores h_host h_latches h_log h_outbox h_regs h_regs2, groomBlockReset_hide h_exch h_grooms h_latches h_regs, hbmBlockReset_hide h_latches h_log h_mem h_regs, dieBlockReset_hide h_cores h_host h_latches h_log h_mem h_outbox h_regs h_regs2, portBlockReset_hide h_fab h_latches h_regs, cageLost_hide h_cages h_fab h_host h_log h_outbox h_regs h_regs2, trimFit_hide h_boot, h_boot, h_cages, h_cores, h_exch, h_fab, h_grooms, h_host, h_latches, h_log, h_mem, h_outbox, h_regs, h_regs2, hide_foldl, hide_foldl_fst, hide_foldl_snd]; done) | split | dsimp only))

theorem blockEnd_hide {L : List Part} (h_boot : Part.boot ∈ L) (h_cages : Part.cages ∈ L) (h_ckpt : Part.ckpt ∈ L) (h_cores : Part.cores ∈ L) (h_exch : Part.exch ∈ L) (h_fab : Part.fab ∈ L) (h_free : Part.free ∈ L) (h_grooms : Part.grooms ∈ L) (h_host : Part.host ∈ L) (h_latches : Part.latches ∈ L) (h_log : Part.log ∈ L) (h_mem : Part.mem ∈ L) (h_outbox : Part.outbox ∈ L) (h_regs : Part.regs ∈ L) (h_regs2 : Part.regs2 ∈ L) (k i st : Nat) (code : W16) (s : State) :
    hide L (blockEnd k i st code s) = hide L s := by
  unfold blockEnd
  simp only [hide_ite, ite_self, hide_boot h_boot, blockResetDo_hide h_boot h_cages h_cores h_exch h_fab h_grooms h_host h_latches h_log h_mem h_outbox h_regs h_regs2, record_hide h_host h_log h_outbox h_regs h_regs2, rfSet_hide h_regs, arrivalsGo_hide h_ckpt h_cores h_fab h_free h_grooms h_host h_log h_mem h_outbox h_regs h_regs2]

theorem blockIdle_hide {L : List Part} (h_boot : Part.boot ∈ L) (h_cages : Part.cages ∈ L) (h_ckpt : Part.ckpt ∈ L) (h_cores : Part.cores ∈ L) (h_exch : Part.exch ∈ L) (h_fab : Part.fab ∈ L) (h_free : Part.free ∈ L) (h_grooms : Part.grooms ∈ L) (h_host : Part.host ∈ L) (h_latches : Part.latches ∈ L) (h_log : Part.log ∈ L) (h_mem : Part.mem ∈ L) (h_outbox : Part.outbox ∈ L) (h_regs : Part.regs ∈ L) (h_regs2 : Part.regs2 ∈ L) (s : State) :
    hide L (blockIdle s) = hide L s := by
  unfold blockIdle
  repeat' (first | (simp only [hide_ite, ite_self, implies_true, forall_const, blockEnd_hide h_boot h_cages h_ckpt h_cores h_exch h_fab h_free h_grooms h_host h_latches h_log h_mem h_outbox h_regs h_regs2, h_boot, h_cages, h_ckpt, h_cores, h_exch, h_fab, h_free, h_grooms, h_host, h_latches, h_log, h_mem, h_outbox, h_regs, h_regs2]; done) | split | dsimp only | intro _ _ | (refine (hide_foldl _ _ _ ?_).trans ?_) | (refine (hide_foldl_snd _ _ _ ?_).trans ?_) | (simp only [hide, h_boot, h_cages, h_ckpt, h_cores, h_exch, h_fab, h_free, h_grooms, h_host, h_latches, h_log, h_mem, h_outbox, h_regs, h_regs2, if_true]; done) | (simp only [hide_ite, ite_self, implies_true, forall_const, blockEnd_hide h_boot h_cages h_ckpt h_cores h_exch h_fab h_free h_grooms h_host h_latches h_log h_mem h_outbox h_regs h_regs2, h_boot, h_cages, h_ckpt, h_cores, h_exch, h_fab, h_free, h_grooms, h_host, h_latches, h_log, h_mem, h_outbox, h_regs, h_regs2]; simp only [hide, h_boot, h_cages, h_ckpt, h_cores, h_exch, h_fab, h_free, h_grooms, h_host, h_latches, h_log, h_mem, h_outbox, h_regs, h_regs2, if_true]; done) | simp only [hide_ite, ite_self, implies_true, forall_const, blockEnd_hide h_boot h_cages h_ckpt h_cores h_exch h_fab h_free h_grooms h_host h_latches h_log h_mem h_outbox h_regs h_regs2, h_boot, h_cages, h_ckpt, h_cores, h_exch, h_fab, h_free, h_grooms, h_host, h_latches, h_log, h_mem, h_outbox, h_regs, h_regs2])

theorem blockIdleTimeout_hide {L : List Part} (h_boot : Part.boot ∈ L) (h_cages : Part.cages ∈ L) (h_ckpt : Part.ckpt ∈ L) (h_cores : Part.cores ∈ L) (h_exch : Part.exch ∈ L) (h_fab : Part.fab ∈ L) (h_free : Part.free ∈ L) (h_grooms : Part.grooms ∈ L) (h_host : Part.host ∈ L) (h_latches : Part.latches ∈ L) (h_log : Part.log ∈ L) (h_mem : Part.mem ∈ L) (h_outbox : Part.outbox ∈ L) (h_regs : Part.regs ∈ L) (h_regs2 : Part.regs2 ∈ L) (s : State) :
    hide L (blockIdleTimeout s) = hide L s := by
  unfold blockIdleTimeout
  repeat' (first | (simp only [hide_ite, ite_self, implies_true, forall_const, blockEnd_hide h_boot h_cages h_ckpt h_cores h_exch h_fab h_free h_grooms h_host h_latches h_log h_mem h_outbox h_regs h_regs2, h_boot, h_cages, h_ckpt, h_cores, h_exch, h_fab, h_free, h_grooms, h_host, h_latches, h_log, h_mem, h_outbox, h_regs, h_regs2]; done) | split | dsimp only | intro _ _ | (refine (hide_foldl _ _ _ ?_).trans ?_) | (refine (hide_foldl_snd _ _ _ ?_).trans ?_) | (simp only [hide, h_boot, h_cages, h_ckpt, h_cores, h_exch, h_fab, h_free, h_grooms, h_host, h_latches, h_log, h_mem, h_outbox, h_regs, h_regs2, if_true]; done) | (simp only [hide_ite, ite_self, implies_true, forall_const, blockEnd_hide h_boot h_cages h_ckpt h_cores h_exch h_fab h_free h_grooms h_host h_latches h_log h_mem h_outbox h_regs h_regs2, h_boot, h_cages, h_ckpt, h_cores, h_exch, h_fab, h_free, h_grooms, h_host, h_latches, h_log, h_mem, h_outbox, h_regs, h_regs2]; simp only [hide, h_boot, h_cages, h_ckpt, h_cores, h_exch, h_fab, h_free, h_grooms, h_host, h_latches, h_log, h_mem, h_outbox, h_regs, h_regs2, if_true]; done) | simp only [hide_ite, ite_self, implies_true, forall_const, blockEnd_hide h_boot h_cages h_ckpt h_cores h_exch h_fab h_free h_grooms h_host h_latches h_log h_mem h_outbox h_regs h_regs2, h_boot, h_cages, h_ckpt, h_cores, h_exch, h_fab, h_free, h_grooms, h_host, h_latches, h_log, h_mem, h_outbox, h_regs, h_regs2])

theorem collBlockReset_hide {L : List Part} (h_fab : Part.fab ∈ L) (h_latches : Part.latches ∈ L) (h_regs : Part.regs ∈ L) (s : State) :
    hide L (collBlockReset s) = hide L s := by
  unfold collBlockReset
  simp only [hide_fab h_fab, regsReset_hide h_latches h_regs]

theorem engineBlockReset_hide {L : List Part} (h_ckpt : Part.ckpt ∈ L) (h_grooms : Part.grooms ∈ L) (h_host : Part.host ∈ L) (h_log : Part.log ∈ L) (h_outbox : Part.outbox ∈ L) (h_regs : Part.regs ∈ L) (h_regs2 : Part.regs2 ∈ L) (s : State) :
    hide L (engineBlockReset s) = hide L s := by
  unfold engineBlockReset
  simp only [hide_ite, ite_self, hide_ckpt h_ckpt, restartComplete_hide h_host h_outbox h_regs2, cutFail_hide h_ckpt h_grooms h_host h_log h_outbox h_regs h_regs2]

theorem islandReset_hide {L : List Part} (h_cages : Part.cages ∈ L) (h_cfg : Part.cfg ∈ L) (h_ckpt : Part.ckpt ∈ L) (h_cores : Part.cores ∈ L) (h_exch : Part.exch ∈ L) (h_fab : Part.fab ∈ L) (h_grooms : Part.grooms ∈ L) (h_hitch : Part.hitch ∈ L) (h_host : Part.host ∈ L) (h_latches : Part.latches ∈ L) (h_log : Part.log ∈ L) (h_mem : Part.mem ∈ L) (h_outbox : Part.outbox ∈ L) (h_regs : Part.regs ∈ L) (h_regs2 : Part.regs2 ∈ L) (i : Nat) (s : State) :
    hide L (islandReset i s) = hide L s := by
  unfold islandReset
  simp only [hide_ite, ite_self, implies_true, hide_regs2 h_regs2, coreBlockReset_hide h_cores h_host h_latches h_log h_outbox h_regs h_regs2, loftBlockReset_hide h_latches h_log h_mem h_regs, groomBlockReset_hide h_exch h_grooms h_latches h_regs, hbmBlockReset_hide h_latches h_log h_mem h_regs, portBlockReset_hide h_fab h_latches h_regs, portDown_hide h_fab h_host h_log h_outbox h_regs h_regs2, cageLost_hide h_cages h_fab h_host h_log h_outbox h_regs h_regs2, pcieReset_hide h_cfg h_hitch h_host h_regs2, collBlockReset_hide h_fab h_latches h_regs, engineBlockReset_hide h_ckpt h_grooms h_host h_log h_outbox h_regs h_regs2, hide_foldl]

theorem clockLost_hide {L : List Part} (h_boot : Part.boot ∈ L) (h_cages : Part.cages ∈ L) (h_cfg : Part.cfg ∈ L) (h_ckpt : Part.ckpt ∈ L) (h_cores : Part.cores ∈ L) (h_epoch : Part.epoch ∈ L) (h_exch : Part.exch ∈ L) (h_fab : Part.fab ∈ L) (h_grooms : Part.grooms ∈ L) (h_hitch : Part.hitch ∈ L) (h_host : Part.host ∈ L) (h_job : Part.job ∈ L) (h_latches : Part.latches ∈ L) (h_log : Part.log ∈ L) (h_mem : Part.mem ∈ L) (h_outbox : Part.outbox ∈ L) (h_power : Part.power ∈ L) (h_regs : Part.regs ∈ L) (h_regs2 : Part.regs2 ∈ L) (i : Nat) (s : State) :
    hide L (clockLost i s) = hide L s := by
  unfold clockLost
  simp only [hide_ite, ite_self, hide_boot h_boot, resetEdge_hide h_boot h_cages h_cfg h_ckpt h_cores h_epoch h_exch h_fab h_grooms h_hitch h_host h_job h_latches h_log h_mem h_power h_regs h_regs2, rfSet_hide h_regs, islandReset_hide h_cages h_cfg h_ckpt h_cores h_exch h_fab h_grooms h_hitch h_host h_latches h_log h_mem h_outbox h_regs h_regs2, record_hide h_host h_log h_outbox h_regs h_regs2]

end Sys2Proof.Machine
end

