-- ==== Sys2Proof/Laws/Tab.lean ====
section
/-!
SUPPORT. Sparse tables: what a read gives after a write, and that every write keeps the canonical form.
-/
namespace Sys2Proof.Machine

theorem tabGet_filter_ne {α : Type} (d : α) (t : Tab α) (k j : Nat) :
    tabGet d (t.filter (fun e => e.1 != k)) j = if j = k then d else tabGet d t j := by
  induction t with
  | nil => simp [tabGet]
  | cons e t ih =>
    obtain ⟨k', v⟩ := e
    by_cases h : k' = k
    · subst h
      simp only [List.filter_cons, bne_self_eq_false, Bool.false_eq_true, if_false, ih, tabGet]
      split <;> simp_all
    · simp only [List.filter_cons, bne_iff_ne, ne_eq, h, not_false_eq_true, if_true, tabGet, ih]
      split <;> split <;> simp_all

theorem tabGet_insert {α : Type} (d : α) (t : Tab α) (k j : Nat) (v : α) :
    tabGet d (tabInsert t k v) j = if j = k then v else tabGet d t j := by
  induction t with
  | nil => simp [tabInsert, tabGet]
  | cons e t ih =>
    obtain ⟨k', v'⟩ := e
    simp only [tabInsert]
    split
    · simp only [tabGet]
    · split
      · rename_i h; subst h; simp only [tabGet]; split <;> rfl
      · simp only [tabGet, ih]
        split
        · rename_i h h' h''; subst h''; simp [Ne.symm h']
        · rfl

/-- A read after a write. -/
theorem tabGet_set {α : Type} [DecidableEq α] (d : α) (t : Tab α) (k j : Nat) (v : α) :
    tabGet d (tabSet d t k v) j = if j = k then v else tabGet d t j := by
  unfold tabSet
  split
  · rename_i h; subst h; exact tabGet_filter_ne ..
  · exact tabGet_insert ..

@[simp] theorem tabGet_set_self {α : Type} [DecidableEq α] (d : α) (t : Tab α) (k : Nat) (v : α) :
    tabGet d (tabSet d t k v) k = v := by simp [tabGet_set]

/-- A write leaves every other key, whatever default either reads with. -/
theorem tabGet_set_ne {α : Type} [DecidableEq α] (d d' : α) (t : Tab α) {k j : Nat} (h : j ≠ k) (v : α) :
    tabGet d (tabSet d' t k v) j = tabGet d t j := by
  unfold tabSet
  split
  · simp [tabGet_filter_ne, h]
  · simp [tabGet_insert, h]

theorem mem_tabInsert {α : Type} (t : Tab α) (k : Nat) (v : α) (e : Nat × α) :
    e ∈ tabInsert t k v → e = (k, v) ∨ e ∈ t := by
  induction t with
  | nil => simp [tabInsert]
  | cons f t ih =>
    obtain ⟨k', v'⟩ := f
    simp only [tabInsert]
    split
    · simp
    · split
      · simp; tauto
      · simp only [List.mem_cons]; intro h; rcases h with h | h
        · exact .inr (.inl h)
        · rcases ih h with h | h
          · exact .inl h
          · exact .inr (.inr h)

theorem tabInsert_rising {α : Type} (t : Tab α) (k : Nat) (v : α)
    (h : t.Pairwise (fun a b => a.1 < b.1)) : (tabInsert t k v).Pairwise (fun a b => a.1 < b.1) := by
  induction t with
  | nil => simp [tabInsert]
  | cons f t ih =>
    obtain ⟨k', v'⟩ := f
    rw [List.pairwise_cons] at h
    simp only [tabInsert]
    split
    · rename_i hk
      refine List.pairwise_cons.2 ⟨?_, List.pairwise_cons.2 h⟩
      intro e he
      rcases List.mem_cons.1 he with rfl | he
      · exact hk
      · exact Nat.lt_trans hk (h.1 e he)
    · split
      · rename_i hk; subst hk; exact List.pairwise_cons.2 h
      · rename_i h1 h2
        refine List.pairwise_cons.2 ⟨?_, ih h.2⟩
        intro e he
        rcases mem_tabInsert _ _ _ _ he with rfl | he
        · show k' < k; omega
        · exact h.1 e he

/-- A write keeps the canonical form. -/
theorem tabSet_wf {α : Type} [DecidableEq α] (d : α) (t : Tab α) (k : Nat) (v : α) (h : tabWf d t) :
    tabWf d (tabSet d t k v) := by
  unfold tabSet
  split
  · exact ⟨h.1.filter _, fun e he => h.2 e (List.mem_of_mem_filter he)⟩
  · rename_i hv
    refine ⟨tabInsert_rising _ _ _ h.1, fun e he => ?_⟩
    rcases mem_tabInsert _ _ _ _ he with rfl | he
    · exact hv
    · exact h.2 e he

/-- A filter keeps the canonical form. -/
theorem tabWf_filter {α : Type} [DecidableEq α] (d : α) (t : Tab α) (p : Nat × α → Bool) (h : tabWf d t) :
    tabWf d (t.filter p) := ⟨h.1.filter _, fun e he => h.2 e (List.mem_of_mem_filter he)⟩

end Sys2Proof.Machine
end

