-- ==== Sys2Proof/Laws/Memory.lean ====
section
/-!
SUPPORT. Memory: a read after a write, and that every memory operation keeps the canonical form.
-/
namespace Sys2Proof.Machine

theorem tabGet_of_no_key {α : Type} (d : α) (t : Tab α) (k : Nat) (h : ∀ e ∈ t, e.1 ≠ k) : tabGet d t k = d := by
  induction t with
  | nil => rfl
  | cons e t ih =>
    obtain ⟨k', v⟩ := e
    have h0 : k ≠ k' := fun hh => h (k', v) (by simp) hh.symm
    simp only [tabGet, h0, if_false]
    exact ih (fun e he => h e (by simp [he]))

theorem tabGet_append_of_no_key {α : Type} (d : α) (t u : Tab α) (k : Nat) (h : ∀ e ∈ t, e.1 ≠ k) :
    tabGet d (t ++ u) k = tabGet d u k := by
  induction t with
  | nil => rfl
  | cons e t ih =>
    obtain ⟨k', v⟩ := e
    have h0 : k ≠ k' := fun hh => h (k', v) (by simp) hh.symm
    simp only [List.cons_append, tabGet, h0, if_false]
    exact ih (fun e he => h e (by simp [he]))

theorem tabGet_append_of_no_key_right {α : Type} (d : α) (t u : Tab α) (k : Nat) (h : ∀ e ∈ u, e.1 ≠ k) :
    tabGet d (t ++ u) k = tabGet d t k := by
  induction t with
  | nil => simpa [tabGet] using tabGet_of_no_key d u k h
  | cons e t ih =>
    obtain ⟨k', v⟩ := e
    simp only [List.cons_append, tabGet, ih]

theorem tabGet_filter {α : Type} (d : α) (t : Tab α) (p : Nat → Bool) (k : Nat) :
    tabGet d (t.filter (fun e => p e.1)) k = if p k then tabGet d t k else d := by
  induction t with
  | nil => simp [tabGet]
  | cons e t ih =>
    obtain ⟨k', v⟩ := e
    simp only [List.filter_cons]
    by_cases hk : k = k'
    · subst hk
      by_cases hp : p k <;> simp [hp, tabGet, ih]
    · by_cases hp : p k' <;> simp [hp, tabGet, ih, hk]

/-- The entries that a written list adds to memory. -/
theorem splice_mid_get (a : Nat) (l : List Byte) (k : Nat) :
    tabGet 0 ((l.zipIdx a).filterMap (fun e => if e.1 = 0 then none else some (e.2, e.1))) k =
      if a ≤ k ∧ k < a + l.length then l.getD (k - a) 0 else 0 := by
  induction l generalizing a with
  | nil => simp [tabGet]
  | cons b l ih =>
    simp only [List.zipIdx_cons, List.filterMap_cons, List.length_cons]
    by_cases hk : k = a
    · subst hk
      by_cases hb : b = 0
      · simp only [hb, if_true, ih]
        simp
      · simp only [hb, if_false, tabGet, if_true]
        simp
    · have hstep : (if a + 1 ≤ k ∧ k < a + 1 + l.length then l.getD (k - (a + 1)) 0 else (0 : Byte)) =
          if a ≤ k ∧ k < a + (l.length + 1) then (b :: l).getD (k - a) 0 else 0 := by
        by_cases h : a + 1 ≤ k ∧ k < a + 1 + l.length
        · have h2 : a ≤ k ∧ k < a + (l.length + 1) := by omega
          have h3 : k - a = (k - (a + 1)) + 1 := by omega
          simp only [h, h2, and_self, if_true, h3, List.getD_cons_succ]
        · have h2 : ¬ (a ≤ k ∧ k < a + (l.length + 1)) := by omega
          simp only [h, h2, if_false]
      by_cases hb : b = 0
      · simp only [hb, if_true, ih]
        subst hb; exact hstep
      · simp only [hb, if_false, tabGet, hk, ih]
        exact hstep

theorem mem_zipIdx_range {α : Type} (l : List α) (a : Nat) (e : α × Nat) (h : e ∈ l.zipIdx a) :
    a ≤ e.2 ∧ e.2 < a + l.length := by
  obtain ⟨x, i⟩ := e
  have := List.mem_zipIdx h
  exact ⟨this.1, this.2.1⟩

theorem splice_mid_key (a : Nat) (l : List Byte) (e : Host.Cell)
    (h : e ∈ (l.zipIdx a).filterMap (fun e => if e.1 = 0 then none else some (e.2, e.1))) :
    a ≤ e.1 ∧ e.1 < a + l.length ∧ e.2 ≠ 0 := by
  rw [List.mem_filterMap] at h
  obtain ⟨x, hx, he⟩ := h
  split at he
  · cases he
  · rename_i hz
    cases he
    have := mem_zipIdx_range _ _ _ hx
    exact ⟨this.1, this.2, hz⟩

/-- A byte of spliced memory. -/
theorem tabGet_splice (t : List Host.Cell) (a : Nat) (l : List Byte) (k : Nat) :
    tabGet 0 (tabSplice t a l) k =
      if a ≤ k ∧ k < a + l.length then l.getD (k - a) 0 else tabGet 0 t k := by
  unfold tabSplice
  by_cases h1 : k < a
  · rw [tabGet_append_of_no_key_right, tabGet_append_of_no_key_right,
      tabGet_filter 0 t (fun x => decide (x < a))]
    · have : ¬ (a ≤ k ∧ k < a + l.length) := by omega
      simp [h1, this]
    · intro e he; have := splice_mid_key _ _ _ he; omega
    · intro e he; simp only [List.mem_filter, decide_eq_true_eq] at he; omega
  · by_cases h2 : k < a + l.length
    · rw [tabGet_append_of_no_key_right, tabGet_append_of_no_key, splice_mid_get]
      · have : a ≤ k ∧ k < a + l.length := by omega
        simp [this]
      · intro e he; simp only [List.mem_filter, decide_eq_true_eq] at he; omega
      · intro e he; simp only [List.mem_filter, decide_eq_true_eq] at he; omega
    · rw [tabGet_append_of_no_key, tabGet_filter 0 t (fun x => decide (a + l.length ≤ x))]
      · have h3 : a + l.length ≤ k := by omega
        have : ¬ (a ≤ k ∧ k < a + l.length) := by omega
        simp [h3]
      · intro e he
        rcases List.mem_append.1 he with he | he
        · simp only [List.mem_filter, decide_eq_true_eq] at he; omega
        · have := splice_mid_key _ _ _ he; omega

/-- Fresh codes leave the bytes alone. -/
@[simp] theorem freshCodes_bytes (s : State) (a n : Nat) (m : MemSt) : (freshCodes s a n m).bytes = m.bytes := rfl

/-- A byte after a write. -/
theorem memByte_write (s : State) (a : Nat) (l : List Byte) (k : Nat) :
    memByte (memWrite a l s) k = if a ≤ k ∧ k < a + l.length then l.getD (k - a) 0 else memByte s k := by
  unfold memWrite memByte
  by_cases h : l = []
  · subst h
    have : ¬ (a ≤ k ∧ k < a + ([] : List Byte).length) := by simp only [List.length_nil]; omega
    simp only [if_true, this, if_false]
  · simp only [h, if_false, freshCodes_bytes, tabGet_splice]

/-- A byte after a range is zeroed. -/
theorem memByte_zero (s : State) (a n k : Nat) :
    memByte (memZero a n s) k = if a ≤ k ∧ k < a + n then 0 else memByte s k := by
  unfold memZero memByte
  simp only [freshCodes_bytes, tabGet_filter 0 s.mem.bytes (fun x => decide (¬ (a ≤ x ∧ x < a + n)))]
  by_cases h : a ≤ k ∧ k < a + n <;> simp [h]

/-- A read gives the bytes. -/
theorem memRead_eq (s : State) (a n : Nat) : memRead s a n = (List.range n).map (fun i => memByte s (a + i)) := by
  unfold memRead memByte
  refine List.map_congr_left (fun i hi => ?_)
  have hi' := List.mem_range.1 hi
  simp only [tabGet_filter 0 s.mem.bytes (fun x => decide (a ≤ x ∧ x < a + n))]
  have : a ≤ a + i ∧ a + i < a + n := by omega
  simp [this]

theorem splice_mid_rising (a : Nat) (l : List Byte) :
    ((l.zipIdx a).filterMap (fun e => if e.1 = 0 then none else some (e.2, e.1))).Pairwise
      (fun x y : Host.Cell => x.1 < y.1) := by
  induction l generalizing a with
  | nil => simp
  | cons b l ih =>
    simp only [List.zipIdx_cons, List.filterMap_cons]
    by_cases hb : b = 0
    · simp only [hb, if_true]; exact ih _
    · simp only [hb, if_false]
      refine List.pairwise_cons.2 ⟨fun e he => ?_, ih _⟩
      have := splice_mid_key _ _ _ he
      show a < e.1; omega

/-- A splice keeps the canonical form. -/
theorem tabSplice_wf (t : List Host.Cell) (a : Nat) (l : List Byte) (h : Memory.wf t) :
    Memory.wf (tabSplice t a l) := by
  unfold tabSplice
  refine ⟨?_, ?_⟩
  · refine List.pairwise_append.2 ⟨List.pairwise_append.2 ⟨h.1.filter _, splice_mid_rising _ _, ?_⟩, h.1.filter _, ?_⟩
    · intro x hx y hy
      have := splice_mid_key _ _ _ hy
      simp only [List.mem_filter, decide_eq_true_eq] at hx; omega
    · intro x hx y hy
      simp only [List.mem_filter, decide_eq_true_eq] at hy
      rcases List.mem_append.1 hx with hx | hx
      · simp only [List.mem_filter, decide_eq_true_eq] at hx; omega
      · have := splice_mid_key _ _ _ hx; omega
  · intro e he
    rcases List.mem_append.1 he with he | he
    · rcases List.mem_append.1 he with he | he
      · exact h.2 e (List.mem_of_mem_filter he)
      · exact (splice_mid_key _ _ _ he).2.2
    · exact h.2 e (List.mem_of_mem_filter he)

/-- Writing keeps the canonical form. -/
theorem memWrite_wf (a : Nat) (l : List Byte) (s : State) (h : Memory.wf s.mem.bytes) :
    Memory.wf (memWrite a l s).mem.bytes := by
  unfold memWrite
  split
  · exact h
  · exact tabSplice_wf _ _ _ h

/-- Zeroing keeps the canonical form. -/
theorem memZero_wf (a n : Nat) (s : State) (h : Memory.wf s.mem.bytes) : Memory.wf (memZero a n s).mem.bytes :=
  tabWf_filter _ _ _ h

/-- The memory at reset has the canonical form. -/
theorem reset_memory_wf : Memory.wf State.reset.mem.bytes := ⟨List.Pairwise.nil, fun _ h => by cases h⟩

end Sys2Proof.Machine
end

