-- ==== Sys2Proof/Laws/State.lean ====
section
/-!
SUPPORT. What the updates of the state leave alone: one lemma for each field and update.
-/
namespace Sys2Proof.Machine

@[simp] theorem regSet_pending (off : Nat) (v : W32) (s : State) : (regSet off v s).pending = s.pending := rfl
@[simp] theorem regSet_free (off : Nat) (v : W32) (s : State) : (regSet off v s).free = s.free := rfl
@[simp] theorem regSet_hostRead (off : Nat) (v : W32) (s : State) : (regSet off v s).hostRead = s.hostRead := rfl
@[simp] theorem regSet_regs2 (off : Nat) (v : W32) (s : State) : (regSet off v s).regs2 = s.regs2 := rfl
@[simp] theorem regSet_cfg (off : Nat) (v : W32) (s : State) : (regSet off v s).cfg = s.cfg := rfl
@[simp] theorem regSet_latches (off : Nat) (v : W32) (s : State) : (regSet off v s).latches = s.latches := rfl
@[simp] theorem regSet_mem (off : Nat) (v : W32) (s : State) : (regSet off v s).mem = s.mem := rfl
@[simp] theorem regSet_cores (off : Nat) (v : W32) (s : State) : (regSet off v s).cores = s.cores := rfl
@[simp] theorem regSet_grooms (off : Nat) (v : W32) (s : State) : (regSet off v s).grooms = s.grooms := rfl
@[simp] theorem regSet_exch (off : Nat) (v : W32) (s : State) : (regSet off v s).exch = s.exch := rfl
@[simp] theorem regSet_fab (off : Nat) (v : W32) (s : State) : (regSet off v s).fab = s.fab := rfl
@[simp] theorem regSet_hitch (off : Nat) (v : W32) (s : State) : (regSet off v s).hitch = s.hitch := rfl
@[simp] theorem regSet_cages (off : Nat) (v : W32) (s : State) : (regSet off v s).cages = s.cages := rfl
@[simp] theorem regSet_job (off : Nat) (v : W32) (s : State) : (regSet off v s).job = s.job := rfl
@[simp] theorem regSet_epoch (off : Nat) (v : W32) (s : State) : (regSet off v s).epoch = s.epoch := rfl
@[simp] theorem regSet_ckpt (off : Nat) (v : W32) (s : State) : (regSet off v s).ckpt = s.ckpt := rfl
@[simp] theorem regSet_boot (off : Nat) (v : W32) (s : State) : (regSet off v s).boot = s.boot := rfl
@[simp] theorem regSet_power (off : Nat) (v : W32) (s : State) : (regSet off v s).power = s.power := rfl
@[simp] theorem regSet_log (off : Nat) (v : W32) (s : State) : (regSet off v s).log = s.log := rfl
@[simp] theorem regSet_host (off : Nat) (v : W32) (s : State) : (regSet off v s).host = s.host := rfl
@[simp] theorem regSet_outbox (off : Nat) (v : W32) (s : State) : (regSet off v s).outbox = s.outbox := rfl

@[simp] theorem rfSet_pending (off lo w v : Nat) (s : State) : (rfSet off lo w v s).pending = s.pending := rfl
@[simp] theorem rfSet_free (off lo w v : Nat) (s : State) : (rfSet off lo w v s).free = s.free := rfl
@[simp] theorem rfSet_hostRead (off lo w v : Nat) (s : State) : (rfSet off lo w v s).hostRead = s.hostRead := rfl
@[simp] theorem rfSet_regs2 (off lo w v : Nat) (s : State) : (rfSet off lo w v s).regs2 = s.regs2 := rfl
@[simp] theorem rfSet_cfg (off lo w v : Nat) (s : State) : (rfSet off lo w v s).cfg = s.cfg := rfl
@[simp] theorem rfSet_latches (off lo w v : Nat) (s : State) : (rfSet off lo w v s).latches = s.latches := rfl
@[simp] theorem rfSet_mem (off lo w v : Nat) (s : State) : (rfSet off lo w v s).mem = s.mem := rfl
@[simp] theorem rfSet_cores (off lo w v : Nat) (s : State) : (rfSet off lo w v s).cores = s.cores := rfl
@[simp] theorem rfSet_grooms (off lo w v : Nat) (s : State) : (rfSet off lo w v s).grooms = s.grooms := rfl
@[simp] theorem rfSet_exch (off lo w v : Nat) (s : State) : (rfSet off lo w v s).exch = s.exch := rfl
@[simp] theorem rfSet_fab (off lo w v : Nat) (s : State) : (rfSet off lo w v s).fab = s.fab := rfl
@[simp] theorem rfSet_hitch (off lo w v : Nat) (s : State) : (rfSet off lo w v s).hitch = s.hitch := rfl
@[simp] theorem rfSet_cages (off lo w v : Nat) (s : State) : (rfSet off lo w v s).cages = s.cages := rfl
@[simp] theorem rfSet_job (off lo w v : Nat) (s : State) : (rfSet off lo w v s).job = s.job := rfl
@[simp] theorem rfSet_epoch (off lo w v : Nat) (s : State) : (rfSet off lo w v s).epoch = s.epoch := rfl
@[simp] theorem rfSet_ckpt (off lo w v : Nat) (s : State) : (rfSet off lo w v s).ckpt = s.ckpt := rfl
@[simp] theorem rfSet_boot (off lo w v : Nat) (s : State) : (rfSet off lo w v s).boot = s.boot := rfl
@[simp] theorem rfSet_power (off lo w v : Nat) (s : State) : (rfSet off lo w v s).power = s.power := rfl
@[simp] theorem rfSet_log (off lo w v : Nat) (s : State) : (rfSet off lo w v s).log = s.log := rfl
@[simp] theorem rfSet_host (off lo w v : Nat) (s : State) : (rfSet off lo w v s).host = s.host := rfl
@[simp] theorem rfSet_outbox (off lo w v : Nat) (s : State) : (rfSet off lo w v s).outbox = s.outbox := rfl

@[simp] theorem regAdd_pending (off n : Nat) (s : State) : (regAdd off n s).pending = s.pending := rfl
@[simp] theorem regAdd_free (off n : Nat) (s : State) : (regAdd off n s).free = s.free := rfl
@[simp] theorem regAdd_hostRead (off n : Nat) (s : State) : (regAdd off n s).hostRead = s.hostRead := rfl
@[simp] theorem regAdd_regs2 (off n : Nat) (s : State) : (regAdd off n s).regs2 = s.regs2 := rfl
@[simp] theorem regAdd_cfg (off n : Nat) (s : State) : (regAdd off n s).cfg = s.cfg := rfl
@[simp] theorem regAdd_latches (off n : Nat) (s : State) : (regAdd off n s).latches = s.latches := rfl
@[simp] theorem regAdd_mem (off n : Nat) (s : State) : (regAdd off n s).mem = s.mem := rfl
@[simp] theorem regAdd_cores (off n : Nat) (s : State) : (regAdd off n s).cores = s.cores := rfl
@[simp] theorem regAdd_grooms (off n : Nat) (s : State) : (regAdd off n s).grooms = s.grooms := rfl
@[simp] theorem regAdd_exch (off n : Nat) (s : State) : (regAdd off n s).exch = s.exch := rfl
@[simp] theorem regAdd_fab (off n : Nat) (s : State) : (regAdd off n s).fab = s.fab := rfl
@[simp] theorem regAdd_hitch (off n : Nat) (s : State) : (regAdd off n s).hitch = s.hitch := rfl
@[simp] theorem regAdd_cages (off n : Nat) (s : State) : (regAdd off n s).cages = s.cages := rfl
@[simp] theorem regAdd_job (off n : Nat) (s : State) : (regAdd off n s).job = s.job := rfl
@[simp] theorem regAdd_epoch (off n : Nat) (s : State) : (regAdd off n s).epoch = s.epoch := rfl
@[simp] theorem regAdd_ckpt (off n : Nat) (s : State) : (regAdd off n s).ckpt = s.ckpt := rfl
@[simp] theorem regAdd_boot (off n : Nat) (s : State) : (regAdd off n s).boot = s.boot := rfl
@[simp] theorem regAdd_power (off n : Nat) (s : State) : (regAdd off n s).power = s.power := rfl
@[simp] theorem regAdd_log (off n : Nat) (s : State) : (regAdd off n s).log = s.log := rfl
@[simp] theorem regAdd_host (off n : Nat) (s : State) : (regAdd off n s).host = s.host := rfl
@[simp] theorem regAdd_outbox (off n : Nat) (s : State) : (regAdd off n s).outbox = s.outbox := rfl

@[simp] theorem regAdd64_pending (off n : Nat) (s : State) : (regAdd64 off n s).pending = s.pending := rfl
@[simp] theorem regAdd64_free (off n : Nat) (s : State) : (regAdd64 off n s).free = s.free := rfl
@[simp] theorem regAdd64_hostRead (off n : Nat) (s : State) : (regAdd64 off n s).hostRead = s.hostRead := rfl
@[simp] theorem regAdd64_regs2 (off n : Nat) (s : State) : (regAdd64 off n s).regs2 = s.regs2 := rfl
@[simp] theorem regAdd64_cfg (off n : Nat) (s : State) : (regAdd64 off n s).cfg = s.cfg := rfl
@[simp] theorem regAdd64_latches (off n : Nat) (s : State) : (regAdd64 off n s).latches = s.latches := rfl
@[simp] theorem regAdd64_mem (off n : Nat) (s : State) : (regAdd64 off n s).mem = s.mem := rfl
@[simp] theorem regAdd64_cores (off n : Nat) (s : State) : (regAdd64 off n s).cores = s.cores := rfl
@[simp] theorem regAdd64_grooms (off n : Nat) (s : State) : (regAdd64 off n s).grooms = s.grooms := rfl
@[simp] theorem regAdd64_exch (off n : Nat) (s : State) : (regAdd64 off n s).exch = s.exch := rfl
@[simp] theorem regAdd64_fab (off n : Nat) (s : State) : (regAdd64 off n s).fab = s.fab := rfl
@[simp] theorem regAdd64_hitch (off n : Nat) (s : State) : (regAdd64 off n s).hitch = s.hitch := rfl
@[simp] theorem regAdd64_cages (off n : Nat) (s : State) : (regAdd64 off n s).cages = s.cages := rfl
@[simp] theorem regAdd64_job (off n : Nat) (s : State) : (regAdd64 off n s).job = s.job := rfl
@[simp] theorem regAdd64_epoch (off n : Nat) (s : State) : (regAdd64 off n s).epoch = s.epoch := rfl
@[simp] theorem regAdd64_ckpt (off n : Nat) (s : State) : (regAdd64 off n s).ckpt = s.ckpt := rfl
@[simp] theorem regAdd64_boot (off n : Nat) (s : State) : (regAdd64 off n s).boot = s.boot := rfl
@[simp] theorem regAdd64_power (off n : Nat) (s : State) : (regAdd64 off n s).power = s.power := rfl
@[simp] theorem regAdd64_log (off n : Nat) (s : State) : (regAdd64 off n s).log = s.log := rfl
@[simp] theorem regAdd64_host (off n : Nat) (s : State) : (regAdd64 off n s).host = s.host := rfl
@[simp] theorem regAdd64_outbox (off n : Nat) (s : State) : (regAdd64 off n s).outbox = s.outbox := rfl

@[simp] theorem reg64Set_pending (off v : Nat) (s : State) : (reg64Set off v s).pending = s.pending := rfl
@[simp] theorem reg64Set_free (off v : Nat) (s : State) : (reg64Set off v s).free = s.free := rfl
@[simp] theorem reg64Set_hostRead (off v : Nat) (s : State) : (reg64Set off v s).hostRead = s.hostRead := rfl
@[simp] theorem reg64Set_regs2 (off v : Nat) (s : State) : (reg64Set off v s).regs2 = s.regs2 := rfl
@[simp] theorem reg64Set_cfg (off v : Nat) (s : State) : (reg64Set off v s).cfg = s.cfg := rfl
@[simp] theorem reg64Set_latches (off v : Nat) (s : State) : (reg64Set off v s).latches = s.latches := rfl
@[simp] theorem reg64Set_mem (off v : Nat) (s : State) : (reg64Set off v s).mem = s.mem := rfl
@[simp] theorem reg64Set_cores (off v : Nat) (s : State) : (reg64Set off v s).cores = s.cores := rfl
@[simp] theorem reg64Set_grooms (off v : Nat) (s : State) : (reg64Set off v s).grooms = s.grooms := rfl
@[simp] theorem reg64Set_exch (off v : Nat) (s : State) : (reg64Set off v s).exch = s.exch := rfl
@[simp] theorem reg64Set_fab (off v : Nat) (s : State) : (reg64Set off v s).fab = s.fab := rfl
@[simp] theorem reg64Set_hitch (off v : Nat) (s : State) : (reg64Set off v s).hitch = s.hitch := rfl
@[simp] theorem reg64Set_cages (off v : Nat) (s : State) : (reg64Set off v s).cages = s.cages := rfl
@[simp] theorem reg64Set_job (off v : Nat) (s : State) : (reg64Set off v s).job = s.job := rfl
@[simp] theorem reg64Set_epoch (off v : Nat) (s : State) : (reg64Set off v s).epoch = s.epoch := rfl
@[simp] theorem reg64Set_ckpt (off v : Nat) (s : State) : (reg64Set off v s).ckpt = s.ckpt := rfl
@[simp] theorem reg64Set_boot (off v : Nat) (s : State) : (reg64Set off v s).boot = s.boot := rfl
@[simp] theorem reg64Set_power (off v : Nat) (s : State) : (reg64Set off v s).power = s.power := rfl
@[simp] theorem reg64Set_log (off v : Nat) (s : State) : (reg64Set off v s).log = s.log := rfl
@[simp] theorem reg64Set_host (off v : Nat) (s : State) : (reg64Set off v s).host = s.host := rfl
@[simp] theorem reg64Set_outbox (off v : Nat) (s : State) : (reg64Set off v s).outbox = s.outbox := rfl

@[simp] theorem cfgSet_pending (off : Nat) (v : W32) (s : State) : (cfgSet off v s).pending = s.pending := rfl
@[simp] theorem cfgSet_free (off : Nat) (v : W32) (s : State) : (cfgSet off v s).free = s.free := rfl
@[simp] theorem cfgSet_hostRead (off : Nat) (v : W32) (s : State) : (cfgSet off v s).hostRead = s.hostRead := rfl
@[simp] theorem cfgSet_regs (off : Nat) (v : W32) (s : State) : (cfgSet off v s).regs = s.regs := rfl
@[simp] theorem cfgSet_regs2 (off : Nat) (v : W32) (s : State) : (cfgSet off v s).regs2 = s.regs2 := rfl
@[simp] theorem cfgSet_latches (off : Nat) (v : W32) (s : State) : (cfgSet off v s).latches = s.latches := rfl
@[simp] theorem cfgSet_mem (off : Nat) (v : W32) (s : State) : (cfgSet off v s).mem = s.mem := rfl
@[simp] theorem cfgSet_cores (off : Nat) (v : W32) (s : State) : (cfgSet off v s).cores = s.cores := rfl
@[simp] theorem cfgSet_grooms (off : Nat) (v : W32) (s : State) : (cfgSet off v s).grooms = s.grooms := rfl
@[simp] theorem cfgSet_exch (off : Nat) (v : W32) (s : State) : (cfgSet off v s).exch = s.exch := rfl
@[simp] theorem cfgSet_fab (off : Nat) (v : W32) (s : State) : (cfgSet off v s).fab = s.fab := rfl
@[simp] theorem cfgSet_hitch (off : Nat) (v : W32) (s : State) : (cfgSet off v s).hitch = s.hitch := rfl
@[simp] theorem cfgSet_cages (off : Nat) (v : W32) (s : State) : (cfgSet off v s).cages = s.cages := rfl
@[simp] theorem cfgSet_job (off : Nat) (v : W32) (s : State) : (cfgSet off v s).job = s.job := rfl
@[simp] theorem cfgSet_epoch (off : Nat) (v : W32) (s : State) : (cfgSet off v s).epoch = s.epoch := rfl
@[simp] theorem cfgSet_ckpt (off : Nat) (v : W32) (s : State) : (cfgSet off v s).ckpt = s.ckpt := rfl
@[simp] theorem cfgSet_boot (off : Nat) (v : W32) (s : State) : (cfgSet off v s).boot = s.boot := rfl
@[simp] theorem cfgSet_power (off : Nat) (v : W32) (s : State) : (cfgSet off v s).power = s.power := rfl
@[simp] theorem cfgSet_log (off : Nat) (v : W32) (s : State) : (cfgSet off v s).log = s.log := rfl
@[simp] theorem cfgSet_host (off : Nat) (v : W32) (s : State) : (cfgSet off v s).host = s.host := rfl
@[simp] theorem cfgSet_outbox (off : Nat) (v : W32) (s : State) : (cfgSet off v s).outbox = s.outbox := rfl

@[simp] theorem reg2Set_pending (off : Nat) (v : W32) (s : State) : (reg2Set off v s).pending = s.pending := rfl
@[simp] theorem reg2Set_free (off : Nat) (v : W32) (s : State) : (reg2Set off v s).free = s.free := rfl
@[simp] theorem reg2Set_hostRead (off : Nat) (v : W32) (s : State) : (reg2Set off v s).hostRead = s.hostRead := rfl
@[simp] theorem reg2Set_regs (off : Nat) (v : W32) (s : State) : (reg2Set off v s).regs = s.regs := rfl
@[simp] theorem reg2Set_cfg (off : Nat) (v : W32) (s : State) : (reg2Set off v s).cfg = s.cfg := rfl
@[simp] theorem reg2Set_latches (off : Nat) (v : W32) (s : State) : (reg2Set off v s).latches = s.latches := rfl
@[simp] theorem reg2Set_mem (off : Nat) (v : W32) (s : State) : (reg2Set off v s).mem = s.mem := rfl
@[simp] theorem reg2Set_cores (off : Nat) (v : W32) (s : State) : (reg2Set off v s).cores = s.cores := rfl
@[simp] theorem reg2Set_grooms (off : Nat) (v : W32) (s : State) : (reg2Set off v s).grooms = s.grooms := rfl
@[simp] theorem reg2Set_exch (off : Nat) (v : W32) (s : State) : (reg2Set off v s).exch = s.exch := rfl
@[simp] theorem reg2Set_fab (off : Nat) (v : W32) (s : State) : (reg2Set off v s).fab = s.fab := rfl
@[simp] theorem reg2Set_hitch (off : Nat) (v : W32) (s : State) : (reg2Set off v s).hitch = s.hitch := rfl
@[simp] theorem reg2Set_cages (off : Nat) (v : W32) (s : State) : (reg2Set off v s).cages = s.cages := rfl
@[simp] theorem reg2Set_job (off : Nat) (v : W32) (s : State) : (reg2Set off v s).job = s.job := rfl
@[simp] theorem reg2Set_epoch (off : Nat) (v : W32) (s : State) : (reg2Set off v s).epoch = s.epoch := rfl
@[simp] theorem reg2Set_ckpt (off : Nat) (v : W32) (s : State) : (reg2Set off v s).ckpt = s.ckpt := rfl
@[simp] theorem reg2Set_boot (off : Nat) (v : W32) (s : State) : (reg2Set off v s).boot = s.boot := rfl
@[simp] theorem reg2Set_power (off : Nat) (v : W32) (s : State) : (reg2Set off v s).power = s.power := rfl
@[simp] theorem reg2Set_log (off : Nat) (v : W32) (s : State) : (reg2Set off v s).log = s.log := rfl
@[simp] theorem reg2Set_host (off : Nat) (v : W32) (s : State) : (reg2Set off v s).host = s.host := rfl
@[simp] theorem reg2Set_outbox (off : Nat) (v : W32) (s : State) : (reg2Set off v s).outbox = s.outbox := rfl

@[simp] theorem rf2Set_pending (off lo w v : Nat) (s : State) : (rf2Set off lo w v s).pending = s.pending := rfl
@[simp] theorem rf2Set_free (off lo w v : Nat) (s : State) : (rf2Set off lo w v s).free = s.free := rfl
@[simp] theorem rf2Set_hostRead (off lo w v : Nat) (s : State) : (rf2Set off lo w v s).hostRead = s.hostRead := rfl
@[simp] theorem rf2Set_regs (off lo w v : Nat) (s : State) : (rf2Set off lo w v s).regs = s.regs := rfl
@[simp] theorem rf2Set_cfg (off lo w v : Nat) (s : State) : (rf2Set off lo w v s).cfg = s.cfg := rfl
@[simp] theorem rf2Set_latches (off lo w v : Nat) (s : State) : (rf2Set off lo w v s).latches = s.latches := rfl
@[simp] theorem rf2Set_mem (off lo w v : Nat) (s : State) : (rf2Set off lo w v s).mem = s.mem := rfl
@[simp] theorem rf2Set_cores (off lo w v : Nat) (s : State) : (rf2Set off lo w v s).cores = s.cores := rfl
@[simp] theorem rf2Set_grooms (off lo w v : Nat) (s : State) : (rf2Set off lo w v s).grooms = s.grooms := rfl
@[simp] theorem rf2Set_exch (off lo w v : Nat) (s : State) : (rf2Set off lo w v s).exch = s.exch := rfl
@[simp] theorem rf2Set_fab (off lo w v : Nat) (s : State) : (rf2Set off lo w v s).fab = s.fab := rfl
@[simp] theorem rf2Set_hitch (off lo w v : Nat) (s : State) : (rf2Set off lo w v s).hitch = s.hitch := rfl
@[simp] theorem rf2Set_cages (off lo w v : Nat) (s : State) : (rf2Set off lo w v s).cages = s.cages := rfl
@[simp] theorem rf2Set_job (off lo w v : Nat) (s : State) : (rf2Set off lo w v s).job = s.job := rfl
@[simp] theorem rf2Set_epoch (off lo w v : Nat) (s : State) : (rf2Set off lo w v s).epoch = s.epoch := rfl
@[simp] theorem rf2Set_ckpt (off lo w v : Nat) (s : State) : (rf2Set off lo w v s).ckpt = s.ckpt := rfl
@[simp] theorem rf2Set_boot (off lo w v : Nat) (s : State) : (rf2Set off lo w v s).boot = s.boot := rfl
@[simp] theorem rf2Set_power (off lo w v : Nat) (s : State) : (rf2Set off lo w v s).power = s.power := rfl
@[simp] theorem rf2Set_log (off lo w v : Nat) (s : State) : (rf2Set off lo w v s).log = s.log := rfl
@[simp] theorem rf2Set_host (off lo w v : Nat) (s : State) : (rf2Set off lo w v s).host = s.host := rfl
@[simp] theorem rf2Set_outbox (off lo w v : Nat) (s : State) : (rf2Set off lo w v s).outbox = s.outbox := rfl

@[simp] theorem bumpFree_pending (s : State) : (bumpFree s).pending = s.pending := rfl
@[simp] theorem bumpFree_hostRead (s : State) : (bumpFree s).hostRead = s.hostRead := rfl
@[simp] theorem bumpFree_regs (s : State) : (bumpFree s).regs = s.regs := rfl
@[simp] theorem bumpFree_regs2 (s : State) : (bumpFree s).regs2 = s.regs2 := rfl
@[simp] theorem bumpFree_cfg (s : State) : (bumpFree s).cfg = s.cfg := rfl
@[simp] theorem bumpFree_latches (s : State) : (bumpFree s).latches = s.latches := rfl
@[simp] theorem bumpFree_mem (s : State) : (bumpFree s).mem = s.mem := rfl
@[simp] theorem bumpFree_cores (s : State) : (bumpFree s).cores = s.cores := rfl
@[simp] theorem bumpFree_grooms (s : State) : (bumpFree s).grooms = s.grooms := rfl
@[simp] theorem bumpFree_exch (s : State) : (bumpFree s).exch = s.exch := rfl
@[simp] theorem bumpFree_fab (s : State) : (bumpFree s).fab = s.fab := rfl
@[simp] theorem bumpFree_hitch (s : State) : (bumpFree s).hitch = s.hitch := rfl
@[simp] theorem bumpFree_cages (s : State) : (bumpFree s).cages = s.cages := rfl
@[simp] theorem bumpFree_job (s : State) : (bumpFree s).job = s.job := rfl
@[simp] theorem bumpFree_epoch (s : State) : (bumpFree s).epoch = s.epoch := rfl
@[simp] theorem bumpFree_ckpt (s : State) : (bumpFree s).ckpt = s.ckpt := rfl
@[simp] theorem bumpFree_boot (s : State) : (bumpFree s).boot = s.boot := rfl
@[simp] theorem bumpFree_power (s : State) : (bumpFree s).power = s.power := rfl
@[simp] theorem bumpFree_log (s : State) : (bumpFree s).log = s.log := rfl
@[simp] theorem bumpFree_host (s : State) : (bumpFree s).host = s.host := rfl
@[simp] theorem bumpFree_outbox (s : State) : (bumpFree s).outbox = s.outbox := rfl

@[simp] theorem regFree_pending (off : Nat) (s : State) : (regFree off s).pending = s.pending := rfl
@[simp] theorem regFree_hostRead (off : Nat) (s : State) : (regFree off s).hostRead = s.hostRead := rfl
@[simp] theorem regFree_regs2 (off : Nat) (s : State) : (regFree off s).regs2 = s.regs2 := rfl
@[simp] theorem regFree_cfg (off : Nat) (s : State) : (regFree off s).cfg = s.cfg := rfl
@[simp] theorem regFree_latches (off : Nat) (s : State) : (regFree off s).latches = s.latches := rfl
@[simp] theorem regFree_mem (off : Nat) (s : State) : (regFree off s).mem = s.mem := rfl
@[simp] theorem regFree_cores (off : Nat) (s : State) : (regFree off s).cores = s.cores := rfl
@[simp] theorem regFree_grooms (off : Nat) (s : State) : (regFree off s).grooms = s.grooms := rfl
@[simp] theorem regFree_exch (off : Nat) (s : State) : (regFree off s).exch = s.exch := rfl
@[simp] theorem regFree_fab (off : Nat) (s : State) : (regFree off s).fab = s.fab := rfl
@[simp] theorem regFree_hitch (off : Nat) (s : State) : (regFree off s).hitch = s.hitch := rfl
@[simp] theorem regFree_cages (off : Nat) (s : State) : (regFree off s).cages = s.cages := rfl
@[simp] theorem regFree_job (off : Nat) (s : State) : (regFree off s).job = s.job := rfl
@[simp] theorem regFree_epoch (off : Nat) (s : State) : (regFree off s).epoch = s.epoch := rfl
@[simp] theorem regFree_ckpt (off : Nat) (s : State) : (regFree off s).ckpt = s.ckpt := rfl
@[simp] theorem regFree_boot (off : Nat) (s : State) : (regFree off s).boot = s.boot := rfl
@[simp] theorem regFree_power (off : Nat) (s : State) : (regFree off s).power = s.power := rfl
@[simp] theorem regFree_log (off : Nat) (s : State) : (regFree off s).log = s.log := rfl
@[simp] theorem regFree_host (off : Nat) (s : State) : (regFree off s).host = s.host := rfl
@[simp] theorem regFree_outbox (off : Nat) (s : State) : (regFree off s).outbox = s.outbox := rfl

@[simp] theorem coreSet_pending (n : Nat) (c : Core) (s : State) : (coreSet n c s).pending = s.pending := rfl
@[simp] theorem coreSet_free (n : Nat) (c : Core) (s : State) : (coreSet n c s).free = s.free := rfl
@[simp] theorem coreSet_hostRead (n : Nat) (c : Core) (s : State) : (coreSet n c s).hostRead = s.hostRead := rfl
@[simp] theorem coreSet_regs (n : Nat) (c : Core) (s : State) : (coreSet n c s).regs = s.regs := rfl
@[simp] theorem coreSet_regs2 (n : Nat) (c : Core) (s : State) : (coreSet n c s).regs2 = s.regs2 := rfl
@[simp] theorem coreSet_cfg (n : Nat) (c : Core) (s : State) : (coreSet n c s).cfg = s.cfg := rfl
@[simp] theorem coreSet_latches (n : Nat) (c : Core) (s : State) : (coreSet n c s).latches = s.latches := rfl
@[simp] theorem coreSet_mem (n : Nat) (c : Core) (s : State) : (coreSet n c s).mem = s.mem := rfl
@[simp] theorem coreSet_grooms (n : Nat) (c : Core) (s : State) : (coreSet n c s).grooms = s.grooms := rfl
@[simp] theorem coreSet_exch (n : Nat) (c : Core) (s : State) : (coreSet n c s).exch = s.exch := rfl
@[simp] theorem coreSet_fab (n : Nat) (c : Core) (s : State) : (coreSet n c s).fab = s.fab := rfl
@[simp] theorem coreSet_hitch (n : Nat) (c : Core) (s : State) : (coreSet n c s).hitch = s.hitch := rfl
@[simp] theorem coreSet_cages (n : Nat) (c : Core) (s : State) : (coreSet n c s).cages = s.cages := rfl
@[simp] theorem coreSet_job (n : Nat) (c : Core) (s : State) : (coreSet n c s).job = s.job := rfl
@[simp] theorem coreSet_epoch (n : Nat) (c : Core) (s : State) : (coreSet n c s).epoch = s.epoch := rfl
@[simp] theorem coreSet_ckpt (n : Nat) (c : Core) (s : State) : (coreSet n c s).ckpt = s.ckpt := rfl
@[simp] theorem coreSet_boot (n : Nat) (c : Core) (s : State) : (coreSet n c s).boot = s.boot := rfl
@[simp] theorem coreSet_power (n : Nat) (c : Core) (s : State) : (coreSet n c s).power = s.power := rfl
@[simp] theorem coreSet_log (n : Nat) (c : Core) (s : State) : (coreSet n c s).log = s.log := rfl
@[simp] theorem coreSet_host (n : Nat) (c : Core) (s : State) : (coreSet n c s).host = s.host := rfl
@[simp] theorem coreSet_outbox (n : Nat) (c : Core) (s : State) : (coreSet n c s).outbox = s.outbox := rfl

@[simp] theorem coreMod_pending (n : Nat) (f : Core → Core) (s : State) : (coreMod n f s).pending = s.pending := rfl
@[simp] theorem coreMod_free (n : Nat) (f : Core → Core) (s : State) : (coreMod n f s).free = s.free := rfl
@[simp] theorem coreMod_hostRead (n : Nat) (f : Core → Core) (s : State) : (coreMod n f s).hostRead = s.hostRead := rfl
@[simp] theorem coreMod_regs (n : Nat) (f : Core → Core) (s : State) : (coreMod n f s).regs = s.regs := rfl
@[simp] theorem coreMod_regs2 (n : Nat) (f : Core → Core) (s : State) : (coreMod n f s).regs2 = s.regs2 := rfl
@[simp] theorem coreMod_cfg (n : Nat) (f : Core → Core) (s : State) : (coreMod n f s).cfg = s.cfg := rfl
@[simp] theorem coreMod_latches (n : Nat) (f : Core → Core) (s : State) : (coreMod n f s).latches = s.latches := rfl
@[simp] theorem coreMod_mem (n : Nat) (f : Core → Core) (s : State) : (coreMod n f s).mem = s.mem := rfl
@[simp] theorem coreMod_grooms (n : Nat) (f : Core → Core) (s : State) : (coreMod n f s).grooms = s.grooms := rfl
@[simp] theorem coreMod_exch (n : Nat) (f : Core → Core) (s : State) : (coreMod n f s).exch = s.exch := rfl
@[simp] theorem coreMod_fab (n : Nat) (f : Core → Core) (s : State) : (coreMod n f s).fab = s.fab := rfl
@[simp] theorem coreMod_hitch (n : Nat) (f : Core → Core) (s : State) : (coreMod n f s).hitch = s.hitch := rfl
@[simp] theorem coreMod_cages (n : Nat) (f : Core → Core) (s : State) : (coreMod n f s).cages = s.cages := rfl
@[simp] theorem coreMod_job (n : Nat) (f : Core → Core) (s : State) : (coreMod n f s).job = s.job := rfl
@[simp] theorem coreMod_epoch (n : Nat) (f : Core → Core) (s : State) : (coreMod n f s).epoch = s.epoch := rfl
@[simp] theorem coreMod_ckpt (n : Nat) (f : Core → Core) (s : State) : (coreMod n f s).ckpt = s.ckpt := rfl
@[simp] theorem coreMod_boot (n : Nat) (f : Core → Core) (s : State) : (coreMod n f s).boot = s.boot := rfl
@[simp] theorem coreMod_power (n : Nat) (f : Core → Core) (s : State) : (coreMod n f s).power = s.power := rfl
@[simp] theorem coreMod_log (n : Nat) (f : Core → Core) (s : State) : (coreMod n f s).log = s.log := rfl
@[simp] theorem coreMod_host (n : Nat) (f : Core → Core) (s : State) : (coreMod n f s).host = s.host := rfl
@[simp] theorem coreMod_outbox (n : Nat) (f : Core → Core) (s : State) : (coreMod n f s).outbox = s.outbox := rfl

@[simp] theorem queueMod_pending (n : Nat) (q : Q) (f : Queue → Queue) (s : State) : (queueMod n q f s).pending = s.pending := rfl
@[simp] theorem queueMod_free (n : Nat) (q : Q) (f : Queue → Queue) (s : State) : (queueMod n q f s).free = s.free := rfl
@[simp] theorem queueMod_hostRead (n : Nat) (q : Q) (f : Queue → Queue) (s : State) : (queueMod n q f s).hostRead = s.hostRead := rfl
@[simp] theorem queueMod_regs (n : Nat) (q : Q) (f : Queue → Queue) (s : State) : (queueMod n q f s).regs = s.regs := rfl
@[simp] theorem queueMod_regs2 (n : Nat) (q : Q) (f : Queue → Queue) (s : State) : (queueMod n q f s).regs2 = s.regs2 := rfl
@[simp] theorem queueMod_cfg (n : Nat) (q : Q) (f : Queue → Queue) (s : State) : (queueMod n q f s).cfg = s.cfg := rfl
@[simp] theorem queueMod_latches (n : Nat) (q : Q) (f : Queue → Queue) (s : State) : (queueMod n q f s).latches = s.latches := rfl
@[simp] theorem queueMod_mem (n : Nat) (q : Q) (f : Queue → Queue) (s : State) : (queueMod n q f s).mem = s.mem := rfl
@[simp] theorem queueMod_grooms (n : Nat) (q : Q) (f : Queue → Queue) (s : State) : (queueMod n q f s).grooms = s.grooms := rfl
@[simp] theorem queueMod_exch (n : Nat) (q : Q) (f : Queue → Queue) (s : State) : (queueMod n q f s).exch = s.exch := rfl
@[simp] theorem queueMod_fab (n : Nat) (q : Q) (f : Queue → Queue) (s : State) : (queueMod n q f s).fab = s.fab := rfl
@[simp] theorem queueMod_hitch (n : Nat) (q : Q) (f : Queue → Queue) (s : State) : (queueMod n q f s).hitch = s.hitch := rfl
@[simp] theorem queueMod_cages (n : Nat) (q : Q) (f : Queue → Queue) (s : State) : (queueMod n q f s).cages = s.cages := rfl
@[simp] theorem queueMod_job (n : Nat) (q : Q) (f : Queue → Queue) (s : State) : (queueMod n q f s).job = s.job := rfl
@[simp] theorem queueMod_epoch (n : Nat) (q : Q) (f : Queue → Queue) (s : State) : (queueMod n q f s).epoch = s.epoch := rfl
@[simp] theorem queueMod_ckpt (n : Nat) (q : Q) (f : Queue → Queue) (s : State) : (queueMod n q f s).ckpt = s.ckpt := rfl
@[simp] theorem queueMod_boot (n : Nat) (q : Q) (f : Queue → Queue) (s : State) : (queueMod n q f s).boot = s.boot := rfl
@[simp] theorem queueMod_power (n : Nat) (q : Q) (f : Queue → Queue) (s : State) : (queueMod n q f s).power = s.power := rfl
@[simp] theorem queueMod_log (n : Nat) (q : Q) (f : Queue → Queue) (s : State) : (queueMod n q f s).log = s.log := rfl
@[simp] theorem queueMod_host (n : Nat) (q : Q) (f : Queue → Queue) (s : State) : (queueMod n q f s).host = s.host := rfl
@[simp] theorem queueMod_outbox (n : Nat) (q : Q) (f : Queue → Queue) (s : State) : (queueMod n q f s).outbox = s.outbox := rfl

@[simp] theorem ctxMod_pending (n : Nat) (x : Ctx) (f : CtxSt → CtxSt) (s : State) : (ctxMod n x f s).pending = s.pending := rfl
@[simp] theorem ctxMod_free (n : Nat) (x : Ctx) (f : CtxSt → CtxSt) (s : State) : (ctxMod n x f s).free = s.free := rfl
@[simp] theorem ctxMod_hostRead (n : Nat) (x : Ctx) (f : CtxSt → CtxSt) (s : State) : (ctxMod n x f s).hostRead = s.hostRead := rfl
@[simp] theorem ctxMod_regs (n : Nat) (x : Ctx) (f : CtxSt → CtxSt) (s : State) : (ctxMod n x f s).regs = s.regs := rfl
@[simp] theorem ctxMod_regs2 (n : Nat) (x : Ctx) (f : CtxSt → CtxSt) (s : State) : (ctxMod n x f s).regs2 = s.regs2 := rfl
@[simp] theorem ctxMod_cfg (n : Nat) (x : Ctx) (f : CtxSt → CtxSt) (s : State) : (ctxMod n x f s).cfg = s.cfg := rfl
@[simp] theorem ctxMod_latches (n : Nat) (x : Ctx) (f : CtxSt → CtxSt) (s : State) : (ctxMod n x f s).latches = s.latches := rfl
@[simp] theorem ctxMod_mem (n : Nat) (x : Ctx) (f : CtxSt → CtxSt) (s : State) : (ctxMod n x f s).mem = s.mem := rfl
@[simp] theorem ctxMod_grooms (n : Nat) (x : Ctx) (f : CtxSt → CtxSt) (s : State) : (ctxMod n x f s).grooms = s.grooms := rfl
@[simp] theorem ctxMod_exch (n : Nat) (x : Ctx) (f : CtxSt → CtxSt) (s : State) : (ctxMod n x f s).exch = s.exch := rfl
@[simp] theorem ctxMod_fab (n : Nat) (x : Ctx) (f : CtxSt → CtxSt) (s : State) : (ctxMod n x f s).fab = s.fab := rfl
@[simp] theorem ctxMod_hitch (n : Nat) (x : Ctx) (f : CtxSt → CtxSt) (s : State) : (ctxMod n x f s).hitch = s.hitch := rfl
@[simp] theorem ctxMod_cages (n : Nat) (x : Ctx) (f : CtxSt → CtxSt) (s : State) : (ctxMod n x f s).cages = s.cages := rfl
@[simp] theorem ctxMod_job (n : Nat) (x : Ctx) (f : CtxSt → CtxSt) (s : State) : (ctxMod n x f s).job = s.job := rfl
@[simp] theorem ctxMod_epoch (n : Nat) (x : Ctx) (f : CtxSt → CtxSt) (s : State) : (ctxMod n x f s).epoch = s.epoch := rfl
@[simp] theorem ctxMod_ckpt (n : Nat) (x : Ctx) (f : CtxSt → CtxSt) (s : State) : (ctxMod n x f s).ckpt = s.ckpt := rfl
@[simp] theorem ctxMod_boot (n : Nat) (x : Ctx) (f : CtxSt → CtxSt) (s : State) : (ctxMod n x f s).boot = s.boot := rfl
@[simp] theorem ctxMod_power (n : Nat) (x : Ctx) (f : CtxSt → CtxSt) (s : State) : (ctxMod n x f s).power = s.power := rfl
@[simp] theorem ctxMod_log (n : Nat) (x : Ctx) (f : CtxSt → CtxSt) (s : State) : (ctxMod n x f s).log = s.log := rfl
@[simp] theorem ctxMod_host (n : Nat) (x : Ctx) (f : CtxSt → CtxSt) (s : State) : (ctxMod n x f s).host = s.host := rfl
@[simp] theorem ctxMod_outbox (n : Nat) (x : Ctx) (f : CtxSt → CtxSt) (s : State) : (ctxMod n x f s).outbox = s.outbox := rfl

@[simp] theorem stallMod_pending (n i : Nat) (f : Stall → Stall) (s : State) : (stallMod n i f s).pending = s.pending := rfl
@[simp] theorem stallMod_free (n i : Nat) (f : Stall → Stall) (s : State) : (stallMod n i f s).free = s.free := rfl
@[simp] theorem stallMod_hostRead (n i : Nat) (f : Stall → Stall) (s : State) : (stallMod n i f s).hostRead = s.hostRead := rfl
@[simp] theorem stallMod_regs (n i : Nat) (f : Stall → Stall) (s : State) : (stallMod n i f s).regs = s.regs := rfl
@[simp] theorem stallMod_regs2 (n i : Nat) (f : Stall → Stall) (s : State) : (stallMod n i f s).regs2 = s.regs2 := rfl
@[simp] theorem stallMod_cfg (n i : Nat) (f : Stall → Stall) (s : State) : (stallMod n i f s).cfg = s.cfg := rfl
@[simp] theorem stallMod_latches (n i : Nat) (f : Stall → Stall) (s : State) : (stallMod n i f s).latches = s.latches := rfl
@[simp] theorem stallMod_mem (n i : Nat) (f : Stall → Stall) (s : State) : (stallMod n i f s).mem = s.mem := rfl
@[simp] theorem stallMod_grooms (n i : Nat) (f : Stall → Stall) (s : State) : (stallMod n i f s).grooms = s.grooms := rfl
@[simp] theorem stallMod_exch (n i : Nat) (f : Stall → Stall) (s : State) : (stallMod n i f s).exch = s.exch := rfl
@[simp] theorem stallMod_fab (n i : Nat) (f : Stall → Stall) (s : State) : (stallMod n i f s).fab = s.fab := rfl
@[simp] theorem stallMod_hitch (n i : Nat) (f : Stall → Stall) (s : State) : (stallMod n i f s).hitch = s.hitch := rfl
@[simp] theorem stallMod_cages (n i : Nat) (f : Stall → Stall) (s : State) : (stallMod n i f s).cages = s.cages := rfl
@[simp] theorem stallMod_job (n i : Nat) (f : Stall → Stall) (s : State) : (stallMod n i f s).job = s.job := rfl
@[simp] theorem stallMod_epoch (n i : Nat) (f : Stall → Stall) (s : State) : (stallMod n i f s).epoch = s.epoch := rfl
@[simp] theorem stallMod_ckpt (n i : Nat) (f : Stall → Stall) (s : State) : (stallMod n i f s).ckpt = s.ckpt := rfl
@[simp] theorem stallMod_boot (n i : Nat) (f : Stall → Stall) (s : State) : (stallMod n i f s).boot = s.boot := rfl
@[simp] theorem stallMod_power (n i : Nat) (f : Stall → Stall) (s : State) : (stallMod n i f s).power = s.power := rfl
@[simp] theorem stallMod_log (n i : Nat) (f : Stall → Stall) (s : State) : (stallMod n i f s).log = s.log := rfl
@[simp] theorem stallMod_host (n i : Nat) (f : Stall → Stall) (s : State) : (stallMod n i f s).host = s.host := rfl
@[simp] theorem stallMod_outbox (n i : Nat) (f : Stall → Stall) (s : State) : (stallMod n i f s).outbox = s.outbox := rfl

@[simp] theorem groomSet_pending (k : Nat) (g : Groom) (s : State) : (groomSet k g s).pending = s.pending := rfl
@[simp] theorem groomSet_free (k : Nat) (g : Groom) (s : State) : (groomSet k g s).free = s.free := rfl
@[simp] theorem groomSet_hostRead (k : Nat) (g : Groom) (s : State) : (groomSet k g s).hostRead = s.hostRead := rfl
@[simp] theorem groomSet_regs (k : Nat) (g : Groom) (s : State) : (groomSet k g s).regs = s.regs := rfl
@[simp] theorem groomSet_regs2 (k : Nat) (g : Groom) (s : State) : (groomSet k g s).regs2 = s.regs2 := rfl
@[simp] theorem groomSet_cfg (k : Nat) (g : Groom) (s : State) : (groomSet k g s).cfg = s.cfg := rfl
@[simp] theorem groomSet_latches (k : Nat) (g : Groom) (s : State) : (groomSet k g s).latches = s.latches := rfl
@[simp] theorem groomSet_mem (k : Nat) (g : Groom) (s : State) : (groomSet k g s).mem = s.mem := rfl
@[simp] theorem groomSet_cores (k : Nat) (g : Groom) (s : State) : (groomSet k g s).cores = s.cores := rfl
@[simp] theorem groomSet_exch (k : Nat) (g : Groom) (s : State) : (groomSet k g s).exch = s.exch := rfl
@[simp] theorem groomSet_fab (k : Nat) (g : Groom) (s : State) : (groomSet k g s).fab = s.fab := rfl
@[simp] theorem groomSet_hitch (k : Nat) (g : Groom) (s : State) : (groomSet k g s).hitch = s.hitch := rfl
@[simp] theorem groomSet_cages (k : Nat) (g : Groom) (s : State) : (groomSet k g s).cages = s.cages := rfl
@[simp] theorem groomSet_job (k : Nat) (g : Groom) (s : State) : (groomSet k g s).job = s.job := rfl
@[simp] theorem groomSet_epoch (k : Nat) (g : Groom) (s : State) : (groomSet k g s).epoch = s.epoch := rfl
@[simp] theorem groomSet_ckpt (k : Nat) (g : Groom) (s : State) : (groomSet k g s).ckpt = s.ckpt := rfl
@[simp] theorem groomSet_boot (k : Nat) (g : Groom) (s : State) : (groomSet k g s).boot = s.boot := rfl
@[simp] theorem groomSet_power (k : Nat) (g : Groom) (s : State) : (groomSet k g s).power = s.power := rfl
@[simp] theorem groomSet_log (k : Nat) (g : Groom) (s : State) : (groomSet k g s).log = s.log := rfl
@[simp] theorem groomSet_host (k : Nat) (g : Groom) (s : State) : (groomSet k g s).host = s.host := rfl
@[simp] theorem groomSet_outbox (k : Nat) (g : Groom) (s : State) : (groomSet k g s).outbox = s.outbox := rfl

@[simp] theorem groomMod_pending (k : Nat) (f : Groom → Groom) (s : State) : (groomMod k f s).pending = s.pending := rfl
@[simp] theorem groomMod_free (k : Nat) (f : Groom → Groom) (s : State) : (groomMod k f s).free = s.free := rfl
@[simp] theorem groomMod_hostRead (k : Nat) (f : Groom → Groom) (s : State) : (groomMod k f s).hostRead = s.hostRead := rfl
@[simp] theorem groomMod_regs (k : Nat) (f : Groom → Groom) (s : State) : (groomMod k f s).regs = s.regs := rfl
@[simp] theorem groomMod_regs2 (k : Nat) (f : Groom → Groom) (s : State) : (groomMod k f s).regs2 = s.regs2 := rfl
@[simp] theorem groomMod_cfg (k : Nat) (f : Groom → Groom) (s : State) : (groomMod k f s).cfg = s.cfg := rfl
@[simp] theorem groomMod_latches (k : Nat) (f : Groom → Groom) (s : State) : (groomMod k f s).latches = s.latches := rfl
@[simp] theorem groomMod_mem (k : Nat) (f : Groom → Groom) (s : State) : (groomMod k f s).mem = s.mem := rfl
@[simp] theorem groomMod_cores (k : Nat) (f : Groom → Groom) (s : State) : (groomMod k f s).cores = s.cores := rfl
@[simp] theorem groomMod_exch (k : Nat) (f : Groom → Groom) (s : State) : (groomMod k f s).exch = s.exch := rfl
@[simp] theorem groomMod_fab (k : Nat) (f : Groom → Groom) (s : State) : (groomMod k f s).fab = s.fab := rfl
@[simp] theorem groomMod_hitch (k : Nat) (f : Groom → Groom) (s : State) : (groomMod k f s).hitch = s.hitch := rfl
@[simp] theorem groomMod_cages (k : Nat) (f : Groom → Groom) (s : State) : (groomMod k f s).cages = s.cages := rfl
@[simp] theorem groomMod_job (k : Nat) (f : Groom → Groom) (s : State) : (groomMod k f s).job = s.job := rfl
@[simp] theorem groomMod_epoch (k : Nat) (f : Groom → Groom) (s : State) : (groomMod k f s).epoch = s.epoch := rfl
@[simp] theorem groomMod_ckpt (k : Nat) (f : Groom → Groom) (s : State) : (groomMod k f s).ckpt = s.ckpt := rfl
@[simp] theorem groomMod_boot (k : Nat) (f : Groom → Groom) (s : State) : (groomMod k f s).boot = s.boot := rfl
@[simp] theorem groomMod_power (k : Nat) (f : Groom → Groom) (s : State) : (groomMod k f s).power = s.power := rfl
@[simp] theorem groomMod_log (k : Nat) (f : Groom → Groom) (s : State) : (groomMod k f s).log = s.log := rfl
@[simp] theorem groomMod_host (k : Nat) (f : Groom → Groom) (s : State) : (groomMod k f s).host = s.host := rfl
@[simp] theorem groomMod_outbox (k : Nat) (f : Groom → Groom) (s : State) : (groomMod k f s).outbox = s.outbox := rfl

@[simp] theorem emit_pending (o : Out) (s : State) : (emit o s).pending = s.pending := rfl
@[simp] theorem emit_free (o : Out) (s : State) : (emit o s).free = s.free := rfl
@[simp] theorem emit_hostRead (o : Out) (s : State) : (emit o s).hostRead = s.hostRead := rfl
@[simp] theorem emit_regs (o : Out) (s : State) : (emit o s).regs = s.regs := rfl
@[simp] theorem emit_regs2 (o : Out) (s : State) : (emit o s).regs2 = s.regs2 := rfl
@[simp] theorem emit_cfg (o : Out) (s : State) : (emit o s).cfg = s.cfg := rfl
@[simp] theorem emit_latches (o : Out) (s : State) : (emit o s).latches = s.latches := rfl
@[simp] theorem emit_mem (o : Out) (s : State) : (emit o s).mem = s.mem := rfl
@[simp] theorem emit_cores (o : Out) (s : State) : (emit o s).cores = s.cores := rfl
@[simp] theorem emit_grooms (o : Out) (s : State) : (emit o s).grooms = s.grooms := rfl
@[simp] theorem emit_exch (o : Out) (s : State) : (emit o s).exch = s.exch := rfl
@[simp] theorem emit_fab (o : Out) (s : State) : (emit o s).fab = s.fab := rfl
@[simp] theorem emit_hitch (o : Out) (s : State) : (emit o s).hitch = s.hitch := rfl
@[simp] theorem emit_cages (o : Out) (s : State) : (emit o s).cages = s.cages := rfl
@[simp] theorem emit_job (o : Out) (s : State) : (emit o s).job = s.job := rfl
@[simp] theorem emit_epoch (o : Out) (s : State) : (emit o s).epoch = s.epoch := rfl
@[simp] theorem emit_ckpt (o : Out) (s : State) : (emit o s).ckpt = s.ckpt := rfl
@[simp] theorem emit_boot (o : Out) (s : State) : (emit o s).boot = s.boot := rfl
@[simp] theorem emit_power (o : Out) (s : State) : (emit o s).power = s.power := rfl
@[simp] theorem emit_log (o : Out) (s : State) : (emit o s).log = s.log := rfl
@[simp] theorem emit_host (o : Out) (s : State) : (emit o s).host = s.host := rfl

@[simp] theorem evAdvance_pending (s : State) : (evAdvance s).pending = s.pending := rfl
@[simp] theorem evAdvance_free (s : State) : (evAdvance s).free = s.free := rfl
@[simp] theorem evAdvance_hostRead (s : State) : (evAdvance s).hostRead = s.hostRead := rfl
@[simp] theorem evAdvance_regs (s : State) : (evAdvance s).regs = s.regs := rfl
@[simp] theorem evAdvance_regs2 (s : State) : (evAdvance s).regs2 = s.regs2 := rfl
@[simp] theorem evAdvance_cfg (s : State) : (evAdvance s).cfg = s.cfg := rfl
@[simp] theorem evAdvance_latches (s : State) : (evAdvance s).latches = s.latches := rfl
@[simp] theorem evAdvance_mem (s : State) : (evAdvance s).mem = s.mem := rfl
@[simp] theorem evAdvance_cores (s : State) : (evAdvance s).cores = s.cores := rfl
@[simp] theorem evAdvance_grooms (s : State) : (evAdvance s).grooms = s.grooms := rfl
@[simp] theorem evAdvance_exch (s : State) : (evAdvance s).exch = s.exch := rfl
@[simp] theorem evAdvance_fab (s : State) : (evAdvance s).fab = s.fab := rfl
@[simp] theorem evAdvance_hitch (s : State) : (evAdvance s).hitch = s.hitch := rfl
@[simp] theorem evAdvance_cages (s : State) : (evAdvance s).cages = s.cages := rfl
@[simp] theorem evAdvance_job (s : State) : (evAdvance s).job = s.job := rfl
@[simp] theorem evAdvance_epoch (s : State) : (evAdvance s).epoch = s.epoch := rfl
@[simp] theorem evAdvance_ckpt (s : State) : (evAdvance s).ckpt = s.ckpt := rfl
@[simp] theorem evAdvance_boot (s : State) : (evAdvance s).boot = s.boot := rfl
@[simp] theorem evAdvance_power (s : State) : (evAdvance s).power = s.power := rfl
@[simp] theorem evAdvance_host (s : State) : (evAdvance s).host = s.host := rfl
@[simp] theorem evAdvance_outbox (s : State) : (evAdvance s).outbox = s.outbox := rfl

@[simp] theorem hear_pending (key : Nat) (s : State) : (hear key s).pending = s.pending := rfl
@[simp] theorem hear_free (key : Nat) (s : State) : (hear key s).free = s.free := rfl
@[simp] theorem hear_hostRead (key : Nat) (s : State) : (hear key s).hostRead = s.hostRead := rfl
@[simp] theorem hear_regs (key : Nat) (s : State) : (hear key s).regs = s.regs := rfl
@[simp] theorem hear_regs2 (key : Nat) (s : State) : (hear key s).regs2 = s.regs2 := rfl
@[simp] theorem hear_cfg (key : Nat) (s : State) : (hear key s).cfg = s.cfg := rfl
@[simp] theorem hear_latches (key : Nat) (s : State) : (hear key s).latches = s.latches := rfl
@[simp] theorem hear_mem (key : Nat) (s : State) : (hear key s).mem = s.mem := rfl
@[simp] theorem hear_cores (key : Nat) (s : State) : (hear key s).cores = s.cores := rfl
@[simp] theorem hear_grooms (key : Nat) (s : State) : (hear key s).grooms = s.grooms := rfl
@[simp] theorem hear_exch (key : Nat) (s : State) : (hear key s).exch = s.exch := rfl
@[simp] theorem hear_fab (key : Nat) (s : State) : (hear key s).fab = s.fab := rfl
@[simp] theorem hear_hitch (key : Nat) (s : State) : (hear key s).hitch = s.hitch := rfl
@[simp] theorem hear_cages (key : Nat) (s : State) : (hear key s).cages = s.cages := rfl
@[simp] theorem hear_job (key : Nat) (s : State) : (hear key s).job = s.job := rfl
@[simp] theorem hear_epoch (key : Nat) (s : State) : (hear key s).epoch = s.epoch := rfl
@[simp] theorem hear_ckpt (key : Nat) (s : State) : (hear key s).ckpt = s.ckpt := rfl
@[simp] theorem hear_boot (key : Nat) (s : State) : (hear key s).boot = s.boot := rfl
@[simp] theorem hear_power (key : Nat) (s : State) : (hear key s).power = s.power := rfl
@[simp] theorem hear_host (key : Nat) (s : State) : (hear key s).host = s.host := rfl
@[simp] theorem hear_outbox (key : Nat) (s : State) : (hear key s).outbox = s.outbox := rfl

@[simp] theorem sideSet_pending (n m : Nat) (v : Side) (s : State) : (sideSet n m v s).pending = s.pending := rfl
@[simp] theorem sideSet_free (n m : Nat) (v : Side) (s : State) : (sideSet n m v s).free = s.free := rfl
@[simp] theorem sideSet_hostRead (n m : Nat) (v : Side) (s : State) : (sideSet n m v s).hostRead = s.hostRead := rfl
@[simp] theorem sideSet_regs (n m : Nat) (v : Side) (s : State) : (sideSet n m v s).regs = s.regs := rfl
@[simp] theorem sideSet_regs2 (n m : Nat) (v : Side) (s : State) : (sideSet n m v s).regs2 = s.regs2 := rfl
@[simp] theorem sideSet_cfg (n m : Nat) (v : Side) (s : State) : (sideSet n m v s).cfg = s.cfg := rfl
@[simp] theorem sideSet_latches (n m : Nat) (v : Side) (s : State) : (sideSet n m v s).latches = s.latches := rfl
@[simp] theorem sideSet_cores (n m : Nat) (v : Side) (s : State) : (sideSet n m v s).cores = s.cores := rfl
@[simp] theorem sideSet_grooms (n m : Nat) (v : Side) (s : State) : (sideSet n m v s).grooms = s.grooms := rfl
@[simp] theorem sideSet_exch (n m : Nat) (v : Side) (s : State) : (sideSet n m v s).exch = s.exch := rfl
@[simp] theorem sideSet_fab (n m : Nat) (v : Side) (s : State) : (sideSet n m v s).fab = s.fab := rfl
@[simp] theorem sideSet_hitch (n m : Nat) (v : Side) (s : State) : (sideSet n m v s).hitch = s.hitch := rfl
@[simp] theorem sideSet_cages (n m : Nat) (v : Side) (s : State) : (sideSet n m v s).cages = s.cages := rfl
@[simp] theorem sideSet_job (n m : Nat) (v : Side) (s : State) : (sideSet n m v s).job = s.job := rfl
@[simp] theorem sideSet_epoch (n m : Nat) (v : Side) (s : State) : (sideSet n m v s).epoch = s.epoch := rfl
@[simp] theorem sideSet_ckpt (n m : Nat) (v : Side) (s : State) : (sideSet n m v s).ckpt = s.ckpt := rfl
@[simp] theorem sideSet_boot (n m : Nat) (v : Side) (s : State) : (sideSet n m v s).boot = s.boot := rfl
@[simp] theorem sideSet_power (n m : Nat) (v : Side) (s : State) : (sideSet n m v s).power = s.power := rfl
@[simp] theorem sideSet_log (n m : Nat) (v : Side) (s : State) : (sideSet n m v s).log = s.log := rfl
@[simp] theorem sideSet_host (n m : Nat) (v : Side) (s : State) : (sideSet n m v s).host = s.host := rfl
@[simp] theorem sideSet_outbox (n m : Nat) (v : Side) (s : State) : (sideSet n m v s).outbox = s.outbox := rfl

@[simp] theorem memZero_pending (a n : Nat) (s : State) : (memZero a n s).pending = s.pending := rfl
@[simp] theorem memZero_free (a n : Nat) (s : State) : (memZero a n s).free = s.free := rfl
@[simp] theorem memZero_hostRead (a n : Nat) (s : State) : (memZero a n s).hostRead = s.hostRead := rfl
@[simp] theorem memZero_regs (a n : Nat) (s : State) : (memZero a n s).regs = s.regs := rfl
@[simp] theorem memZero_regs2 (a n : Nat) (s : State) : (memZero a n s).regs2 = s.regs2 := rfl
@[simp] theorem memZero_cfg (a n : Nat) (s : State) : (memZero a n s).cfg = s.cfg := rfl
@[simp] theorem memZero_latches (a n : Nat) (s : State) : (memZero a n s).latches = s.latches := rfl
@[simp] theorem memZero_cores (a n : Nat) (s : State) : (memZero a n s).cores = s.cores := rfl
@[simp] theorem memZero_grooms (a n : Nat) (s : State) : (memZero a n s).grooms = s.grooms := rfl
@[simp] theorem memZero_exch (a n : Nat) (s : State) : (memZero a n s).exch = s.exch := rfl
@[simp] theorem memZero_fab (a n : Nat) (s : State) : (memZero a n s).fab = s.fab := rfl
@[simp] theorem memZero_hitch (a n : Nat) (s : State) : (memZero a n s).hitch = s.hitch := rfl
@[simp] theorem memZero_cages (a n : Nat) (s : State) : (memZero a n s).cages = s.cages := rfl
@[simp] theorem memZero_job (a n : Nat) (s : State) : (memZero a n s).job = s.job := rfl
@[simp] theorem memZero_epoch (a n : Nat) (s : State) : (memZero a n s).epoch = s.epoch := rfl
@[simp] theorem memZero_ckpt (a n : Nat) (s : State) : (memZero a n s).ckpt = s.ckpt := rfl
@[simp] theorem memZero_boot (a n : Nat) (s : State) : (memZero a n s).boot = s.boot := rfl
@[simp] theorem memZero_power (a n : Nat) (s : State) : (memZero a n s).power = s.power := rfl
@[simp] theorem memZero_log (a n : Nat) (s : State) : (memZero a n s).log = s.log := rfl
@[simp] theorem memZero_host (a n : Nat) (s : State) : (memZero a n s).host = s.host := rfl
@[simp] theorem memZero_outbox (a n : Nat) (s : State) : (memZero a n s).outbox = s.outbox := rfl

@[simp] theorem logAppend_pending (code : W16) (b : Blk) (i : Nat) (k : Class) (d : Detail) (s : State) : (logAppend code b i k d s).pending = s.pending := rfl
@[simp] theorem logAppend_free (code : W16) (b : Blk) (i : Nat) (k : Class) (d : Detail) (s : State) : (logAppend code b i k d s).free = s.free := rfl
@[simp] theorem logAppend_hostRead (code : W16) (b : Blk) (i : Nat) (k : Class) (d : Detail) (s : State) : (logAppend code b i k d s).hostRead = s.hostRead := rfl
@[simp] theorem logAppend_regs (code : W16) (b : Blk) (i : Nat) (k : Class) (d : Detail) (s : State) : (logAppend code b i k d s).regs = s.regs := rfl
@[simp] theorem logAppend_regs2 (code : W16) (b : Blk) (i : Nat) (k : Class) (d : Detail) (s : State) : (logAppend code b i k d s).regs2 = s.regs2 := rfl
@[simp] theorem logAppend_cfg (code : W16) (b : Blk) (i : Nat) (k : Class) (d : Detail) (s : State) : (logAppend code b i k d s).cfg = s.cfg := rfl
@[simp] theorem logAppend_latches (code : W16) (b : Blk) (i : Nat) (k : Class) (d : Detail) (s : State) : (logAppend code b i k d s).latches = s.latches := rfl
@[simp] theorem logAppend_mem (code : W16) (b : Blk) (i : Nat) (k : Class) (d : Detail) (s : State) : (logAppend code b i k d s).mem = s.mem := rfl
@[simp] theorem logAppend_cores (code : W16) (b : Blk) (i : Nat) (k : Class) (d : Detail) (s : State) : (logAppend code b i k d s).cores = s.cores := rfl
@[simp] theorem logAppend_grooms (code : W16) (b : Blk) (i : Nat) (k : Class) (d : Detail) (s : State) : (logAppend code b i k d s).grooms = s.grooms := rfl
@[simp] theorem logAppend_exch (code : W16) (b : Blk) (i : Nat) (k : Class) (d : Detail) (s : State) : (logAppend code b i k d s).exch = s.exch := rfl
@[simp] theorem logAppend_fab (code : W16) (b : Blk) (i : Nat) (k : Class) (d : Detail) (s : State) : (logAppend code b i k d s).fab = s.fab := rfl
@[simp] theorem logAppend_hitch (code : W16) (b : Blk) (i : Nat) (k : Class) (d : Detail) (s : State) : (logAppend code b i k d s).hitch = s.hitch := rfl
@[simp] theorem logAppend_cages (code : W16) (b : Blk) (i : Nat) (k : Class) (d : Detail) (s : State) : (logAppend code b i k d s).cages = s.cages := rfl
@[simp] theorem logAppend_job (code : W16) (b : Blk) (i : Nat) (k : Class) (d : Detail) (s : State) : (logAppend code b i k d s).job = s.job := rfl
@[simp] theorem logAppend_epoch (code : W16) (b : Blk) (i : Nat) (k : Class) (d : Detail) (s : State) : (logAppend code b i k d s).epoch = s.epoch := rfl
@[simp] theorem logAppend_ckpt (code : W16) (b : Blk) (i : Nat) (k : Class) (d : Detail) (s : State) : (logAppend code b i k d s).ckpt = s.ckpt := rfl
@[simp] theorem logAppend_boot (code : W16) (b : Blk) (i : Nat) (k : Class) (d : Detail) (s : State) : (logAppend code b i k d s).boot = s.boot := rfl
@[simp] theorem logAppend_power (code : W16) (b : Blk) (i : Nat) (k : Class) (d : Detail) (s : State) : (logAppend code b i k d s).power = s.power := rfl
@[simp] theorem logAppend_host (code : W16) (b : Blk) (i : Nat) (k : Class) (d : Detail) (s : State) : (logAppend code b i k d s).host = s.host := rfl
@[simp] theorem logAppend_outbox (code : W16) (b : Blk) (i : Nat) (k : Class) (d : Detail) (s : State) : (logAppend code b i k d s).outbox = s.outbox := rfl

@[simp] theorem memWrite_pending (a : Nat) (l : List Byte) (s : State) : (memWrite a l s).pending = s.pending := by unfold memWrite; split <;> rfl
@[simp] theorem memWrite_free (a : Nat) (l : List Byte) (s : State) : (memWrite a l s).free = s.free := by unfold memWrite; split <;> rfl
@[simp] theorem memWrite_hostRead (a : Nat) (l : List Byte) (s : State) : (memWrite a l s).hostRead = s.hostRead := by unfold memWrite; split <;> rfl
@[simp] theorem memWrite_regs (a : Nat) (l : List Byte) (s : State) : (memWrite a l s).regs = s.regs := by unfold memWrite; split <;> rfl
@[simp] theorem memWrite_regs2 (a : Nat) (l : List Byte) (s : State) : (memWrite a l s).regs2 = s.regs2 := by unfold memWrite; split <;> rfl
@[simp] theorem memWrite_cfg (a : Nat) (l : List Byte) (s : State) : (memWrite a l s).cfg = s.cfg := by unfold memWrite; split <;> rfl
@[simp] theorem memWrite_latches (a : Nat) (l : List Byte) (s : State) : (memWrite a l s).latches = s.latches := by unfold memWrite; split <;> rfl
@[simp] theorem memWrite_cores (a : Nat) (l : List Byte) (s : State) : (memWrite a l s).cores = s.cores := by unfold memWrite; split <;> rfl
@[simp] theorem memWrite_grooms (a : Nat) (l : List Byte) (s : State) : (memWrite a l s).grooms = s.grooms := by unfold memWrite; split <;> rfl
@[simp] theorem memWrite_exch (a : Nat) (l : List Byte) (s : State) : (memWrite a l s).exch = s.exch := by unfold memWrite; split <;> rfl
@[simp] theorem memWrite_fab (a : Nat) (l : List Byte) (s : State) : (memWrite a l s).fab = s.fab := by unfold memWrite; split <;> rfl
@[simp] theorem memWrite_hitch (a : Nat) (l : List Byte) (s : State) : (memWrite a l s).hitch = s.hitch := by unfold memWrite; split <;> rfl
@[simp] theorem memWrite_cages (a : Nat) (l : List Byte) (s : State) : (memWrite a l s).cages = s.cages := by unfold memWrite; split <;> rfl
@[simp] theorem memWrite_job (a : Nat) (l : List Byte) (s : State) : (memWrite a l s).job = s.job := by unfold memWrite; split <;> rfl
@[simp] theorem memWrite_epoch (a : Nat) (l : List Byte) (s : State) : (memWrite a l s).epoch = s.epoch := by unfold memWrite; split <;> rfl
@[simp] theorem memWrite_ckpt (a : Nat) (l : List Byte) (s : State) : (memWrite a l s).ckpt = s.ckpt := by unfold memWrite; split <;> rfl
@[simp] theorem memWrite_boot (a : Nat) (l : List Byte) (s : State) : (memWrite a l s).boot = s.boot := by unfold memWrite; split <;> rfl
@[simp] theorem memWrite_power (a : Nat) (l : List Byte) (s : State) : (memWrite a l s).power = s.power := by unfold memWrite; split <;> rfl
@[simp] theorem memWrite_log (a : Nat) (l : List Byte) (s : State) : (memWrite a l s).log = s.log := by unfold memWrite; split <;> rfl
@[simp] theorem memWrite_host (a : Nat) (l : List Byte) (s : State) : (memWrite a l s).host = s.host := by unfold memWrite; split <;> rfl
@[simp] theorem memWrite_outbox (a : Nat) (l : List Byte) (s : State) : (memWrite a l s).outbox = s.outbox := by unfold memWrite; split <;> rfl

@[simp] theorem ringWrote_pending (r : Nat) (s : State) : (ringWrote r s).pending = s.pending := by unfold ringWrote; dsimp only; split <;> (try split) <;> rfl
@[simp] theorem ringWrote_free (r : Nat) (s : State) : (ringWrote r s).free = s.free := by unfold ringWrote; dsimp only; split <;> (try split) <;> rfl
@[simp] theorem ringWrote_hostRead (r : Nat) (s : State) : (ringWrote r s).hostRead = s.hostRead := by unfold ringWrote; dsimp only; split <;> (try split) <;> rfl
@[simp] theorem ringWrote_regs (r : Nat) (s : State) : (ringWrote r s).regs = s.regs := by unfold ringWrote; dsimp only; split <;> (try split) <;> rfl
@[simp] theorem ringWrote_cfg (r : Nat) (s : State) : (ringWrote r s).cfg = s.cfg := by unfold ringWrote; dsimp only; split <;> (try split) <;> rfl
@[simp] theorem ringWrote_latches (r : Nat) (s : State) : (ringWrote r s).latches = s.latches := by unfold ringWrote; dsimp only; split <;> (try split) <;> rfl
@[simp] theorem ringWrote_mem (r : Nat) (s : State) : (ringWrote r s).mem = s.mem := by unfold ringWrote; dsimp only; split <;> (try split) <;> rfl
@[simp] theorem ringWrote_cores (r : Nat) (s : State) : (ringWrote r s).cores = s.cores := by unfold ringWrote; dsimp only; split <;> (try split) <;> rfl
@[simp] theorem ringWrote_grooms (r : Nat) (s : State) : (ringWrote r s).grooms = s.grooms := by unfold ringWrote; dsimp only; split <;> (try split) <;> rfl
@[simp] theorem ringWrote_exch (r : Nat) (s : State) : (ringWrote r s).exch = s.exch := by unfold ringWrote; dsimp only; split <;> (try split) <;> rfl
@[simp] theorem ringWrote_fab (r : Nat) (s : State) : (ringWrote r s).fab = s.fab := by unfold ringWrote; dsimp only; split <;> (try split) <;> rfl
@[simp] theorem ringWrote_hitch (r : Nat) (s : State) : (ringWrote r s).hitch = s.hitch := by unfold ringWrote; dsimp only; split <;> (try split) <;> rfl
@[simp] theorem ringWrote_cages (r : Nat) (s : State) : (ringWrote r s).cages = s.cages := by unfold ringWrote; dsimp only; split <;> (try split) <;> rfl
@[simp] theorem ringWrote_job (r : Nat) (s : State) : (ringWrote r s).job = s.job := by unfold ringWrote; dsimp only; split <;> (try split) <;> rfl
@[simp] theorem ringWrote_epoch (r : Nat) (s : State) : (ringWrote r s).epoch = s.epoch := by unfold ringWrote; dsimp only; split <;> (try split) <;> rfl
@[simp] theorem ringWrote_ckpt (r : Nat) (s : State) : (ringWrote r s).ckpt = s.ckpt := by unfold ringWrote; dsimp only; split <;> (try split) <;> rfl
@[simp] theorem ringWrote_boot (r : Nat) (s : State) : (ringWrote r s).boot = s.boot := by unfold ringWrote; dsimp only; split <;> (try split) <;> rfl
@[simp] theorem ringWrote_power (r : Nat) (s : State) : (ringWrote r s).power = s.power := by unfold ringWrote; dsimp only; split <;> (try split) <;> rfl
@[simp] theorem ringWrote_log (r : Nat) (s : State) : (ringWrote r s).log = s.log := by unfold ringWrote; dsimp only; split <;> (try split) <;> rfl
@[simp] theorem ringWrote_outbox (r : Nat) (s : State) : (ringWrote r s).outbox = s.outbox := by unfold ringWrote; dsimp only; split <;> (try split) <;> rfl

@[simp] theorem msix_pending (v : Nat) (s : State) : (msix v s).pending = s.pending := by unfold msix; split <;> rfl
@[simp] theorem msix_free (v : Nat) (s : State) : (msix v s).free = s.free := by unfold msix; split <;> rfl
@[simp] theorem msix_hostRead (v : Nat) (s : State) : (msix v s).hostRead = s.hostRead := by unfold msix; split <;> rfl
@[simp] theorem msix_regs (v : Nat) (s : State) : (msix v s).regs = s.regs := by unfold msix; split <;> rfl
@[simp] theorem msix_cfg (v : Nat) (s : State) : (msix v s).cfg = s.cfg := by unfold msix; split <;> rfl
@[simp] theorem msix_latches (v : Nat) (s : State) : (msix v s).latches = s.latches := by unfold msix; split <;> rfl
@[simp] theorem msix_mem (v : Nat) (s : State) : (msix v s).mem = s.mem := by unfold msix; split <;> rfl
@[simp] theorem msix_cores (v : Nat) (s : State) : (msix v s).cores = s.cores := by unfold msix; split <;> rfl
@[simp] theorem msix_grooms (v : Nat) (s : State) : (msix v s).grooms = s.grooms := by unfold msix; split <;> rfl
@[simp] theorem msix_exch (v : Nat) (s : State) : (msix v s).exch = s.exch := by unfold msix; split <;> rfl
@[simp] theorem msix_fab (v : Nat) (s : State) : (msix v s).fab = s.fab := by unfold msix; split <;> rfl
@[simp] theorem msix_hitch (v : Nat) (s : State) : (msix v s).hitch = s.hitch := by unfold msix; split <;> rfl
@[simp] theorem msix_cages (v : Nat) (s : State) : (msix v s).cages = s.cages := by unfold msix; split <;> rfl
@[simp] theorem msix_job (v : Nat) (s : State) : (msix v s).job = s.job := by unfold msix; split <;> rfl
@[simp] theorem msix_epoch (v : Nat) (s : State) : (msix v s).epoch = s.epoch := by unfold msix; split <;> rfl
@[simp] theorem msix_ckpt (v : Nat) (s : State) : (msix v s).ckpt = s.ckpt := by unfold msix; split <;> rfl
@[simp] theorem msix_boot (v : Nat) (s : State) : (msix v s).boot = s.boot := by unfold msix; split <;> rfl
@[simp] theorem msix_power (v : Nat) (s : State) : (msix v s).power = s.power := by unfold msix; split <;> rfl
@[simp] theorem msix_log (v : Nat) (s : State) : (msix v s).log = s.log := by unfold msix; split <;> rfl
@[simp] theorem msix_host (v : Nat) (s : State) : (msix v s).host = s.host := by unfold msix; split <;> rfl

@[simp] theorem eventWrite_pending (e : Option LogEnt) (s : State) : (eventWrite e s).pending = s.pending := by unfold eventWrite; split <;> (try split) <;> (try split) <;> simp
@[simp] theorem eventWrite_free (e : Option LogEnt) (s : State) : (eventWrite e s).free = s.free := by unfold eventWrite; split <;> (try split) <;> (try split) <;> simp
@[simp] theorem eventWrite_hostRead (e : Option LogEnt) (s : State) : (eventWrite e s).hostRead = s.hostRead := by unfold eventWrite; split <;> (try split) <;> (try split) <;> simp
@[simp] theorem eventWrite_regs (e : Option LogEnt) (s : State) : (eventWrite e s).regs = s.regs := by unfold eventWrite; split <;> (try split) <;> (try split) <;> simp
@[simp] theorem eventWrite_cfg (e : Option LogEnt) (s : State) : (eventWrite e s).cfg = s.cfg := by unfold eventWrite; split <;> (try split) <;> (try split) <;> simp
@[simp] theorem eventWrite_latches (e : Option LogEnt) (s : State) : (eventWrite e s).latches = s.latches := by unfold eventWrite; split <;> (try split) <;> (try split) <;> simp
@[simp] theorem eventWrite_mem (e : Option LogEnt) (s : State) : (eventWrite e s).mem = s.mem := by unfold eventWrite; split <;> (try split) <;> (try split) <;> simp
@[simp] theorem eventWrite_cores (e : Option LogEnt) (s : State) : (eventWrite e s).cores = s.cores := by unfold eventWrite; split <;> (try split) <;> (try split) <;> simp
@[simp] theorem eventWrite_grooms (e : Option LogEnt) (s : State) : (eventWrite e s).grooms = s.grooms := by unfold eventWrite; split <;> (try split) <;> (try split) <;> simp
@[simp] theorem eventWrite_exch (e : Option LogEnt) (s : State) : (eventWrite e s).exch = s.exch := by unfold eventWrite; split <;> (try split) <;> (try split) <;> simp
@[simp] theorem eventWrite_fab (e : Option LogEnt) (s : State) : (eventWrite e s).fab = s.fab := by unfold eventWrite; split <;> (try split) <;> (try split) <;> simp
@[simp] theorem eventWrite_hitch (e : Option LogEnt) (s : State) : (eventWrite e s).hitch = s.hitch := by unfold eventWrite; split <;> (try split) <;> (try split) <;> simp
@[simp] theorem eventWrite_cages (e : Option LogEnt) (s : State) : (eventWrite e s).cages = s.cages := by unfold eventWrite; split <;> (try split) <;> (try split) <;> simp
@[simp] theorem eventWrite_job (e : Option LogEnt) (s : State) : (eventWrite e s).job = s.job := by unfold eventWrite; split <;> (try split) <;> (try split) <;> simp
@[simp] theorem eventWrite_epoch (e : Option LogEnt) (s : State) : (eventWrite e s).epoch = s.epoch := by unfold eventWrite; split <;> (try split) <;> (try split) <;> simp
@[simp] theorem eventWrite_ckpt (e : Option LogEnt) (s : State) : (eventWrite e s).ckpt = s.ckpt := by unfold eventWrite; split <;> (try split) <;> (try split) <;> simp
@[simp] theorem eventWrite_boot (e : Option LogEnt) (s : State) : (eventWrite e s).boot = s.boot := by unfold eventWrite; split <;> (try split) <;> (try split) <;> simp
@[simp] theorem eventWrite_power (e : Option LogEnt) (s : State) : (eventWrite e s).power = s.power := by unfold eventWrite; split <;> (try split) <;> (try split) <;> simp
@[simp] theorem eventWrite_log (e : Option LogEnt) (s : State) : (eventWrite e s).log = s.log := by unfold eventWrite; split <;> (try split) <;> (try split) <;> simp

@[simp] theorem health_pending (b : Nat) (e : Option LogEnt) (s : State) : (health b e s).pending = s.pending := by unfold health; dsimp only; split <;> simp
@[simp] theorem health_free (b : Nat) (e : Option LogEnt) (s : State) : (health b e s).free = s.free := by unfold health; dsimp only; split <;> simp
@[simp] theorem health_hostRead (b : Nat) (e : Option LogEnt) (s : State) : (health b e s).hostRead = s.hostRead := by unfold health; dsimp only; split <;> simp
@[simp] theorem health_cfg (b : Nat) (e : Option LogEnt) (s : State) : (health b e s).cfg = s.cfg := by unfold health; dsimp only; split <;> simp
@[simp] theorem health_latches (b : Nat) (e : Option LogEnt) (s : State) : (health b e s).latches = s.latches := by unfold health; dsimp only; split <;> simp
@[simp] theorem health_mem (b : Nat) (e : Option LogEnt) (s : State) : (health b e s).mem = s.mem := by unfold health; dsimp only; split <;> simp
@[simp] theorem health_cores (b : Nat) (e : Option LogEnt) (s : State) : (health b e s).cores = s.cores := by unfold health; dsimp only; split <;> simp
@[simp] theorem health_grooms (b : Nat) (e : Option LogEnt) (s : State) : (health b e s).grooms = s.grooms := by unfold health; dsimp only; split <;> simp
@[simp] theorem health_exch (b : Nat) (e : Option LogEnt) (s : State) : (health b e s).exch = s.exch := by unfold health; dsimp only; split <;> simp
@[simp] theorem health_fab (b : Nat) (e : Option LogEnt) (s : State) : (health b e s).fab = s.fab := by unfold health; dsimp only; split <;> simp
@[simp] theorem health_hitch (b : Nat) (e : Option LogEnt) (s : State) : (health b e s).hitch = s.hitch := by unfold health; dsimp only; split <;> simp
@[simp] theorem health_cages (b : Nat) (e : Option LogEnt) (s : State) : (health b e s).cages = s.cages := by unfold health; dsimp only; split <;> simp
@[simp] theorem health_job (b : Nat) (e : Option LogEnt) (s : State) : (health b e s).job = s.job := by unfold health; dsimp only; split <;> simp
@[simp] theorem health_epoch (b : Nat) (e : Option LogEnt) (s : State) : (health b e s).epoch = s.epoch := by unfold health; dsimp only; split <;> simp
@[simp] theorem health_ckpt (b : Nat) (e : Option LogEnt) (s : State) : (health b e s).ckpt = s.ckpt := by unfold health; dsimp only; split <;> simp
@[simp] theorem health_boot (b : Nat) (e : Option LogEnt) (s : State) : (health b e s).boot = s.boot := by unfold health; dsimp only; split <;> simp
@[simp] theorem health_power (b : Nat) (e : Option LogEnt) (s : State) : (health b e s).power = s.power := by unfold health; dsimp only; split <;> simp
@[simp] theorem health_log (b : Nat) (e : Option LogEnt) (s : State) : (health b e s).log = s.log := by unfold health; dsimp only; split <;> simp

@[simp] theorem raise_pending (off b : Nat) (s : State) : (raise off b s).pending = s.pending := by unfold raise; dsimp only; split <;> simp
@[simp] theorem raise_free (off b : Nat) (s : State) : (raise off b s).free = s.free := by unfold raise; dsimp only; split <;> simp
@[simp] theorem raise_hostRead (off b : Nat) (s : State) : (raise off b s).hostRead = s.hostRead := by unfold raise; dsimp only; split <;> simp
@[simp] theorem raise_regs2 (off b : Nat) (s : State) : (raise off b s).regs2 = s.regs2 := by unfold raise; dsimp only; split <;> simp
@[simp] theorem raise_cfg (off b : Nat) (s : State) : (raise off b s).cfg = s.cfg := by unfold raise; dsimp only; split <;> simp
@[simp] theorem raise_latches (off b : Nat) (s : State) : (raise off b s).latches = s.latches := by unfold raise; dsimp only; split <;> simp
@[simp] theorem raise_mem (off b : Nat) (s : State) : (raise off b s).mem = s.mem := by unfold raise; dsimp only; split <;> simp
@[simp] theorem raise_cores (off b : Nat) (s : State) : (raise off b s).cores = s.cores := by unfold raise; dsimp only; split <;> simp
@[simp] theorem raise_grooms (off b : Nat) (s : State) : (raise off b s).grooms = s.grooms := by unfold raise; dsimp only; split <;> simp
@[simp] theorem raise_exch (off b : Nat) (s : State) : (raise off b s).exch = s.exch := by unfold raise; dsimp only; split <;> simp
@[simp] theorem raise_fab (off b : Nat) (s : State) : (raise off b s).fab = s.fab := by unfold raise; dsimp only; split <;> simp
@[simp] theorem raise_hitch (off b : Nat) (s : State) : (raise off b s).hitch = s.hitch := by unfold raise; dsimp only; split <;> simp
@[simp] theorem raise_cages (off b : Nat) (s : State) : (raise off b s).cages = s.cages := by unfold raise; dsimp only; split <;> simp
@[simp] theorem raise_job (off b : Nat) (s : State) : (raise off b s).job = s.job := by unfold raise; dsimp only; split <;> simp
@[simp] theorem raise_epoch (off b : Nat) (s : State) : (raise off b s).epoch = s.epoch := by unfold raise; dsimp only; split <;> simp
@[simp] theorem raise_ckpt (off b : Nat) (s : State) : (raise off b s).ckpt = s.ckpt := by unfold raise; dsimp only; split <;> simp
@[simp] theorem raise_boot (off b : Nat) (s : State) : (raise off b s).boot = s.boot := by unfold raise; dsimp only; split <;> simp
@[simp] theorem raise_power (off b : Nat) (s : State) : (raise off b s).power = s.power := by unfold raise; dsimp only; split <;> simp
@[simp] theorem raise_host (off b : Nat) (s : State) : (raise off b s).host = s.host := by unfold raise; dsimp only; split <;> simp
@[simp] theorem raise_outbox (off b : Nat) (s : State) : (raise off b s).outbox = s.outbox := by unfold raise; dsimp only; split <;> simp

@[simp] theorem riskAdd_pending (w : Nat) (s : State) : (riskAdd w s).pending = s.pending := by unfold riskAdd; split <;> rfl
@[simp] theorem riskAdd_free (w : Nat) (s : State) : (riskAdd w s).free = s.free := by unfold riskAdd; split <;> rfl
@[simp] theorem riskAdd_hostRead (w : Nat) (s : State) : (riskAdd w s).hostRead = s.hostRead := by unfold riskAdd; split <;> rfl
@[simp] theorem riskAdd_regs (w : Nat) (s : State) : (riskAdd w s).regs = s.regs := by unfold riskAdd; split <;> rfl
@[simp] theorem riskAdd_regs2 (w : Nat) (s : State) : (riskAdd w s).regs2 = s.regs2 := by unfold riskAdd; split <;> rfl
@[simp] theorem riskAdd_cfg (w : Nat) (s : State) : (riskAdd w s).cfg = s.cfg := by unfold riskAdd; split <;> rfl
@[simp] theorem riskAdd_latches (w : Nat) (s : State) : (riskAdd w s).latches = s.latches := by unfold riskAdd; split <;> rfl
@[simp] theorem riskAdd_mem (w : Nat) (s : State) : (riskAdd w s).mem = s.mem := by unfold riskAdd; split <;> rfl
@[simp] theorem riskAdd_cores (w : Nat) (s : State) : (riskAdd w s).cores = s.cores := by unfold riskAdd; split <;> rfl
@[simp] theorem riskAdd_grooms (w : Nat) (s : State) : (riskAdd w s).grooms = s.grooms := by unfold riskAdd; split <;> rfl
@[simp] theorem riskAdd_exch (w : Nat) (s : State) : (riskAdd w s).exch = s.exch := by unfold riskAdd; split <;> rfl
@[simp] theorem riskAdd_fab (w : Nat) (s : State) : (riskAdd w s).fab = s.fab := by unfold riskAdd; split <;> rfl
@[simp] theorem riskAdd_hitch (w : Nat) (s : State) : (riskAdd w s).hitch = s.hitch := by unfold riskAdd; split <;> rfl
@[simp] theorem riskAdd_cages (w : Nat) (s : State) : (riskAdd w s).cages = s.cages := by unfold riskAdd; split <;> rfl
@[simp] theorem riskAdd_job (w : Nat) (s : State) : (riskAdd w s).job = s.job := by unfold riskAdd; split <;> rfl
@[simp] theorem riskAdd_epoch (w : Nat) (s : State) : (riskAdd w s).epoch = s.epoch := by unfold riskAdd; split <;> rfl
@[simp] theorem riskAdd_ckpt (w : Nat) (s : State) : (riskAdd w s).ckpt = s.ckpt := by unfold riskAdd; split <;> rfl
@[simp] theorem riskAdd_boot (w : Nat) (s : State) : (riskAdd w s).boot = s.boot := by unfold riskAdd; split <;> rfl
@[simp] theorem riskAdd_power (w : Nat) (s : State) : (riskAdd w s).power = s.power := by unfold riskAdd; split <;> rfl
@[simp] theorem riskAdd_host (w : Nat) (s : State) : (riskAdd w s).host = s.host := by unfold riskAdd; split <;> rfl
@[simp] theorem riskAdd_outbox (w : Nat) (s : State) : (riskAdd w s).outbox = s.outbox := by unfold riskAdd; split <;> rfl

theorem ite_pending {p : Prop} [Decidable p] (a b : State) : (if p then a else b).pending = if p then a.pending else b.pending := by
  split <;> rfl
theorem ite_free {p : Prop} [Decidable p] (a b : State) : (if p then a else b).free = if p then a.free else b.free := by
  split <;> rfl
theorem ite_hostRead {p : Prop} [Decidable p] (a b : State) : (if p then a else b).hostRead = if p then a.hostRead else b.hostRead := by
  split <;> rfl
theorem ite_cfg {p : Prop} [Decidable p] (a b : State) : (if p then a else b).cfg = if p then a.cfg else b.cfg := by
  split <;> rfl
theorem ite_latches {p : Prop} [Decidable p] (a b : State) : (if p then a else b).latches = if p then a.latches else b.latches := by
  split <;> rfl
theorem ite_mem {p : Prop} [Decidable p] (a b : State) : (if p then a else b).mem = if p then a.mem else b.mem := by
  split <;> rfl
theorem ite_cores {p : Prop} [Decidable p] (a b : State) : (if p then a else b).cores = if p then a.cores else b.cores := by
  split <;> rfl
theorem ite_grooms {p : Prop} [Decidable p] (a b : State) : (if p then a else b).grooms = if p then a.grooms else b.grooms := by
  split <;> rfl
theorem ite_exch {p : Prop} [Decidable p] (a b : State) : (if p then a else b).exch = if p then a.exch else b.exch := by
  split <;> rfl
theorem ite_fab {p : Prop} [Decidable p] (a b : State) : (if p then a else b).fab = if p then a.fab else b.fab := by
  split <;> rfl
theorem ite_hitch {p : Prop} [Decidable p] (a b : State) : (if p then a else b).hitch = if p then a.hitch else b.hitch := by
  split <;> rfl
theorem ite_cages {p : Prop} [Decidable p] (a b : State) : (if p then a else b).cages = if p then a.cages else b.cages := by
  split <;> rfl
theorem ite_job {p : Prop} [Decidable p] (a b : State) : (if p then a else b).job = if p then a.job else b.job := by
  split <;> rfl
theorem ite_epoch {p : Prop} [Decidable p] (a b : State) : (if p then a else b).epoch = if p then a.epoch else b.epoch := by
  split <;> rfl
theorem ite_ckpt {p : Prop} [Decidable p] (a b : State) : (if p then a else b).ckpt = if p then a.ckpt else b.ckpt := by
  split <;> rfl
theorem ite_boot {p : Prop} [Decidable p] (a b : State) : (if p then a else b).boot = if p then a.boot else b.boot := by
  split <;> rfl
theorem ite_power {p : Prop} [Decidable p] (a b : State) : (if p then a else b).power = if p then a.power else b.power := by
  split <;> rfl
@[simp] theorem record_pending (code : W16) (b : Blk) (i : Nat) (k : Class) (d : Detail) (s : State) : (record code b i k d s).pending = s.pending := by
  simp [record, ite_pending]
@[simp] theorem record_free (code : W16) (b : Blk) (i : Nat) (k : Class) (d : Detail) (s : State) : (record code b i k d s).free = s.free := by
  simp [record, ite_free]
@[simp] theorem record_hostRead (code : W16) (b : Blk) (i : Nat) (k : Class) (d : Detail) (s : State) : (record code b i k d s).hostRead = s.hostRead := by
  simp [record, ite_hostRead]
@[simp] theorem record_cfg (code : W16) (b : Blk) (i : Nat) (k : Class) (d : Detail) (s : State) : (record code b i k d s).cfg = s.cfg := by
  simp [record, ite_cfg]
@[simp] theorem record_latches (code : W16) (b : Blk) (i : Nat) (k : Class) (d : Detail) (s : State) : (record code b i k d s).latches = s.latches := by
  simp [record, ite_latches]
@[simp] theorem record_mem (code : W16) (b : Blk) (i : Nat) (k : Class) (d : Detail) (s : State) : (record code b i k d s).mem = s.mem := by
  simp [record, ite_mem]
@[simp] theorem record_cores (code : W16) (b : Blk) (i : Nat) (k : Class) (d : Detail) (s : State) : (record code b i k d s).cores = s.cores := by
  simp [record, ite_cores]
@[simp] theorem record_grooms (code : W16) (b : Blk) (i : Nat) (k : Class) (d : Detail) (s : State) : (record code b i k d s).grooms = s.grooms := by
  simp [record, ite_grooms]
@[simp] theorem record_exch (code : W16) (b : Blk) (i : Nat) (k : Class) (d : Detail) (s : State) : (record code b i k d s).exch = s.exch := by
  simp [record, ite_exch]
@[simp] theorem record_fab (code : W16) (b : Blk) (i : Nat) (k : Class) (d : Detail) (s : State) : (record code b i k d s).fab = s.fab := by
  simp [record, ite_fab]
@[simp] theorem record_hitch (code : W16) (b : Blk) (i : Nat) (k : Class) (d : Detail) (s : State) : (record code b i k d s).hitch = s.hitch := by
  simp [record, ite_hitch]
@[simp] theorem record_cages (code : W16) (b : Blk) (i : Nat) (k : Class) (d : Detail) (s : State) : (record code b i k d s).cages = s.cages := by
  simp [record, ite_cages]
@[simp] theorem record_job (code : W16) (b : Blk) (i : Nat) (k : Class) (d : Detail) (s : State) : (record code b i k d s).job = s.job := by
  simp [record, ite_job]
@[simp] theorem record_epoch (code : W16) (b : Blk) (i : Nat) (k : Class) (d : Detail) (s : State) : (record code b i k d s).epoch = s.epoch := by
  simp [record, ite_epoch]
@[simp] theorem record_ckpt (code : W16) (b : Blk) (i : Nat) (k : Class) (d : Detail) (s : State) : (record code b i k d s).ckpt = s.ckpt := by
  simp [record, ite_ckpt]
@[simp] theorem record_boot (code : W16) (b : Blk) (i : Nat) (k : Class) (d : Detail) (s : State) : (record code b i k d s).boot = s.boot := by
  simp [record, ite_boot]
@[simp] theorem record_power (code : W16) (b : Blk) (i : Nat) (k : Class) (d : Detail) (s : State) : (record code b i k d s).power = s.power := by
  simp [record, ite_power]

@[simp] theorem refuse_pending (c : RefCmd) (b : Blk) (i : Nat) (s : State) : (refuse c b i s).pending = s.pending := by simp [refuse]
@[simp] theorem refuse_free (c : RefCmd) (b : Blk) (i : Nat) (s : State) : (refuse c b i s).free = s.free := by simp [refuse]
@[simp] theorem refuse_hostRead (c : RefCmd) (b : Blk) (i : Nat) (s : State) : (refuse c b i s).hostRead = s.hostRead := by simp [refuse]
@[simp] theorem refuse_cfg (c : RefCmd) (b : Blk) (i : Nat) (s : State) : (refuse c b i s).cfg = s.cfg := by simp [refuse]
@[simp] theorem refuse_latches (c : RefCmd) (b : Blk) (i : Nat) (s : State) : (refuse c b i s).latches = s.latches := by simp [refuse]
@[simp] theorem refuse_mem (c : RefCmd) (b : Blk) (i : Nat) (s : State) : (refuse c b i s).mem = s.mem := by simp [refuse]
@[simp] theorem refuse_cores (c : RefCmd) (b : Blk) (i : Nat) (s : State) : (refuse c b i s).cores = s.cores := by simp [refuse]
@[simp] theorem refuse_grooms (c : RefCmd) (b : Blk) (i : Nat) (s : State) : (refuse c b i s).grooms = s.grooms := by simp [refuse]
@[simp] theorem refuse_exch (c : RefCmd) (b : Blk) (i : Nat) (s : State) : (refuse c b i s).exch = s.exch := by simp [refuse]
@[simp] theorem refuse_fab (c : RefCmd) (b : Blk) (i : Nat) (s : State) : (refuse c b i s).fab = s.fab := by simp [refuse]
@[simp] theorem refuse_hitch (c : RefCmd) (b : Blk) (i : Nat) (s : State) : (refuse c b i s).hitch = s.hitch := by simp [refuse]
@[simp] theorem refuse_cages (c : RefCmd) (b : Blk) (i : Nat) (s : State) : (refuse c b i s).cages = s.cages := by simp [refuse]
@[simp] theorem refuse_job (c : RefCmd) (b : Blk) (i : Nat) (s : State) : (refuse c b i s).job = s.job := by simp [refuse]
@[simp] theorem refuse_epoch (c : RefCmd) (b : Blk) (i : Nat) (s : State) : (refuse c b i s).epoch = s.epoch := by simp [refuse]
@[simp] theorem refuse_ckpt (c : RefCmd) (b : Blk) (i : Nat) (s : State) : (refuse c b i s).ckpt = s.ckpt := by simp [refuse]
@[simp] theorem refuse_boot (c : RefCmd) (b : Blk) (i : Nat) (s : State) : (refuse c b i s).boot = s.boot := by simp [refuse]
@[simp] theorem refuse_power (c : RefCmd) (b : Blk) (i : Nat) (s : State) : (refuse c b i s).power = s.power := by simp [refuse]

end Sys2Proof.Machine
end

