-- ==== Sys2Proof/Laws/Reg.lean ====
section
/-!
SUPPORT. Registers, cores and Grooms: what a read gives after a write.
-/
namespace Sys2Proof.Machine

/-! ### Fields of a number -/

theorem bits_lt (n lo w : Nat) : bits n lo w < 2 ^ w := Nat.mod_lt _ (Nat.two_pow_pos w)

theorem bits_testBit (n lo w i : Nat) : (bits n lo w).testBit i = (decide (i < w) && n.testBit (lo + i)) := by
  simp [bits, Nat.testBit_mod_two_pow, Nat.testBit_shiftRight]

theorem putBits_testBit (n lo w v i : Nat) :
    (putBits n lo w v).testBit i =
      if i < lo then n.testBit i else if i < lo + w then v.testBit (i - lo) else n.testBit i := by
  have h1 : n % 2 ^ lo < 2 ^ lo := Nat.mod_lt _ (Nat.two_pow_pos lo)
  have h2 : v % 2 ^ w < 2 ^ w := Nat.mod_lt _ (Nat.two_pow_pos w)
  have e : putBits n lo w v = 2 ^ (lo + w) * (n >>> (lo + w)) + (2 ^ lo * (v % 2 ^ w) + n % 2 ^ lo) := by
    simp only [putBits, Nat.shiftLeft_eq]; ring
  have h3 : 2 ^ lo * (v % 2 ^ w) + n % 2 ^ lo < 2 ^ (lo + w) := by
    have : 2 ^ lo * (v % 2 ^ w) + 2 ^ lo ≤ 2 ^ lo * 2 ^ w := by
      have : 2 ^ lo * (v % 2 ^ w + 1) ≤ 2 ^ lo * 2 ^ w := Nat.mul_le_mul_left _ h2
      linarith [this]
    rw [Nat.pow_add]; omega
  rw [e, Nat.testBit_two_pow_mul_add _ h3, Nat.testBit_two_pow_mul_add _ h1]
  by_cases a : i < lo
  · have : i < lo + w := by omega
    simp [a, this, Nat.testBit_mod_two_pow]
  · by_cases b : i < lo + w
    · have : i - lo < w := by omega
      simp [a, b, this, Nat.testBit_mod_two_pow]
    · have : lo + w + (i - (lo + w)) = i := by omega
      simp [a, b, Nat.testBit_shiftRight, this]

/-- A field just written. -/
theorem bits_putBits (n lo w v : Nat) : bits (putBits n lo w v) lo w = v % 2 ^ w := by
  apply Nat.eq_of_testBit_eq; intro i
  rw [bits_testBit, putBits_testBit, Nat.testBit_mod_two_pow]
  by_cases h : i < w
  · simp [h]
  · simp [h]

/-- A field beside the one written. -/
theorem bits_putBits_ne (n lo w v lo' w' : Nat) (h : lo' + w' ≤ lo ∨ lo + w ≤ lo') :
    bits (putBits n lo w v) lo' w' = bits n lo' w' := by
  apply Nat.eq_of_testBit_eq; intro i
  simp only [bits_testBit, putBits_testBit]
  by_cases hi : i < w'
  · rcases h with h | h
    · have : lo' + i < lo := by omega
      simp [this]
    · have a : ¬ lo' + i < lo := by omega
      have b : ¬ lo' + i < lo + w := by omega
      simp [a, b]
  · simp [hi]

theorem putBits_lt (n lo w v k : Nat) (hn : n < 2 ^ k) (h : lo + w ≤ k) : putBits n lo w v < 2 ^ k := by
  apply Nat.lt_pow_two_of_testBit; intro i hi
  rw [putBits_testBit]
  have hb : n.testBit i = false := Nat.testBit_lt_two_pow (Nat.lt_of_lt_of_le hn (Nat.pow_le_pow_right (by decide) hi))
  have a : ¬ i < lo + w := by omega
  simp [a, hb]

/-! ### Registers -/

/-- A BAR0 word after a write. -/
theorem regGet_regSet (off o : Nat) (v : W32) (s : State) :
    regGet (regSet off v s) o = if o = off then v else regGet s o := by
  unfold regGet regSet
  split
  · rename_i h; subst h; exact tabGet_set_self ..
  · rename_i h; exact tabGet_set_ne _ _ _ h _

/-- A BAR2 word after a write. -/
theorem reg2Get_reg2Set (off o : Nat) (v : W32) (s : State) :
    reg2Get (reg2Set off v s) o = if o = off then v else reg2Get s o := by
  unfold reg2Get reg2Set
  split
  · rename_i h; subst h; exact tabGet_set_self ..
  · rename_i h; exact tabGet_set_ne _ _ _ h _

/-- The word of a register one of whose fields is written. -/
theorem regGet_rfSet (off lo w v o : Nat) (s : State) :
    regGet (rfSet off lo w v s) o =
      if o = off then BitVec.ofNat 32 (putBits (regGet s off).toNat lo w v) else regGet s o := regGet_regSet ..

theorem regGet_rfSet_ne (off lo w v o : Nat) (s : State) (h : o ≠ off) :
    regGet (rfSet off lo w v s) o = regGet s o := by simp [regGet_rfSet, h]

/-- A field just written. -/
theorem rf_rfSet (off lo w v : Nat) (s : State) (h : lo + w ≤ 32) :
    rf (rfSet off lo w v s) off lo w = v % 2 ^ w := by
  unfold rf
  rw [regGet_rfSet, if_pos rfl, BitVec.toNat_ofNat, Nat.mod_eq_of_lt (putBits_lt _ _ _ _ _ (regGet s off).isLt h),
    bits_putBits]

/-- A field of another register. -/
theorem rf_rfSet_ne (off lo w v off' lo' w' : Nat) (s : State) (h : off' ≠ off) :
    rf (rfSet off lo w v s) off' lo' w' = rf s off' lo' w' := by
  unfold rf; rw [regGet_rfSet_ne _ _ _ _ _ _ h]

/-- Another field of the same register. -/
theorem rf_rfSet_field (off lo w v lo' w' : Nat) (s : State) (hl : lo + w ≤ 32)
    (h : lo' + w' ≤ lo ∨ lo + w ≤ lo') : rf (rfSet off lo w v s) off lo' w' = rf s off lo' w' := by
  unfold rf
  rw [regGet_rfSet, if_pos rfl, BitVec.toNat_ofNat, Nat.mod_eq_of_lt (putBits_lt _ _ _ _ _ (regGet s off).isLt hl),
    bits_putBits_ne _ _ _ _ _ _ h]

theorem rf_regSet (off lo w off' : Nat) (v : W32) (s : State) :
    rf (regSet off v s) off' lo w = if off' = off then bits v.toNat lo w else rf s off' lo w := by
  unfold rf; rw [regGet_regSet]; split <;> rfl

theorem reg2Get_rf2Set (off lo w v o : Nat) (s : State) :
    reg2Get (rf2Set off lo w v s) o =
      if o = off then BitVec.ofNat 32 (putBits (reg2Get s off).toNat lo w v) else reg2Get s o := reg2Get_reg2Set ..

/-- A BAR2 field just written. -/
theorem rf2_rf2Set (off lo w v : Nat) (s : State) (h : lo + w ≤ 32) :
    rf2 (rf2Set off lo w v s) off lo w = v % 2 ^ w := by
  unfold rf2
  rw [reg2Get_rf2Set, if_pos rfl, BitVec.toNat_ofNat, Nat.mod_eq_of_lt (putBits_lt _ _ _ _ _ (reg2Get s off).isLt h),
    bits_putBits]

/-- A field of another BAR2 register. -/
theorem rf2_rf2Set_ne (off lo w v off' lo' w' : Nat) (s : State) (h : off' ≠ off) :
    rf2 (rf2Set off lo w v s) off' lo' w' = rf2 s off' lo' w' := by
  unfold rf2; rw [reg2Get_rf2Set, if_neg h]

/-- Another field of the same BAR2 register. -/
theorem rf2_rf2Set_field (off lo w v lo' w' : Nat) (s : State) (hl : lo + w ≤ 32)
    (h : lo' + w' ≤ lo ∨ lo + w ≤ lo') : rf2 (rf2Set off lo w v s) off lo' w' = rf2 s off lo' w' := by
  unfold rf2
  rw [reg2Get_rf2Set, if_pos rfl, BitVec.toNat_ofNat, Nat.mod_eq_of_lt (putBits_lt _ _ _ _ _ (reg2Get s off).isLt hl),
    bits_putBits_ne _ _ _ _ _ _ h]

/-! ### A part that does not hold registers or cores -/

theorem regGet_congr {s t : State} (h : t.regs = s.regs) (o : Nat) : regGet t o = regGet s o := by
  unfold regGet; rw [h]

theorem rf_congr {s t : State} (h : t.regs = s.regs) (o lo w : Nat) : rf t o lo w = rf s o lo w := by
  unfold rf; rw [regGet_congr h]

theorem reg2Get_congr {s t : State} (h : t.regs2 = s.regs2) (o : Nat) : reg2Get t o = reg2Get s o := by
  unfold reg2Get; rw [h]

theorem rf2_congr {s t : State} (h : t.regs2 = s.regs2) (o lo w : Nat) : rf2 t o lo w = rf2 s o lo w := by
  unfold rf2; rw [reg2Get_congr h]

theorem coreOf_congr {s t : State} (h : t.cores = s.cores) (n : Nat) : coreOf t n = coreOf s n := by
  unfold coreOf; rw [h]

theorem groomOf_congr {s t : State} (h : t.grooms = s.grooms) (n : Nat) : groomOf t n = groomOf s n := by
  unfold groomOf; rw [h]

/-! ### Cores and Grooms -/

/-- A core after one is replaced. -/
theorem coreOf_coreSet (n m : Nat) (c : Core) (s : State) :
    coreOf (coreSet n c s) m = if m = n then c else coreOf s m := tabGet_set ..

/-- A core after one is changed. -/
theorem coreOf_coreMod (n m : Nat) (f : Core → Core) (s : State) :
    coreOf (coreMod n f s) m = if m = n then f (coreOf s n) else coreOf s m := coreOf_coreSet ..

@[simp] theorem coreOf_coreMod_self (n : Nat) (f : Core → Core) (s : State) :
    coreOf (coreMod n f s) n = f (coreOf s n) := by simp [coreOf_coreMod]

/-- A Groom after one is replaced. -/
theorem groomOf_groomSet (n m : Nat) (g : Groom) (s : State) :
    groomOf (groomSet n g s) m = if m = n then g else groomOf s m := tabGet_set ..

/-- A Groom after one is changed. -/
theorem groomOf_groomMod (n m : Nat) (f : Groom → Groom) (s : State) :
    groomOf (groomMod n f s) m = if m = n then f (groomOf s n) else groomOf s m := groomOf_groomSet ..

@[simp] theorem Core.queue_setQueue (c : Core) (q r : Q) (v : Queue) :
    (c.setQueue q v).queue r = if r = q then v else c.queue r := by
  cases q <;> cases r <;> rfl

@[simp] theorem Core.ctx_setCtx (c : Core) (x y : Ctx) (v : CtxSt) :
    (c.setCtx x v).ctx y = if y = x then v else c.ctx y := by
  cases x <;> cases y <;> rfl

/-- A sync counter after one is written. -/
theorem Core.ctr_setCtr (c : Core) (i j : Nat) (v : Ctr) : (c.setCtr i v).ctr j = if j = i then v else c.ctr j :=
  tabGet_set ..

/-- A completion count after one is written. -/
theorem Core.cc_setCc (c : Core) (i j : Nat) (v : CCount) : (c.setCc i v).cc j = if j = i then v else c.cc j :=
  tabGet_set ..

/-- A descriptor after one is written. -/
theorem Core.dsc_setDsc (c : Core) (i j : Nat) (v : BitVec 512) :
    (c.setDsc i v).dsc j = if j = i then v else c.dsc j := tabGet_set ..

/-- A stall after one is written. -/
theorem Core.stall_setStall (c : Core) (i j : Nat) (v : Stall) :
    (c.setStall i v).stall j = if j = i then v else c.stall j := tabGet_set ..

end Sys2Proof.Machine
end

