-- ==== Sys2Proof/Laws/Ostler.lean ====
section
/-!
SUPPORT. What a control-class instruction does: the header wait, the body, the header signal.
-/
namespace Sys2Proof.Machine

theorem Keeps.refl (l : List Part) (s : State) : Keeps l s s := by intro p _; cases p <;> rfl

theorem Keeps.trans {l : List Part} {s t u : State} (h : Keeps l s t) (k : Keeps l t u) : Keeps l s u := by
  intro p hp
  have a := h p hp
  have b := k p hp
  cases p <;> exact b.trans a

theorem Keeps.mono {l m : List Part} {s t : State} (h : Keeps l s t) (hl : ∀ p ∈ l, p ∈ m) : Keeps m s t :=
  fun p hp => h p (fun hh => hp (hl p hh))

theorem coreOf_takeWait (n m : Nat) (w : W128) (s : State) :
    coreOf (takeWait n w s) m = if m = n then waitCore (coreOf s n) w else coreOf s m := by
  unfold takeWait waitCore
  dsimp only
  split
  · split
    · rename_i h; rw [h]
    · rfl
  · rw [coreOf_coreMod]

theorem takeWait_keeps (n : Nat) (w : W128) (s : State) : Keeps [.cores] s (takeWait n w s) := by
  intro p hp
  unfold takeWait
  dsimp only
  split
  · cases p <;> rfl
  · cases p <;> first | rfl | simp at hp

theorem coreMod_keeps (n : Nat) (f : Core → Core) (s : State) : Keeps [.cores] s (coreMod n f s) := by
  intro p hp
  cases p <;> first | rfl | simp at hp

/-- Changing a core at its context. -/
theorem coreOf_ctxMod (n m : Nat) (x : Ctx) (f : CtxSt → CtxSt) (s : State) :
    coreOf (ctxMod n x f s) m =
      if m = n then (coreOf s n).setCtx x (f ((coreOf s n).ctx x)) else coreOf s m := coreOf_coreMod ..

/-- A register that an event bit does not write. -/
theorem regGet_raise_ne (off b o : Nat) (s : State) (h : o ≠ off) : regGet (raise off b s) o = regGet s o := by
  unfold raise
  dsimp only
  split
  · rw [regGet_congr (show (hear (off * 32 + b) (evAdvance (rfSet off b 1 1 s))).regs = (rfSet off b 1 1 s).regs from rfl)]
    exact regGet_rfSet_ne _ _ _ _ _ _ h
  · exact regGet_rfSet_ne _ _ _ _ _ _ h

theorem regGet_raise_regSet_ne (a b c o : Nat) (v : W32) (s : State) (h : o ≠ a) (h2 : o ≠ c) :
    regGet (raise a b (regSet c v s)) o = regGet s o := by
  rw [regGet_raise_ne _ _ _ _ h, regGet_regSet, if_neg h2]

/-- A register that an event of the sync unit does not write. -/
theorem syncEvent_regs (n b : Nat) (code : W16) (i k o : Nat) (s : State)
    (h : o ≠ oCore n + 0x1_0440) (h2 : o ≠ oCore n + 0x1_0448) :
    regGet (syncEvent n b code i k s) o = regGet s o :=
  regGet_raise_regSet_ne (oCore n + 0x1_0440) b (oCore n + 0x1_0448) o _ s h h2

theorem raise_keeps (a b : Nat) (s : State) : Keeps [.regs, .log] s (raise a b s) := by
  intro p hp
  cases p <;> first | (simp [Part.same]; done) | simp at hp

theorem regSet_keeps (a : Nat) (v : W32) (s : State) : Keeps [.regs] s (regSet a v s) := by
  intro p hp
  cases p <;> first | rfl | simp at hp

theorem regAdd_keeps (a n : Nat) (s : State) : Keeps [.regs] s (regAdd a n s) := by
  intro p hp
  cases p <;> first | rfl | simp at hp

theorem rfSet_keeps (a lo w v : Nat) (s : State) : Keeps [.regs] s (rfSet a lo w v s) := by
  intro p hp
  cases p <;> first | rfl | simp at hp

theorem bumpFree_keeps (s : State) : Keeps [.free] s (bumpFree s) := by
  intro p hp
  cases p <;> first | rfl | simp at hp

theorem syncEvent_keeps (n b : Nat) (code : W16) (i k : Nat) (s : State) :
    Keeps [.regs, .log] s (syncEvent n b code i k s) :=
  ((regSet_keeps _ _ _).mono (by simp)).trans (raise_keeps _ _ _)

/-- A signal that fits, or is dropped. -/
theorem signal_fits (n : Nat) (w : W128) (s : State) (h : signalFits (coreOf s n) w) :
    ∃ t, signal n (hdrOf w).sctr.toNat (hdrOf w).samt.toNat s = (t, false) ∧
      coreOf t n = signalCore (coreOf s n) w ∧ CoresKeep n s t ∧ RegsKeep (syncRegs n) s t ∧
      Keeps [.cores, .regs, .free, .log] s t := by
  unfold signal signalCore
  by_cases h0 : (hdrOf w).samt = 0
  · have : (hdrOf w).samt.toNat = 0 := by rw [h0]; rfl
    refine ⟨s, by simp [this], by simp [h0], fun _ _ => rfl, fun _ _ => rfl, Keeps.refl _ _⟩
  · have h1 : ¬ (hdrOf w).samt.toNat = 0 := fun hh => h0 (BitVec.eq_of_toNat_eq (by simpa using hh))
    simp only [h1, if_false, h0, false_or]
    by_cases hp : ((coreOf s n).ctr (hdrOf w).sctr.toNat).poison.isSome
    · simp only [hp, if_true]
      have hK : Keeps [.regs, .free, .log] s (syncEvent n 4 (BitVec.setWidth 16 (Config.freeWord s.free))
          (hdrOf w).sctr.toNat 0 (regAdd (oCore n + 0x1_0450) 1 (bumpFree s))) :=
        (((bumpFree_keeps s).mono (by simp)).trans ((regAdd_keeps _ _ _).mono (by simp))).trans
          ((syncEvent_keeps _ _ _ _ _ _).mono (by simp))
      refine ⟨_, rfl, ?_, ?_, ?_, hK.mono (by simp)⟩
      · exact coreOf_congr (hK .cores (by simp)) n
      · intro m _; exact coreOf_congr (hK .cores (by simp)) m
      · intro o ho
        simp only [syncRegs, List.mem_cons, List.not_mem_nil, or_false, not_or] at ho
        rw [syncEvent_regs _ _ _ _ _ _ _ ho.1 ho.2.1]
        unfold regAdd
        rw [regGet_regSet, if_neg ho.2.2]
        rfl
    · have hq : ((coreOf s n).ctr (hdrOf w).sctr.toNat).poison.isSome = false := by simpa using hp
      have hle : ¬ 4095 < ((coreOf s n).ctr (hdrOf w).sctr.toNat).c.toNat + (hdrOf w).samt.toNat := by
        rcases h with h | h | h
        · exact absurd h h0
        · rw [hq] at h; cases h
        · omega
      simp only [hq, Bool.false_eq_true, if_false, hle]
      refine ⟨_, rfl, ?_, ?_, ?_, ?_⟩
      · rw [coreOf_coreMod, if_pos rfl]
      · intro m hm; rw [coreOf_coreMod, if_neg hm]
      · intro o _; exact regGet_congr (by simp) o
      · exact (coreMod_keeps _ _ _).mono (by simp)

/-- A context at a legal instruction with its wait satisfied runs the instruction's body. -/
theorem ctlRun_at {n : Nat} {x : Ctx} {op : Nat} {f : CtlF} {s : State} (h : CtlAt s n x op f)
    (body : CtlF → W128 → State → State) :
    ctlRun n x op body s = body f (ctxWord (coreOf s n) x) s := by
  obtain ⟨h1, ha, hm, h2, ⟨i, k, h3, h4⟩, h5⟩ := h
  unfold ctlRun
  simp only [h1, ha, hm, Bool.true_eq_false, Bool.false_eq_true, false_or, h2, ne_eq, not_true_eq_false, and_false, if_false, h3, h5, h4]

/-- The end of a control-class instruction. -/
theorem ctlDone_gives (n : Nat) (x : Ctx) (w : W128) (next : BitVec 12) (s : State)
    (h : signalFits (coreOf s n) w) :
    (let c := signalCore (coreOf s n) w
     coreOf (ctlDone n x w next s) n = c.setCtx x { c.ctx x with pc := next, enq := none, bar := none, dset := false }) ∧
      CoresKeep n s (ctlDone n x w next s) ∧ RegsKeep (syncRegs n) s (ctlDone n x w next s) ∧
      Keeps [.cores, .regs, .free, .log] s (ctlDone n x w next s) := by
  obtain ⟨t, ht, h1, h2, h3, h4⟩ := signal_fits n w s h
  unfold ctlDone
  simp only [ht, Bool.false_eq_true, if_false]
  refine ⟨?_, ?_, ?_, ?_⟩
  · rw [coreOf_ctxMod, if_pos rfl, h1]
  · intro m hm; rw [coreOf_ctxMod, if_neg hm]; exact h2 m hm
  · intro o ho; rw [← h3 o ho]; exact regGet_congr (by simp) o
  · exact h4.trans ((coreMod_keeps _ _ _).mono (by simp))

/-- An instruction whose effect is a change `g` of its own core. -/
theorem ctlDone_mod_gives (n : Nat) (x : Ctx) (w : W128) (g : Core → Core) (next : BitVec 12) (s : State)
    (h : signalFits (g (waitCore (coreOf s n) w)) w) :
    CtlGives s (ctlDone n x w next (coreMod n g (takeWait n w s))) n x w g next := by
  have e : coreOf (coreMod n g (takeWait n w s)) n = g (waitCore (coreOf s n) w) := by
    rw [coreOf_coreMod, if_pos rfl, coreOf_takeWait, if_pos rfl]
  have hk : Keeps [.cores] s (coreMod n g (takeWait n w s)) := (takeWait_keeps _ _ _).trans (coreMod_keeps _ _ _)
  obtain ⟨h1, h2, h3, h4⟩ := ctlDone_gives n x w next (coreMod n g (takeWait n w s)) (by rw [e]; exact h)
  refine ⟨?_, ?_, ?_, ?_⟩
  · rw [e] at h1; exact h1
  · intro m hm; rw [h2 m hm, coreOf_coreMod, if_neg hm, coreOf_takeWait, if_neg hm]
  · intro o ho; rw [h3 o ho]; exact regGet_congr (hk .regs (by simp)) o
  · exact (hk.mono (by simp)).trans h4

end Sys2Proof.Machine
end

