-- ==== Sys2Proof/Laws/PerInstr.lean ====
section
/-!
SUPPORT. What holds of every command as syntax: a well-formed command carries well-formed actions only
(R286, R454).
-/
namespace Sys2Proof.Laws.Shape

/-- The hitch actions that a command carries. -/
def carried (i : Instr) : List Action :=
  match i with
  | .load _ img => img.templates.flatMap (fun t => t.actions.map (fun x => x.2))
  | .hitchStage _ _ _ action => [action]
  | .hitchPrepare _ _ _ actions => actions.map (fun x => x.2)
  | _ => []

/-- Every action that a well-formed command carries is well formed. -/
def Statement (i : Instr) : Prop := i.wf = true → ∀ a ∈ carried i, actionWf a = true

theorem load (tag : W16) (img : ProgramImage) : Statement (.load tag img) := by
  intro h a ha
  simp only [Instr.wf, imageWf, Bool.and_eq_true, List.all_eq_true] at h
  simp only [carried, List.mem_flatMap, List.mem_map] at ha
  obtain ⟨t, ht, x, hx, rfl⟩ := ha
  exact h.2 t ht x hx
theorem stepCommit : Statement (.stepCommit) := fun _ _ h => by cases h
theorem enq (c : Fin 32) (x : Ctx) : Statement (.enq c x) := fun _ _ h => by cases h
theorem enqComplete (c : Fin 32) (x : Ctx) : Statement (.enqComplete c x) := fun _ _ h => by cases h
theorem li (c : Fin 32) (x : Ctx) : Statement (.li c x) := fun _ _ h => by cases h
theorem alu (c : Fin 32) (x : Ctx) : Statement (.alu c x) := fun _ _ h => by cases h
theorem br (c : Fin 32) (x : Ctx) : Statement (.br c x) := fun _ _ h => by cases h
theorem loop (c : Fin 32) (x : Ctx) : Statement (.loop c x) := fun _ _ h => by cases h
theorem sumrd (c : Fin 32) (x : Ctx) : Statement (.sumrd c x) := fun _ _ h => by cases h
theorem sld (c : Fin 32) (x : Ctx) : Statement (.sld c x) := fun _ _ h => by cases h
theorem sst (c : Fin 32) (x : Ctx) : Statement (.sst c x) := fun _ _ h => by cases h
theorem dget (c : Fin 32) (x : Ctx) : Statement (.dget c x) := fun _ _ h => by cases h
theorem dset (c : Fin 32) (x : Ctx) : Statement (.dset c x) := fun _ _ h => by cases h
theorem bar (c : Fin 32) (x : Ctx) : Statement (.bar c x) := fun _ _ h => by cases h
theorem barRealign (c : Fin 32) : Statement (.barRealign c) := fun _ _ h => by cases h
theorem stop (c : Fin 32) (x : Ctx) : Statement (.stop c x) := fun _ _ h => by cases h
theorem sync (c : Fin 32) (q : Q) (i : Fin 16) : Statement (.sync c q i) := fun _ _ h => by cases h
theorem cwait (c : Fin 32) (q : Q) (i : Fin 16) : Statement (.cwait c q i) := fun _ _ h => by cases h
theorem creset (c : Fin 32) (q : Q) (i : Fin 16) : Statement (.creset c q i) := fun _ _ h => by cases h
theorem carm (c : Fin 32) (q : Q) (i : Fin 16) : Statement (.carm c q i) := fun _ _ h => by cases h
theorem copy (c : Fin 32) (q : Q) (i : Fin 16) : Statement (.copy c q i) := fun _ _ h => by cases h
theorem copyComplete (c : Fin 32) (barrow : Fin 4) (i : Nat) : Statement (.copyComplete c barrow i) := fun _ _ h => by cases h
theorem tmul (c : Fin 32) (q : Q) (i : Fin 16) : Statement (.tmul c q i) := fun _ _ h => by cases h
theorem tmulEdgeDone (c : Fin 32) (stall : Fin 8) : Statement (.tmulEdgeDone c stall) := fun _ _ h => by cases h
theorem tmulDrain (c : Fin 32) (stall : Fin 8) : Statement (.tmulDrain c stall) := fun _ _ h => by cases h
theorem trg (c : Fin 32) (q : Q) (i : Fin 16) : Statement (.trg c q i) := fun _ _ h => by cases h
theorem troughChainStart (c : Fin 32) : Statement (.troughChainStart c) := fun _ _ h => by cases h
theorem troughChainComplete (c : Fin 32) (k : Nat) : Statement (.troughChainComplete c k) := fun _ _ h => by cases h
theorem rflush (c : Fin 32) (q : Q) (i : Fin 16) : Statement (.rflush c q i) := fun _ _ h => by cases h
theorem rflushEffect (c : Fin 32) (q : Q) : Statement (.rflushEffect c q) := fun _ _ h => by cases h
theorem streamHang (c : Fin 32) : Statement (.streamHang c) := fun _ _ h => by cases h
theorem flushF (c : Fin 32) : Statement (.flushF c) := fun _ _ h => by cases h
theorem flushB (c : Fin 32) : Statement (.flushB c) := fun _ _ h => by cases h
theorem flushW (c : Fin 32) : Statement (.flushW c) := fun _ _ h => by cases h
theorem flushX (c : Fin 32) : Statement (.flushX c) := fun _ _ h => by cases h
theorem flushDone (c : Fin 32) (q : Q) : Statement (.flushDone c q) := fun _ _ h => by cases h
theorem coreRun (c : Fin 32) (v : Bool) : Statement (.coreRun c v) := fun _ _ h => by cases h
theorem ostlerRunP (c : Fin 32) (v : Bool) : Statement (.ostlerRunP c v) := fun _ _ h => by cases h
theorem ostlerRunX (c : Fin 32) (v : Bool) : Statement (.ostlerRunX c v) := fun _ _ h => by cases h
theorem ostlerContextStopped (c : Fin 32) (x : Ctx) : Statement (.ostlerContextStopped c x) := fun _ _ h => by cases h
theorem lockPeakClr (c : Fin 32) : Statement (.lockPeakClr c) := fun _ _ h => by cases h
theorem convStatClear (c : Fin 32) : Statement (.convStatClear c) := fun _ _ h => by cases h
theorem syncArm (c : Fin 32) (counter : Fin 256) (value : BitVec 12) (all : Bool) : Statement (.syncArm c counter value all) := fun _ _ h => by cases h
theorem deviceEpochClose : Statement (.deviceEpochClose) := fun _ _ h => by cases h
theorem barrierJoinMsg (rank : Nat) (req : Bool) (interval : Nat) : Statement (.barrierJoinMsg rank req interval) := fun _ _ h => by cases h
theorem barrierCloseMsg (shadow storage : Bool) : Statement (.barrierCloseMsg shadow storage) := fun _ _ h => by cases h
theorem hitchOpen (tag : W16) (ranks : List Nat) (limit : Nat) : Statement (.hitchOpen tag ranks limit) := fun _ _ h => by cases h
theorem hitchStage (tag hitch : W16) (rank : Nat) (action : Action) : Statement (.hitchStage tag hitch rank action) := by
  intro h a ha
  simp only [Instr.wf, Bool.and_eq_true] at h
  simp only [carried, List.mem_singleton] at ha
  exact ha ▸ h.2
theorem hitchCommit (tag hitch : W16) : Statement (.hitchCommit tag hitch) := fun _ _ h => by cases h
theorem hitchAbort (tag hitch : W16) : Statement (.hitchAbort tag hitch) := fun _ _ h => by cases h
theorem hitchQuery (tag hitch : W16) : Statement (.hitchQuery tag hitch) := fun _ _ h => by cases h
theorem hitchPrepare (hitch : W16) (coord limit : Nat) (actions : List (Nat × Action)) : Statement (.hitchPrepare hitch coord limit actions) := by
  intro h a ha
  simp only [Instr.wf, Bool.and_eq_true, List.all_eq_true] at h
  simp only [carried, List.mem_map] at ha
  obtain ⟨x, hx, rfl⟩ := ha
  exact (h.2 x hx).2
theorem hitchPrepared (hitch : W16) (found : Preparation) : Statement (.hitchPrepared hitch found) := fun _ _ h => by cases h
theorem hitchVote (hitch : W16) (rank : Nat) (cause : Fin 8) : Statement (.hitchVote hitch rank cause) := fun _ _ h => by cases h
theorem hitchPrepareTimeout (hitch : W16) : Statement (.hitchPrepareTimeout hitch) := fun _ _ h => by cases h
theorem hitchCommitted (hitch : W16) : Statement (.hitchCommitted hitch) := fun _ _ h => by cases h
theorem hitchAborted (hitch : W16) : Statement (.hitchAborted hitch) := fun _ _ h => by cases h
theorem hitchUndoDone (hitch : W16) : Statement (.hitchUndoDone hitch) := fun _ _ h => by cases h
theorem hitchAck (hitch : W16) (rank : Nat) : Statement (.hitchAck hitch rank) := fun _ _ h => by cases h
theorem hitchRelease (hitch : W16) : Statement (.hitchRelease hitch) := fun _ _ h => by cases h
theorem hitchDecisionTimeout (hitch : W16) : Statement (.hitchDecisionTimeout hitch) := fun _ _ h => by cases h
theorem gwait (k : Fin 8) : Statement (.gwait k) := fun _ _ h => by cases h
theorem gskip (k : Fin 8) : Statement (.gskip k) := fun _ _ h => by cases h
theorem gopMom1 (k : Fin 8) : Statement (.gopMom1 k) := fun _ _ h => by cases h
theorem gopMom2 (k : Fin 8) : Statement (.gopMom2 k) := fun _ _ h => by cases h
theorem gopApply (k : Fin 8) : Statement (.gopApply k) := fun _ _ h => by cases h
theorem gopDecay (k : Fin 8) : Statement (.gopDecay k) := fun _ _ h => by cases h
theorem gopSgd (k : Fin 8) : Statement (.gopSgd k) := fun _ _ h => by cases h
theorem gopReanchor (k : Fin 8) : Statement (.gopReanchor k) := fun _ _ h => by cases h
theorem gopCast (k : Fin 8) : Statement (.gopCast k) := fun _ _ h => by cases h
theorem gopDone (k : Fin 8) : Statement (.gopDone k) := fun _ _ h => by cases h
theorem groomPartialMsg (holder : Fin 8) (block : Nat) : Statement (.groomPartialMsg holder block) := fun _ _ h => by cases h
theorem groomVerdictMsg (k : Fin 8) (block : Nat) : Statement (.groomVerdictMsg k block) := fun _ _ h => by cases h
theorem reanchorAgree : Statement (.reanchorAgree) := fun _ _ h => by cases h
theorem gsignal (k : Fin 8) : Statement (.gsignal k) := fun _ _ h => by cases h
theorem gend (k : Fin 8) : Statement (.gend k) := fun _ _ h => by cases h
theorem groomRun (k : Fin 8) (v : Bool) : Statement (.groomRun k v) := fun _ _ h => by cases h
theorem groomStopped (k : Fin 8) : Statement (.groomStopped k) := fun _ _ h => by cases h
theorem groomZeroCounts (k : Fin 8) : Statement (.groomZeroCounts k) := fun _ _ h => by cases h
theorem groomHang (k : Fin 8) (w : GroomWait) : Statement (.groomHang k w) := fun _ _ h => by cases h
theorem loftPartitionChange (d : Fin 8) (v : BitVec 5) : Statement (.loftPartitionChange d v) := fun _ _ h => by cases h
theorem loftPartitionDone (d : Fin 8) : Statement (.loftPartitionDone d) := fun _ _ h => by cases h
theorem loftFlush (d : Fin 8) : Statement (.loftFlush d) := fun _ _ h => by cases h
theorem loftFlushDone (d : Fin 8) : Statement (.loftFlushDone d) := fun _ _ h => by cases h
theorem hbmModeWrite (k : Fin 8) (mode : BitVec 2) : Statement (.hbmModeWrite k mode) := fun _ _ h => by cases h
theorem patrolScrub (t : ScrubTarget) (upsets : List Upset) : Statement (.patrolScrub t upsets) := fun _ _ h => by cases h
theorem hbmTempSample (k : Fin 8) (temp : Byte) : Statement (.hbmTempSample k temp) := fun _ _ h => by cases h
theorem hbmHaltTimeout (k : Fin 8) : Statement (.hbmHaltTimeout k) := fun _ _ h => by cases h
theorem hbmTempPeakClr (k : Fin 8) : Statement (.hbmTempPeakClr k) := fun _ _ h => by cases h
theorem hbmTgStart (k : Fin 8) : Statement (.hbmTgStart k) := fun _ _ h => by cases h
theorem hbmTgStop (k : Fin 8) : Statement (.hbmTgStop k) := fun _ _ h => by cases h
theorem hbmTgDone (k : Fin 8) (pc : Fin 64) : Statement (.hbmTgDone k pc) := fun _ _ h => by cases h
theorem blockReceive (p : Fin 24) (b : Block) : Statement (.blockReceive p b) := fun _ _ h => by cases h
theorem linkAckTimeout (p : Fin 24) : Statement (.linkAckTimeout p) := fun _ _ h => by cases h
theorem blockPadTimeout (p : Fin 24) : Statement (.blockPadTimeout p) := fun _ _ h => by cases h
theorem flitReceive (p : Fin 24) (vc : Fin 4) : Statement (.flitReceive p vc) := fun _ _ h => by cases h
theorem noRouteTimeout (src : Nat) : Statement (.noRouteTimeout src) := fun _ _ h => by cases h
theorem e2eResponse (src space : Nat) (cum : W16) (bitmap : List Nat) (fault : Option (W16 × W16)) : Statement (.e2eResponse src space cum bitmap fault) := fun _ _ h => by cases h
theorem e2eResendTimeout (dst space : Nat) (seq : W16) : Statement (.e2eResendTimeout dst space seq) := fun _ _ h => by cases h
theorem deliveryLost (dst space : Nat) (seq : W16) : Statement (.deliveryLost dst space seq) := fun _ _ h => by cases h
theorem busyRetry (dst space : Nat) (seq : W16) : Statement (.busyRetry dst space seq) := fun _ _ h => by cases h
theorem laneShed (p : Fin 24) (lane : Fin 8) : Statement (.laneShed p lane) := fun _ _ h => by cases h
theorem laneBerWindow (p : Fin 24) (lane : Fin 8) (errors : LaneErrors) (bits : Nat) : Statement (.laneBerWindow p lane errors bits) := fun _ _ h => by cases h
theorem laneShedResume (p : Fin 24) : Statement (.laneShedResume p) := fun _ _ h => by cases h
theorem portTrain (p : Fin 24) : Statement (.portTrain p) := fun _ _ h => by cases h
theorem portTrainDone (p : Fin 24) (lanes : Byte) (seen : W32) : Statement (.portTrainDone p lanes seen) := fun _ _ h => by cases h
theorem oclFrameReceive (g : Fin 12) (f : OclSeen) : Statement (.oclFrameReceive g f) := fun _ _ h => by cases h
theorem oclFrameSend (g : Fin 12) : Statement (.oclFrameSend g) := fun _ _ h => by cases h
theorem cageLinkLost (g : Fin 12) : Statement (.cageLinkLost g) := fun _ _ h => by cases h
theorem ringLoopTick (g : Fin 12) : Statement (.ringLoopTick g) := fun _ _ h => by cases h
theorem toneCheck (g : Fin 12) (ring : Fin 27) (r : ToneReading) : Statement (.toneCheck g ring r) := fun _ _ h => by cases h
theorem ringSearchDone (g : Fin 12) (ring : Fin 27) (w : RingSweep) : Statement (.ringSearchDone g ring w) := fun _ _ h => by cases h
theorem cageEnable (g : Fin 12) (v : Bool) : Statement (.cageEnable g v) := fun _ _ h => by cases h
theorem cageBringupSearched (g : Fin 12) (rings spare : List RingSweep) (decouple : List (List W16)) : Statement (.cageBringupSearched g rings spare decouple) := fun _ _ h => by cases h
theorem ringLockAcquire (g : Fin 12) (ring : Fin 27) (code : BitVec 14) (r : ToneReading) : Statement (.ringLockAcquire g ring code r) := fun _ _ h => by cases h
theorem laserFadeCheck (g : Fin 12) (laser : Fin 9) (rel : W16) : Statement (.laserFadeCheck g laser rel) := fun _ _ h => by cases h
theorem spareLocked (g : Fin 12) (x : LockFound) : Statement (.spareLocked g x) := fun _ _ h => by cases h
theorem swapNotice (p : Fin 24) (lane : Fin 8) : Statement (.swapNotice p lane) := fun _ _ h => by cases h
theorem swapAck (g : Fin 12) : Statement (.swapAck g) := fun _ _ h => by cases h
theorem swapMaskExpire (p : Fin 24) (lane : Fin 8) : Statement (.swapMaskExpire p lane) := fun _ _ h => by cases h
theorem cageHoldOpen (g : Fin 12) (v : Bool) : Statement (.cageHoldOpen g v) := fun _ _ h => by cases h
theorem bypassFault (g : Fin 12) : Statement (.bypassFault g) := fun _ _ h => by cases h
theorem collEntryValidate (entry : Fin 256) (core : BitVec 5) (desc : BitVec 12) : Statement (.collEntryValidate entry core desc) := fun _ _ h => by cases h
theorem riskTick (decay : List Nat) : Statement (.riskTick decay) := fun _ _ h => by cases h
theorem twinPairing (haddr : BitVec 13) (side : BitVec 1) (feed : BitVec 3) : Statement (.twinPairing haddr side feed) := fun _ _ h => by cases h
theorem twinHeartbeat : Statement (.twinHeartbeat) := fun _ _ h => by cases h
theorem twinHeartbeatTimeout : Statement (.twinHeartbeatTimeout) := fun _ _ h => by cases h
theorem farrierLaneRepair (p : Fin 24) (lane : Fin 8) (r : RepairResult) : Statement (.farrierLaneRepair p lane r) := fun _ _ h => by cases h
theorem shadowStream : Statement (.shadowStream) := fun _ _ h => by cases h
theorem shadowAck (slot : Fin 2) (step : W64) : Statement (.shadowAck slot step) := fun _ _ h => by cases h
theorem storageCkptDone : Statement (.storageCkptDone) := fun _ _ h => by cases h
theorem storageReadData (index : Nat) (data : List Byte) : Statement (.storageReadData index data) := fun _ _ h => by cases h
theorem storageReadTimeout (tag : BitVec 5) : Statement (.storageReadTimeout tag) := fun _ _ h => by cases h
theorem restartReport (rank : Nat) (code : W16) : Statement (.restartReport rank code) := fun _ _ h => by cases h
theorem paddockStop (code : W16) : Statement (.paddockStop code) := fun _ _ h => by cases h
theorem restart (tag : W16) (r : RestartRead) : Statement (.restart tag r) := fun _ _ h => by cases h
theorem powerOnReset : Statement (.powerOnReset) := fun _ _ h => by cases h
theorem vinUndervoltageReset : Statement (.vinUndervoltageReset) := fun _ _ h => by cases h
theorem railFault : Statement (.railFault) := fun _ _ h => by cases h
theorem rstInNReset : Statement (.rstInNReset) := fun _ _ h => by cases h
theorem hostReset (key : Byte) : Statement (.hostReset key) := fun _ _ h => by cases h
theorem watchdogReset : Statement (.watchdogReset) := fun _ _ h => by cases h
theorem thermalTrip (cause : TripCause) : Statement (.thermalTrip cause) := fun _ _ h => by cases h
theorem twinRecover : Statement (.twinRecover) := fun _ _ h => by cases h
theorem trimLoadDone (segments : List (List Byte × W32)) (digest : List Byte) : Statement (.trimLoadDone segments digest) := fun _ _ h => by cases h
theorem rstOutRelease : Statement (.rstOutRelease) := fun _ _ h => by cases h
theorem strapLatch (s : Straps) : Statement (.strapLatch s) := fun _ _ h => by cases h
theorem islandRelease (i : Fin 64) : Statement (.islandRelease i) := fun _ _ h => by cases h
theorem bootImageFetched (img : Option SignedImage) : Statement (.bootImageFetched img) := fun _ _ h => by cases h
theorem clockLost (i : Fin 64) : Statement (.clockLost i) := fun _ _ h => by cases h
theorem blockReset (kind : BitVec 3) (index : BitVec 5) (w : Writer) : Statement (.blockReset kind index w) := fun _ _ h => by cases h
theorem blockIdle : Statement (.blockIdle) := fun _ _ h => by cases h
theorem blockIdleTimeout : Statement (.blockIdleTimeout) := fun _ _ h => by cases h
theorem secSeal : Statement (.secSeal) := fun _ _ h => by cases h
theorem sealTimeout : Statement (.sealTimeout) := fun _ _ h => by cases h
theorem mailboxGo : Statement (.mailboxGo) := fun _ _ h => by cases h
theorem attest (tag : W16) (nonce : List Byte) (addr : W64) : Statement (.attest tag nonce addr) := fun _ _ h => by cases h
theorem tackSet (tag : W16) (t : BitVec 2) : Statement (.tackSet tag t) := fun _ _ h => by cases h
theorem tackTargetWrite (t : BitVec 2) : Statement (.tackTargetWrite t) := fun _ _ h => by cases h
theorem tackIslandSwitch (i : Fin 64) : Statement (.tackIslandSwitch i) := fun _ _ h => by cases h
theorem tackChangeDone : Statement (.tackChangeDone) := fun _ _ h => by cases h
theorem powerCapTick (avg1ms avg10us : W16) : Statement (.powerCapTick avg1ms avg10us) := fun _ _ h => by cases h
theorem powerLimitFail : Statement (.powerLimitFail) := fun _ _ h => by cases h
theorem dieHot (d : Fin 8) (temp : Byte) : Statement (.dieHot d temp) := fun _ _ h => by cases h
theorem dieTempPeakClr (d : Fin 8) : Statement (.dieTempPeakClr d) := fun _ _ h => by cases h
theorem pcieReset : Statement (.pcieReset) := fun _ _ h => by cases h
theorem cmdDoorbell (tail : BitVec 13) : Statement (.cmdDoorbell tail) := fun _ _ h => by cases h
theorem cmdAccept (entry : List Byte) : Statement (.cmdAccept entry) := fun _ _ h => by cases h
theorem registerWrite (bar : Bar) (off : Nat) (value : W32) (w : Writer) : Statement (.registerWrite bar off value w) := fun _ _ h => by cases h
theorem copyLastByteRead (c : Fin 32) (barrow : Fin 4) : Statement (.copyLastByteRead c barrow) := fun _ _ h => by cases h
theorem cutStateRead (k : Fin 8) : Statement (.cutStateRead k) := fun _ _ h => by cases h
theorem groupReportedReady (g : GroupReport) : Statement (.groupReportedReady g) := fun _ _ h => by cases h
theorem laneReacquire (p : Fin 24) (lane : Fin 8) : Statement (.laneReacquire p lane) := fun _ _ h => by cases h
theorem heaterCodesTimeout (g : Fin 12) : Statement (.heaterCodesTimeout g) := fun _ _ h => by cases h
theorem dieHotClear (d : Fin 8) (temp : Byte) : Statement (.dieHotClear d temp) := fun _ _ h => by cases h
theorem thermalTripClear (dies hbms : List Byte) : Statement (.thermalTripClear dies hbms) := fun _ _ h => by cases h
theorem registerRead (bar : Bar) (off : Nat) : Statement (.registerRead bar off) := fun _ _ h => by cases h

end Sys2Proof.Laws.Shape
end

