-- ==== Sys2Proof/Tests/Slice0.lean ====
section
/-!
SUPPORT. Tests: ill-formed commands that the checks refuse, words and numbers worked out from the spec,
and, for every statement with hypotheses, states and operands that meet them, clause by clause.
-/
namespace Sys2Proof.Tests
open Sys2Proof.Machine

set_option Elab.async false

/-! ### Helpers -/

/-- The state after reset with core 0 changed. -/
def onCore (f : Core → Core) : State := coreSet 0 (f coreReset) State.reset

/-- The header that names no counter. -/
def hdr0 : Hdr := ⟨0, 0, 0, 0⟩

/-- A context of core 0 at index 0, running, with one control instruction there and a change of the core. -/
def ctlS (x : Ctx) (op : BitVec 4) (f : CtlF) (g : Core → Core) : State :=
  rfSet (oCore 0 + 0x060) (runBit x) 1 1 (onCore (fun c =>
    let c := { c with iram := [(0, encodeNative ⟨hdr0, .ctl op f⟩)] }
    g (c.setCtx x { c.ctx x with active := true })))

/-- `CtlAt` as a check. -/
def ctlAtB (s : State) (x : Ctx) (op : Nat) (f : CtlF) : Bool :=
  ctxStands s 0 x && !coreAsked s 0 && ctxMayRun s 0 x && opOf (ctxWord (coreOf s 0) x) == op && waitOf (coreOf s 0) (ctxWord (coreOf s 0) x) == .ok &&
    (match decodeNative .ostler (ctxWord (coreOf s 0) x) with
     | .ok i => (match i.body with | .ctl _ g => g == f | _ => false)
     | .error _ => false)

/-- The check implies `CtlAt`. -/
theorem ctlAt_of {s : State} {x : Ctx} {op : Nat} {f : CtlF} (h : ctlAtB s x op f = true) : CtlAt s 0 x op f := by
  simp only [ctlAtB, Bool.and_eq_true, beq_iff_eq, Bool.not_eq_true'] at h
  obtain ⟨⟨⟨⟨⟨h1, ha⟩, hm⟩, h2⟩, h3⟩, h4⟩ := h
  refine ⟨h1, ha, hm, h2, ?_, h3⟩
  split at h4
  · rename_i i hi
    split at h4
    · rename_i k g hg
      exact ⟨i, k, hi, by rw [hg, eq_of_beq h4]⟩
    · cases h4
  · cases h4

/-- Queue F of a running core 0 with the instructions listed, the first of serial number 0. -/
def qS (l : List Ent) (g : Core → Core) : State :=
  rfSet (oCore 0 + 0x004) 0 1 1 (onCore (fun c => g (c.setQueue .F { c.qF with live := l, next := l.length })))

/-- An unissued instruction. -/
def entW (sn : Nat) (b : NI) : Ent := ⟨sn, encodeNative ⟨hdr0, b⟩, .waiting, [], []⟩

/-- An instruction in flight. -/
def entI (sn : Nat) (b : NI) : Ent := ⟨sn, encodeNative ⟨hdr0, b⟩, .issued, [], []⟩

/-- Zero bytes. -/
def zeros (n : Nat) : List Byte := List.replicate n 0

theorem zeros_length (n : Nat) : (zeros n).length = n := List.length_replicate

theorem leBytes_length (n v : Nat) : (leBytes n v).length = n := by
  induction n generalizing v with
  | zero => rfl
  | succ n ih => simp [leBytes, ih]

theorem leNat_leBytes (n v : Nat) : leNat (leBytes n v) = v % 256 ^ n := by
  induction n generalizing v with
  | zero => simp [leBytes, leNat, Nat.mod_one]
  | succ n ih =>
    rw [leBytes, leNat, ih, BitVec.toNat_ofNat, show 256 ^ (n + 1) = 256 * 256 ^ n by rw [Nat.pow_succ, Nat.mul_comm],
      Nat.mod_mul]

theorem leNat_zeros (n : Nat) : leNat (zeros n) = 0 := by
  unfold zeros
  induction n with
  | zero => rfl
  | succ n ih => rw [List.replicate_succ, leNat, ih]; rfl

/-! ### Statements about contexts and queues -/

/-- A control instruction of core 0 that stands ready to run, whose signal fits. -/
def CtlReady (s : State) (x : Ctx) (op : Nat) (f : CtlF) : Prop :=
  CtlAt s 0 x op f ∧
    signalFits (waitCore (coreOf s 0) (ctxWord (coreOf s 0) x)) (ctxWord (coreOf s 0) x)

theorem ctlReady_of {s : State} {x : Ctx} {op : Nat} {f : CtlF}
    (h : (ctlAtB s x op f && (hdrOf (ctxWord (coreOf s 0) x)).samt == 0) = true) : CtlReady s x op f := by
  rw [Bool.and_eq_true, beq_iff_eq] at h
  exact ⟨ctlAt_of h.1, Or.inl h.2⟩

theorem wit_scalar_instructions : ∀ p ∈ ([(1, ⟨1, 0, 0, 0, 0, 7⟩), (2, ⟨1, 2, 0, 0, 1, 5⟩), (3, ⟨0, 1, 2, 1, 0, 9⟩),
    (4, ⟨1, 0, 0, 0, 0, 9⟩)] : List (BitVec 4 × CtlF)),
    CtlReady (ctlS .primary p.1 p.2 id) .primary (0x80 + p.1.toNat) p.2 := by
  intro p hp
  simp only [List.mem_cons, List.not_mem_nil, or_false] at hp
  rcases hp with rfl | rfl | rfl | rfl <;> exact ctlReady_of (by decide +kernel)

/-- A core with summary 5 posted in slot 3. -/
def slotC (c : Core) : Core := { c with slots := [(3, some 5)] }

/-- DSET of word 2 of descriptor 7 from s1. -/
def dsetF : CtlF := ⟨0, 0, 1, 2, 7, 0⟩

/-- A core in which an instruction in flight uses descriptor 7. -/
def useC (c : Core) : Core := c.setQueue .F { c.qF with live := [⟨0, 0, .issued, [], [7]⟩], next := 1 }

theorem wit_descriptor_instructions :
    (CtlReady (ctlS .primary 5 ⟨1, 0, 0, 0, 3, 0⟩ slotC) .primary 0x85 ⟨1, 0, 0, 0, 3, 0⟩ ∧
      tabGet none (coreOf (ctlS .primary 5 ⟨1, 0, 0, 0, 3, 0⟩ slotC) 0).slots 3 = some 5) ∧
    CtlReady (ctlS .filler 8 ⟨1, 0, 0, 15, 4095, 0⟩ id) .filler 0x88 ⟨1, 0, 0, 15, 4095, 0⟩ ∧
    (CtlReady (ctlS .primary 9 dsetF id) .primary 0x89 dsetF ∧ descInUse (ctlS .primary 9 dsetF id) 0 7 = false) ∧
    (CtlReady (ctlS .primary 9 dsetF useC) .primary 0x89 dsetF ∧ descInUse (ctlS .primary 9 dsetF useC) 0 7 = true) :=
  ⟨⟨ctlReady_of (by decide +kernel), by decide +kernel⟩, ctlReady_of (by decide +kernel),
    ⟨ctlReady_of (by decide +kernel), by decide +kernel⟩, ctlReady_of (by decide +kernel), by decide +kernel⟩

/-- A context whose DSET waits for its descriptor, which nothing uses any more. -/
def dsetS : State := ctlS .primary 9 dsetF (fun c => c.setCtx .primary { c.ctxP with dset := true })

theorem wit_dset_goes_on : ((coreOf dsetS 0).ctx .primary).dset = true ∧ ctxRun dsetS 0 .primary = true ∧
    ctxMayRun dsetS 0 .primary = true ∧ bodyOf (ctxWord (coreOf dsetS 0) .primary) = .ctl 0x9 dsetF ∧
    dsetF.x.toNat < 4096 ∧ descInUse dsetS 0 dsetF.x.toNat = false ∧
    (hdrOf (ctxWord (coreOf dsetS 0) .primary)).samt = 0 := by decide +kernel

/-- SLD or SST of the last eight bytes of the Manger. -/
def lastF (rd rb : BitVec 5) : CtlF := ⟨rd, 0, rb, 0, 0, BitVec.ofNat 48 (mangerSize - 8)⟩

theorem wit_scalar_memory_instructions :
    CtlReady (ctlS .primary 6 (lastF 1 0) id) .primary 0x86 (lastF 1 0) ∧
    CtlReady (ctlS .primary 7 (lastF 0 1) id) .primary 0x87 (lastF 0 1) ∧
    ((lastF 1 0).imm.signExtend 64).toNat % 8 = 0 ∧ ((lastF 1 0).imm.signExtend 64).toNat + 8 ≤ mangerSize ∧
    ReadsWell (ctlS .primary 6 (lastF 1 0) id) (mangerBase 0 + ((lastF 1 0).imm.signExtend 64).toNat) 8 :=
  ⟨ctlReady_of (by decide +kernel), ctlReady_of (by decide +kernel), by decide +kernel, by decide +kernel,
    by unfold ReadsWell; decide +kernel⟩

/-- A SYNC word. -/
def syncW : W128 := encodeNative ⟨hdr0, .sync⟩

/-- An ENQ of one instruction into F, from Manger offset 0, which holds a SYNC; `g` changes the core. -/
def enqS (x : Ctx) (f : CtlF) (g : Core → Core) : State :=
  memWrite (mangerBase 0) (leBytes 16 syncW.toNat) (ctlS x 0 f g)

/-- The fields of an ENQ of one instruction: queue code and header target. -/
def enqF (q : BitVec 4) : CtlF := ⟨0, 0, 0, q, 0, 0⟩

/-- The premises of an enqueue: the instruction, its queue, its block and its checks. -/
def EnqReady (s : State) (x : Ctx) (f : CtlF) : Prop :=
  CtlReady s x 0x80 f ∧ enqRefused s 0 x (enqQueue f) = false ∧
    ReadsWell s (mangerBase 0) (16 * enqCount f) ∧
    blockCheckN (x = .filler) (occLimit s 0) ((coreOf s 0).ctx x).chainOcc (blockWords s 0 0 (enqCount f)) = .ok 0

theorem wit_enqueue_fits : EnqReady (enqS .primary (enqF 0) id) .primary (enqF 0) ∧
    (blockWords (enqS .primary (enqF 0) id) 0 0 1).length ≤ qRoom (enqS .primary (enqF 0) id) 0 .F :=
  ⟨⟨ctlReady_of (by decide +kernel), by decide +kernel, by unfold ReadsWell; decide +kernel, by decide +kernel⟩,
    by decide +kernel⟩

theorem wit_enqueue_filler : EnqReady (enqS .filler (enqF 3) id) .filler (enqF 3) :=
  ⟨ctlReady_of (by decide +kernel), by decide +kernel, by unfold ReadsWell; decide +kernel, by decide +kernel⟩

/-- Queue X with no room. -/
def fullX (c : Core) : Core :=
  c.setQueue .X { c.qX with live := List.replicate 256 ⟨0, syncW, .waiting, [], []⟩, next := 256 }

theorem wit_enqueue_waits : EnqReady (enqS .filler (enqF 3) fullX) .filler (enqF 3) ∧
    qRoom (enqS .filler (enqF 3) fullX) 0 .X < 1 :=
  ⟨⟨ctlReady_of (by decide +kernel), by decide +kernel, by unfold ReadsWell; decide +kernel, by decide +kernel⟩,
    by decide +kernel⟩

/-- A context whose enqueue waits, in a core changed by `g`. -/
def enqWaitS (g : Core → Core) : State :=
  ctlS .primary 0 (enqF 0) (fun c => g (c.setCtx .primary { c.ctxP with enq := some ⟨.F, [syncW], 0, 0⟩ }))

/-- Queue F with no room. -/
def fullF (c : Core) : Core :=
  c.setQueue .F { c.qF with live := List.replicate (qCap .F) ⟨0, syncW, .waiting, [], []⟩, next := qCap .F }

theorem wit_enqueue_completes : (∀ g ∈ [id, fullF], ((coreOf (enqWaitS g) 0).ctx .primary).enq = some ⟨.F, [syncW], 0, 0⟩ ∧
      ctxMayRun (enqWaitS g) 0 .primary = true) ∧
    1 ≤ qRoom (enqWaitS id) 0 .F ∧ (hdrOf (ctxWord (coreOf (enqWaitS id) 0) .primary)).samt = 0 ∧
    qRoom (enqWaitS fullF) 0 .F < 1 := by
  refine ⟨?_, by decide +kernel, by decide +kernel, by decide +kernel⟩
  intro g hg
  simp only [List.mem_cons, List.not_mem_nil, or_false] at hg
  rcases hg with rfl | rfl <;> exact ⟨by decide +kernel, by decide +kernel⟩

theorem wit_enqueue_refused :
    (CtlAt (ctlS .primary 0 (enqF 3) id) 0 .primary 0x80 (enqF 3) ∧ enqQueue (enqF 3) = .X) ∧
    (CtlAt (ctlS .filler 0 (enqF 0) id) 0 .filler 0x80 (enqF 0) ∧ enqQueue (enqF 0) = .F) ∧
    CtlAt (ctlS .primary 0 (enqF 2) id) 0 .primary 0x80 (enqF 2) ∧ enqQueue (enqF 2) = .W ∧
      rf (ctlS .primary 0 (enqF 2) id) (oCore 0 + 0x004) 1 1 = 0 :=
  ⟨⟨ctlAt_of (by decide +kernel), rfl⟩, ⟨ctlAt_of (by decide +kernel), rfl⟩, ctlAt_of (by decide +kernel), rfl,
    by decide +kernel⟩

theorem wit_bar_and_stop :
    CtlAt (ctlS .primary 0xA ⟨0, 0, 0, 2, 0, 0⟩ id) 0 .primary 0x8A ⟨0, 0, 0, 2, 0, 0⟩ ∧
    (CtlReady (ctlS .filler 0xA ⟨0, 0, 0, 0, 0, 0⟩ id) .filler 0x8A ⟨0, 0, 0, 0, 0, 0⟩ ∧
      coreIdle (coreOf (ctlS .filler 0xA ⟨0, 0, 0, 0, 0, 0⟩ id) 0) = true) ∧
    CtlReady (ctlS .primary 0xB ⟨0, 0, 0, 0, 0, 0⟩ id) .primary 0x8B ⟨0, 0, 0, 0, 0, 0⟩ :=
  ⟨ctlAt_of (by decide +kernel), ⟨ctlReady_of (by decide +kernel), by decide +kernel⟩,
    ctlReady_of (by decide +kernel)⟩

/-- A BAR of a kind that waits for its realignment, with counter 4 marked, above its rest value by `up`. -/
def barS (kind : BitVec 4) (up : BitVec 12) : State :=
  regSet (oCore 0 + 0x1_0410) 0x10 (ctlS .primary 0xA ⟨0, 0, 0, kind, 0, 0⟩ (fun c =>
    (c.setCtr 4 ⟨2 + up, 2, none⟩).setCtx .primary { c.ctxP with bar := some .waiting }))

theorem wit_bar_realign : ∀ p ∈ ([(0, 0), (1, 3), (2, 3)] : List (BitVec 4 × BitVec 12)),
    (coreOf (barS p.1 p.2) 0).ctxP.bar = some .waiting ∧ coreIdle (coreOf (barS p.1 p.2) 0) = true ∧
    bodyOf (ctxWord (coreOf (barS p.1 p.2) 0) .primary) = .ctl 0xA ⟨0, 0, 0, p.1, 0, 0⟩ ∧
    rf (barS p.1 p.2) (oCore 0 + 0x1_0410) 4 1 = 1 ∧ (coreOf (barS p.1 p.2) 0).sync = [(4, ⟨2 + p.2, 2, none⟩)] ∧
    (coreOf (barS p.1 p.2) 1).ctxP.bar ≠ some .step := by
  intro p hp
  simp only [List.mem_cons, List.not_mem_nil, or_false] at hp
  rcases hp with rfl | rfl | rfl <;>
    exact ⟨by decide +kernel, by decide +kernel, by decide +kernel, by decide +kernel, by decide +kernel,
      by decide +kernel⟩

/-- The premise of a realignment on every counter: none stands below its rest value, and for kind 0 none above. -/
theorem wit_bar_realign_counters (c : Core) (up : BitVec 12) (hu : up = 0 ∨ up = 3)
    (h : c.sync = [(4, ⟨2 + up, 2, none⟩)]) :
    ∀ i, (c.ctr i).r.toNat ≤ (c.ctr i).c.toNat ∧ (up = 0 → (c.ctr i).c = (c.ctr i).r) := by
  intro i
  simp only [Core.ctr, h, tabGet]
  split <;> rcases hu with rfl | rfl <;> decide

/-- A local COPY of one grain within the Manger, from offset 0 to offset 1,024, by any Barrow. -/
def copyF : CopyF := ⟨0, 1, 0, 0, 0, 0, 0, 16, 1⟩

/-- An instruction that stands first and alone in queue F and issues now. -/
def IssuesAlone (b : NI) (op : Nat) (s : State) : Prop :=
  IssueAt s 0 .F 0 op (entW 0 b) ∧ Stands (coreOf s 0) .F [] (entW 0 b) [] ∧
    bodyOf (entW 0 b).word = b ∧ (hdrOf (entW 0 b).word).samt = 0

/-- An instruction that an older one in flight stands before, at a place in the window. -/
def IssuesBehind (b : NI) (op : Nat) (s : State) : Prop :=
  IssueAt s 0 .F 0 op (entW 1 b) ∧ Stands (coreOf s 0) .F [entI 0 (.copy copyF)] (entW 1 b) [] ∧
    bodyOf (entW 1 b).word = b

/-- Counter 0 of every kind is armed. -/
def armC (c : Core) : Core := (c.setCc 5 ⟨9, none, false⟩).setCtr 0 ⟨0, 0, none⟩

theorem stands_alone {c : Core} {q : Q} {e : Ent} (h : (c.queue q).live = [e]) : Stands c q [] e [] :=
  ⟨h, by simp, by simp, by simp⟩

theorem stands_behind {c : Core} {q : Q} {a e : Ent} (h : (c.queue q).live = [a, e]) (hn : a.sn ≠ e.sn)
    (hd : a.st ≠ .done) : Stands c q [a] e [] :=
  ⟨h, by simpa using hn, by simpa using hd, by simp⟩

/-- What is left to decide of an instruction that issues alone. -/
theorem alone_of {b : NI} {op : Nat} {s : State} (h : candidate s 0 .F 0 op = some (entW 0 b) ∧
    waitOf (coreOf s 0) (entW 0 b).word = .ok ∧ ((coreOf s 0).queue .F).live = [entW 0 b] ∧
    bodyOf (entW 0 b).word = b ∧ (hdrOf (entW 0 b).word).samt = 0) : IssuesAlone b op s :=
  ⟨⟨h.1, h.2.1⟩, stands_alone h.2.2.1, h.2.2.2⟩

/-- What is left to decide of one that issues behind another. -/
theorem behind_of {b : NI} {op : Nat} {s : State} (h : candidate s 0 .F 0 op = some (entW 1 b) ∧
    waitOf (coreOf s 0) (entW 1 b).word = .ok ∧ ((coreOf s 0).queue .F).live = [entI 0 (.copy copyF), entW 1 b] ∧
    bodyOf (entW 1 b).word = b) : IssuesBehind b op s :=
  ⟨⟨h.1, h.2.1⟩, stands_behind h.2.2.1 (Nat.zero_ne_one) (fun h => EntSt.noConfusion h), h.2.2.2⟩

theorem wit_sync_instructions :
    IssuesAlone .sync 1 (qS [entW 0 .sync] armC) ∧
    (IssuesAlone (.cwait 5 9) 2 (qS [entW 0 (.cwait 5 9)] armC) ∧ countOf (qS [entW 0 (.cwait 5 9)] armC) 0 5 = ⟨9, none, false⟩) ∧
    (IssuesAlone (.creset 5) 3 (qS [entW 0 (.creset 5)] armC) ∧ countHeld (qS [entW 0 (.creset 5)] armC) 0 5 = false) ∧
    (IssuesAlone (.carm 7 4095) 4 (qS [entW 0 (.carm 7 4095)] armC) ∧
      counterHeld (qS [entW 0 (.carm 7 4095)] armC) 0 7 = false) ∧
    (∀ p ∈ ([(.sync, 1), (.cwait 5 9, 2), (.creset 5, 3), (.carm 7 4095, 4)] : List (NI × Nat)),
      IssuesBehind p.1 p.2 (qS [entI 0 (.copy copyF), entW 1 p.1] armC)) := by
  refine ⟨alone_of (by decide +kernel), ⟨alone_of (by decide +kernel), by decide +kernel⟩,
    ⟨alone_of (by decide +kernel), by decide +kernel⟩, ⟨alone_of (by decide +kernel), by decide +kernel⟩, ?_⟩
  intro p hp
  simp only [List.mem_cons, List.not_mem_nil, or_false] at hp
  rcases hp with rfl | rfl | rfl | rfl <;> exact behind_of (by decide +kernel)

/-- A SYNC that waits on counter 3, which is poisoned after reset. -/
def waitE : Ent := ⟨0, encodeNative ⟨⟨3, 1, 0, 0⟩, .sync⟩, .waiting, [], []⟩

theorem wit_poisoned_wait : candidate (qS [waitE] id) 0 .F 0 1 = some waitE ∧
    waitOf (coreOf (qS [waitE] id) 0) waitE.word = .poisoned .report := by decide +kernel

/-- A valid descriptor of one BF16 or AX16 block in linear layout at HBM address `base`, with metadata at `md`. -/
def descG (fmt base md : Nat) : Dsc :=
  BitVec.ofNat 512 (base + fmt * 2 ^ 48 + 1 * 2 ^ 52 + 1 * 2 ^ 55 + md * 2 ^ 64 + 0x1000 * 2 ^ 112 +
    1 * 2 ^ 128 + 1 * 2 ^ 144)

/-- A copy from the one block of descriptor 1, and one to it. -/
def fromF : CopyF := { copyF with srck := 1, src := BitVec.ofNat 32 (2 ^ 20) }
def toF (op : BitVec 3) (len : W16) : CopyF := { copyF with op := op, dstk := 1, dst := BitVec.ofNat 36 (2 ^ 24), len := len }

/-- A copy of one grain to block 0 of descriptor 1 of rank 0, and one to the row scales of stall 7. -/
def remF : CopyF := { copyF with dstk := 2, dst := BitVec.ofNat 36 (2 ^ 11) }
def scaF : CopyF := { copyF with dstk := 3, dst := 14 }

/-- Descriptor 1 of core 0: a BF16 block, checksummed or not, whose CCOUNT is count 7 of the core. -/
def descT (csum : Nat) : Dsc := dSet (dSet (descG 4 0 0x8_0000_0000) 54 1 csum) 112 16 7

/-- Core 0 with that descriptor and count 7 armed. -/
def withD (csum : Nat) (c : Core) : Core := (c.setDsc 1 (descT csum)).setCc 7 ⟨0, none, false⟩

/-- The copy as Barrow 0 holds it. -/
def heldCopy (f : CopyF) (fetched read : Bool) (data : List Byte) (d : Dsc) : Copy :=
  ⟨.F, 0, 0, f, d, fetched, data, ⟨false, 8192, 0, []⟩, false, false, d, read⟩

/-- Core 0 with it. -/
def copyC (x : Copy) (c : Core) : Core := { c with barrows := [(0, [x])] }

/-- Stack 1 at HALT. -/
def haltS (s : State) : State := rfSet (oHbm 1 + 0x008) 3 2 3 s

/-- This device alone, with a route to itself. -/
def aloneS (s : State) : State :=
  rfSet (oCommon + 8) 0 14 1 { s with fab := { s.fab with map := [(0, 0x80000000)], rt := [(24 * 16384, 0x81000000)] } }

/-- A copy that a free Barrow is granted to. -/
def CopyIssues (s : State) (f : CopyF) : Prop :=
  IssueAt s 0 .F 0 0x10 (entW 0 (.copy f)) ∧ bodyOf (entW 0 (.copy f)).word = .copy f ∧
    barrowFor (coreOf s 0) f = some 0 ∧ granted s 0 .F (.barrow 0) = true ∧
    locksFree (coreOf s 0) .F 0 (.copy f) = true ∧ copyCheck s 0 f = none

theorem wit_copy_issues :
    (CopyIssues (qS [entW 0 (.copy copyF)] id) copyF ∧ SourceWell (qS [entW 0 (.copy copyF)] id) 0 copyF) ∧
    (CopyIssues (qS [entW 0 (.copy fromF)] (withD 0)) fromF ∧ SourceWell (qS [entW 0 (.copy fromF)] (withD 0)) 0 fromF ∧
      srcTouches (atHalt (qS [entW 0 (.copy fromF)] (withD 0))) (descT 0) fromF = false) ∧
    (CopyIssues (aloneS (qS [entW 0 (.copy remF)] id)) remF ∧ SourceWell (aloneS (qS [entW 0 (.copy remF)] id)) 0 remF) ∧
    (CopyIssues (haltS (qS [entW 0 (.copy fromF)] (withD 0))) fromF ∧
      srcTouches (atHalt (haltS (qS [entW 0 (.copy fromF)] (withD 0)))) (descT 0) fromF = true) := by
  unfold CopyIssues SourceWell ReadsWell IssueAt; decide +kernel

theorem wit_copy_goes_on :
    (∀ b : Bool, [heldCopy fromF b false [] (descT 0)].find? (fun y => !y.readDone) = some (heldCopy fromF b false [] (descT 0))) ∧
    tabGet [] (coreOf (qS [entI 0 (.copy fromF)] (fun c => withD 0 (copyC (heldCopy fromF false false [] (descT 0)) c))) 0).barrows 0
      = [heldCopy fromF false false [] (descT 0)] ∧
    (let s := haltS (qS [entI 0 (.copy fromF)] (withD 0)); srcTouches (atHalt s) (descT 0) fromF = true) ∧
    (let s := qS [entI 0 (.copy fromF)] (withD 0)
     srcTouches (atHalt s) (descT 0) fromF = false ∧ srcTouches (inTest s) (descT 0) fromF = false ∧
       (coreOf s 0).dsc fromF.sDesc = descT 0 ∧ SourceWell s 0 fromF) := by
  unfold SourceWell ReadsWell
  refine ⟨?_, by decide +kernel, by decide +kernel, by decide +kernel⟩
  intro b; cases b <;> rfl

/-- A remote copy whose flits have all been acknowledged. -/
theorem wit_copy_remote_completes :
    copyUnacked (qS [entI 0 (.copy remF)] (copyC (heldCopy remF true true [] descReset))) 0 .F 0 = false := by
  decide +kernel

/-- Core 0 with a copy that has been read, of `n` bytes. -/
def readS (f : CopyF) (csum n : Nat) : State :=
  qS [entI 0 (.copy f)] (fun c => withD csum (copyC (heldCopy f true true (List.replicate n 0) (descT csum)) c))

theorem wit_copy_delivers :
    (∀ op ∈ [0, 2], ReadsWell (readS { copyF with op := op } 0 256) (mangerBase 0 + copyF.dOff) 256) ∧
    dstTouches (atHalt (haltS State.reset)) (descT 0) (toF 0 128) = true ∧
    (∀ p ∈ ([(0, 128), (4, 128), (0, 1)] : List (BitVec 3 × W16)),
      let s := readS (toF p.1 p.2) 0 0
      dstTouches (atHalt s) (descT 0) (toF p.1 p.2) = false ∧ dstTouches (inTest s) (descT 0) (toF p.1 p.2) = false ∧
      ReadsWell s 0 (256 * p.2.toNat) ∧ ReadsWell s 0x8_0000_0000 8) ∧
    overlap 0 32768 0x8_0000_0000 8 = false ∧ blockBytes (dFMT (descT 0)) = 32768 ∧
    handleHolder (dCCOUNT (descT 0)) = 0 ∧ (coreOf (readS (toF 0 128) 0 0) 0).cc 7 = ⟨0, none, false⟩ ∧
    scaleBlockOk scaF.scCol (List.replicate 256 0) = true ∧ (List.replicate 32768 (0 : Byte)).length = (toF 0 128).bytes := by
  unfold ReadsWell
  refine ⟨by decide +kernel, by decide +kernel, ?_, by decide +kernel, by decide +kernel, by decide +kernel,
    by decide +kernel, by decide +kernel, by rw [List.length_replicate]; decide +kernel⟩
  intro p hp
  simp only [List.mem_cons, List.not_mem_nil, or_false] at hp
  rcases hp with rfl | rfl | rfl <;> exact ⟨by decide +kernel, by decide +kernel, by decide +kernel, by decide +kernel⟩

/-- A checksummed FP4 block, which memory at reset holds with the CHECK of its zeros. -/
def descC : Dsc := dSet (descG 0 0 0x8_0000_0000) 54 1 1

/-- Words with CHECK: its place, and the low bits, which do not depend on it. -/
theorem check_word (c : W32) : mCheck (metaWord 0 false false 0 c) = c ∧ metaLo (metaWord 0 false false 0 c) = 0 := by
  have h : (metaWord 0 false false 0 c).toNat = c.toNat * 2 ^ 32 := by
    have : c.toNat < 2 ^ 32 := c.isLt
    simp only [metaWord, BitVec.toNat_ofNat, b2n]
    simp
    omega
  refine ⟨?_, ?_⟩
  · apply BitVec.eq_of_toNat_eq
    rw [BitVec.extractLsb'_toNat, h, Nat.shiftRight_eq_div_pow, Nat.mul_div_cancel _ (by decide)]
    exact Nat.mod_eq_of_lt c.isLt
  · rw [metaLo, h, Nat.mul_mod_left]

/-- What is written is read. -/
theorem read_written (a : Nat) (l : List Byte) (s : State) : memRead (memWrite a l s) a l.length = l := by
  rw [memRead_eq]
  apply List.ext_getElem (by simp)
  intro i h1 h2
  simp only [List.getElem_map, List.getElem_range, memByte_write]
  rw [if_pos ⟨by omega, by omega⟩, Nat.add_sub_cancel_left, List.getD_eq_getElem?_getD, List.getElem?_eq_getElem h2]
  rfl

/-- The block is good with the CHECK of its bytes in its metadata word. -/
theorem wit_copy_combines_checked (s : State) : dCSUM descC = 1 ∧ blockBytes (dFMT descC) = 8192 ∧
    ∃ w : W64, let t := memWrite 0x8_0000_0000 (leBytes 8 w.toNat) s
      blockGood t descC 0 (blockData t descC 0) = true := by
  refine ⟨by decide +kernel, by decide +kernel, metaWord 0 false false 0 (checkOf (memRead s 0 8192) 0), ?_⟩
  have hd : dBASE descC = 0 := by decide +kernel
  have hm : dMETA descC = 0x8_0000_0000 := by decide +kernel
  have hb : blockBytes (dFMT descC) = 8192 := by decide +kernel
  generalize hc : checkOf (memRead s 0 8192) 0 = c
  have hw := check_word c
  generalize metaWord 0 false false 0 c = w at hw
  intro t
  have hr : metaRead t descC 0 = w := by
    have h := read_written 0x8_0000_0000 (leBytes 8 w.toNat) s
    rw [leBytes_length] at h
    simp only [metaRead, hm, Nat.mul_zero, Nat.add_zero, t, h, leNat_leBytes]
    apply BitVec.eq_of_toNat_eq
    have := w.isLt
    rw [BitVec.toNat_ofNat, Nat.mod_eq_of_lt (by omega), Nat.mod_eq_of_lt (by omega)]
  have hk : memRead t 0 8192 = memRead s 0 8192 := by
    rw [memRead_eq, memRead_eq]
    refine List.map_congr_left (fun i hi => ?_)
    have := List.mem_range.1 hi
    rw [memByte_write, if_neg (by omega)]
  simp only [blockGood, blockData, hr, hd, hb, Nat.zero_mul, Nat.zero_add, hk, hw.2, hw.1, hc, decide_true]

/-- A TMUL of one k-step of E4M3 by E4M3 into X64, SINGLE, on any stall. -/
def tmulF : TmulF := ⟨0, 1, 0, 0, 1, 1, 7, 0, 0, 2, 4, 1⟩

theorem wit_tmul_issues :
    IssueAt (qS [entW 0 (.tmul tmulF)] id) 0 .F 0 0x20 (entW 0 (.tmul tmulF)) ∧
    bodyOf (entW 0 (.tmul tmulF)).word = .tmul tmulF ∧
    tmulChainFault (chainView ((coreOf (qS [entW 0 (.tmul tmulF)] id) 0).queue .F) 0) tmulF = none ∧
    tmulStall (coreOf (qS [entW 0 (.tmul tmulF)] id) 0) .F 0 tmulF = some 0 ∧
    granted (qS [entW 0 (.tmul tmulF)] id) 0 .F (.stall 0) = true ∧
    locksFree (coreOf (qS [entW 0 (.tmul tmulF)] id) 0) .F 0 (.tmul tmulF) = true ∧ tmulRangeFault tmulF = none ∧
    ReadsWell (qS [entW 0 (.tmul tmulF)] id) (mangerBase 0 + opnd tmulF.a) 128 ∧
    ReadsWell (qS [entW 0 (.tmul tmulF)] id) (mangerBase 0 + opnd tmulF.b) 128 := by
  unfold IssueAt ReadsWell; decide +kernel

/-- A tile of that TMUL. -/
def tileT : Tile := ⟨.F, 0, tmulF, 1, [], [], []⟩

theorem wit_tmul_goes_on : (tileT.f.chain = 0) ∧ tagsMatch { stallReset with drains := [tileT] } tileT = true ∧
    (onCore (fun c => c.setStall 0 { stallReset with act := some tileT, busy := true })).cores ≠ [] := by
  decide +kernel

/-- A sealed state, with a host window over all of BAR0. -/
def sealS (s : State) : State := regSet (oSec + 0x040) 0xFFFF0000 (rfSet (oSec + 0x004) 1 1 1 s)

/-- The sealed state after reset. -/
def hostS : State := sealS State.reset

/-- A TRG that reads the Manger and keeps its result in chain latch c0. -/
def trgF (more : BitVec 1) : TrgF := ⟨0, 0, 7, if more = 1 then 1 else 0, more, 4, if more = 1 then 0 else 4, 0, 0, 0, 0, 0⟩

theorem wit_trough_joins :
    IssueAt (qS [entW 0 (.trg (trgF 0))] id) 0 .F 0 0x30 (entW 0 (.trg (trgF 0))) ∧
    bodyOf (entW 0 (.trg (trgF 0))).word = .trg (trgF 0) ∧
    troughFree (coreOf (qS [entW 0 (.trg (trgF 0))] id) 0) .F = true ∧
    granted (qS [entW 0 (.trg (trgF 0))] id) 0 .F .trough = true ∧
    olderTrg ((coreOf (qS [entW 0 (.trg (trgF 0))] id) 0).queue .F) 0 = false ∧
    xFirst (coreOf (qS [entW 0 (.trg (trgF 0))] id) 0) .F 0 = .go ∧
    trgChainFault .F (priorOf (coreOf (qS [entW 0 (.trg (trgF 0))] id) 0) .F) (trgF 0) = none ∧
    locksFree (coreOf (qS [entW 0 (.trg (trgF 0))] id) 0) .F 0 (.trg (trgF 0)) = true ∧
    trgCheck (coreOf (qS [entW 0 (.trg (trgF 0))] id) 0) (trgF 0) = none := by
  unfold IssueAt; decide +kernel

/-- A closed chain of that TRG. -/
def chainT (r : Option RedSet) : Chain := ⟨.F, [⟨0, trgF 0, 0⟩], true, r⟩

theorem wit_trough_chain :
    ([chainT none].find? (fun y => y.started.isNone) = some (chainT none)) ∧ chainReads (chainT none) = false ∧
    (chainT (some redReset)).members.all (fun y => tapsOf y.f == []) = true ∧
    chainFault (qS [entI 0 (.trg (trgF 0))] (fun c => { c with chains := [chainT (some redReset)] })) 0
      (chainT (some redReset)).members = none := by
  refine ⟨rfl, rfl, by decide +kernel, by decide +kernel⟩

/-- An RFLUSH that posts to slot 31. -/
def rflF : RflushF := ⟨0, 1, 1, 31⟩

theorem wit_rflush :
    (IssueAt (qS [entW 0 (.rflush rflF)] id) 0 .F 0 0x40 (entW 0 (.rflush rflF)) ∧
      bodyOf (entW 0 (.rflush rflF)).word = .rflush rflF ∧ granted (qS [entW 0 (.rflush rflF)] id) 0 .F .reduction = true ∧
      slotFree (coreOf (qS [entW 0 (.rflush rflF)] id) 0) 31 = true) ∧
    ([(⟨.F, 0, rflF⟩ : RflSt)].find? (fun y => decide (y.q = .F) && !olderLeft
      ((coreOf (qS [entI 0 (.rflush rflF)] (fun c => { c with rfl := [⟨.F, 0, rflF⟩] })) 0).queue .F) y.sn
      (fun w => isTap w || opOf w == 0x40)) = some ⟨.F, 0, rflF⟩) := by
  unfold IssueAt; decide +kernel

theorem wit_flushes : (∀ lo ∈ [8, 9, 10, 11], HostServed hostS (oCore 31 + 0x004) lo) ∧
    (∀ q ∈ [Q.F, Q.B, Q.W, Q.X], flushOk hostS 31 q = true) ∧
    flushOk (qS [] (fun c => c.setQueue .F { c.qF with mode := .halted })) 0 .F = true ∧
    ((coreOf (qS [entW 0 .sync] (fun c => c.setQueue .F { c.qF with mode := .flushing })) 0).queue .F).inflight = [] := by
  unfold HostServed; decide +kernel

theorem wit_core_run : (∀ o ∈ [oCore 31 + 0x004, oCore 31 + 0x060], HostServed hostS o 0) ∧
    HostServed hostS (oCore 31 + 0x060) 1 ∧
    (∀ v : Bool, restRefuses hostS false v = false) := by
  unfold HostServed; decide +kernel

theorem wit_context_stopped :
    ((onCore (fun c => c.setCtx .primary { c.ctxP with active := true })).cores ≠ []) ∧
    ((coreOf (onCore (fun c => c.setCtx .primary { c.ctxP with active := true })) 0).ctx .primary).active = true ∧
    ctxRun (onCore (fun c => c.setCtx .primary { c.ctxP with active := true })) 0 .primary = false ∧
    (∀ b ∈ [BarSt.waiting, .device, .step], ∀ x ∈ [Ctx.primary, .filler],
      ((coreOf (onCore (fun c => c.setCtx x { c.ctx x with active := true, bar := some b })) 0).ctx x).bar = some b ∧
      ctxRun (onCore (fun c => c.setCtx x { c.ctx x with active := true, bar := some b })) 0 x = false) ∧
    (∀ m, m < 32 → (coreOf (onCore (fun c => c.setCtx .primary { c.ctxP with active := true })) m).ctxP.bar
      ≠ some .device) := by decide +kernel

theorem wit_core_service : HostServed hostS (oCore 31 + 0x040) 31 ∧ HostServed hostS (oCore 31 + 0x8F00) 1 ∧
    HostServed hostS (oCore 31 + 0x1_0400) 31 ∧ coreRunAny hostS 31 = false := by
  unfold HostServed; decide +kernel

theorem wit_stream_hang : rf (qS [entW 0 .sync] id) (oCore 0 + 0x044) 0 20 ≠ 0 ∧
    qStateNum ((coreOf (qS [entW 0 .sync] id) 0).queue .F) = 1 ∧
    (∀ q ∈ [Q.F, Q.B, Q.W, Q.X], busyInflight (coreOf (qS [entW 0 .sync] id) 0) q = []) := by decide +kernel

/-- Every core stands joined to an epoch, with a word of zeros at its BAR. -/
def joinedS (b : BarSt) : State :=
  { State.reset with cores := (List.range 32).map (fun n => (n, coreReset.setCtx .primary { ctxReset with bar := some b })) }

theorem wit_epochs_close : allJoined (joinedS .device) .device = true ∧ allJoined (joinedS .step) .step = true ∧
    (joinedS .step).epoch.closed = none ∧
    (∀ n, n < 32 → (hdrOf (ctxWord (coreOf (joinedS .device) n) .primary)).samt = 0 ∧
      (hdrOf (ctxWord (coreOf (joinedS .step) n) .primary)).samt = 0) := by decide +kernel

/-- The coordinator of a paddock of two devices. -/
def pairS : State := rfSet (oCommon + 8) 0 14 2 State.reset

theorem wit_barrier_joins : ownRank pairS = 0 ∧ devices pairS = 2 ∧ 1 ∉ pairS.epoch.joined ∧
    (setAdd pairS.epoch.joined 1).length < 2 ∧ 2 ≤ (setAdd [0] 1).length ∧ epochBroken pairS = false ∧
    epochBroken { pairS with epoch := { epochReset with broken := true } } = true := by decide +kernel

theorem wit_step_commit : ({ epochReset with closed := some (true, true) } : Epoch).closed = some (true, true) ∧
    hitchCount { State.reset with epoch := { epochReset with closed := some (true, true) } } = 0 := by decide +kernel

/-- The entry of a command that a host has placed in the command ring, accepted, and begun (R454). -/
def entryT (c : Instr) : List Byte := (commandEntry c).getD []
def entryOf (op : Nat) (tag : W16) (l : List Byte) : List Byte := leBytes 2 op ++ leBytes 2 tag.toNat ++ leBytes 4 0 ++ l
def runs (l : List HostCmd) (s : State) : State := { s with host := { s.host with running := l } }
def accepted (e : List Byte) (s : State) : State := runs [⟨e, false, false⟩] s
def begun (e : List Byte) (s : State) : State := runs [⟨e, true, false⟩] s

theorem begins_of {op : Nat} {tag : W16} {args : List Byte → Bool} {e : List Byte} {s : State}
    (h : hostTurn op tag args (accepted e s) = some ⟨e, false, false⟩) :
    Begins op tag args (accepted e s) (begun e s) :=
  ⟨_, h, by simp [accepted, begun, runs]⟩

/-! ### Statements about hitches -/

/-- A state with a completion ring of 16 entries in service, in a paddock of two devices. -/
def ringS (s : State) : State := rfSet (oCommon + 8) 0 14 2 (reg2Set (oCpl + 8) 0x80000004 s)

/-- A route edit of the injection table, a lane add and a stream start. -/
def actE : Action := .routeEdit 0xFFFF 7 0x80000001
def actL : Action := .laneAdd 3 5

/-- A removal of a lane that is not in service, which is refused. -/
def actR : Action := .laneRemove 3 6

/-- The coordinator's record of hitch 9 of ranks 0 and 1. -/
def recC (st : HState) (votes acks : List Nat) : HitchC :=
  ⟨9, [0, 1], 100, [(0, actE)], st, 0, false, votes, acks, .host, none, []⟩

/-- A state, of rank 0 or 1, that holds the record, under a plan that was legal. -/
def coordS (r : Nat) (h : HitchC) : State :=
  let s := rfSet (oCommon + 4) 16 13 r (ringS State.reset)
  { s with hitch := ⟨[h], [], 10⟩, boot := { s.boot with planOk := true } }

/-- A participant's record of hitch 9. -/
def recP (st : PState) : HitchP := ⟨9, 0, 100, [actL, actE], st, [(33, 5)], [], false, []⟩

/-- A state that holds the record. -/
def partS (h : HitchP) : State := { coordS 1 (recC .done [] []) with hitch := ⟨[], [h], 0⟩ }

theorem wit_hitch_open_and_stage :
    let s := coordS 0 (recC .opened [] [])
    let o := entryOf 0x0001 3 (leBytes 8 0 ++ leBytes 2 2 ++ leBytes 2 100)
    let g (r : Nat) := entryT (.hitchStage 4 9 r actL)
    (Begins 0x0001 3 (fun e => decide (entryField e 16 2 = 2 ∧ entryField e 18 2 = 100)) (accepted o s) (begun o s) ∧
      CplReady (begun o s) 3 ∧ (∀ r ∈ [0, 1], r < devices (accepted o s)) ∧ hitchCount (accepted o s) < 4) ∧
    (∀ r ∈ [0, 1], Begins 0x0002 4 (fun e => decide (entryNum e = some 9 ∧ entryField e 10 2 = r ∧ entryAction e = some actL))
        (accepted (g r) s) (begun (g r) s) ∧ CplReady (begun (g r) s) 4) ∧
    coordOf (accepted (g 0) s) 9 = some (recC .opened [] []) ∧
    (∀ r ∈ [0, 1], ∀ x ∈ actsOf (recC .opened [] []) r, objOf x ≠ objOf actL) ∧ actionKind actL = true ∧
    ownRank (accepted (g 0) s) = 0 ∧ objTaken (accepted (g 0) s) (some 9) (objOf actL) = false ∧
    actionOk (accepted (g 0) s) (actsOf (recC .opened [] []) 0) (recC .opened [] []).acts false actL = true := by
  refine ⟨⟨begins_of (by decide +kernel), by unfold CplReady; decide +kernel, by decide +kernel, by decide +kernel⟩, ?_,
    by decide +kernel, by decide +kernel, by decide +kernel, by decide +kernel, by decide +kernel, by decide +kernel⟩
  intro r hr
  simp only [List.mem_cons, List.not_mem_nil, or_false] at hr
  rcases hr with rfl | rfl <;> exact ⟨begins_of (by decide +kernel), by unfold CplReady; decide +kernel⟩

theorem wit_hitch_host : (recC .opened [] []).acts ≠ [] ∧ coordinates (coordS 0 (recC .opened [] [])) [0, 1] = true ∧
    coordinates (coordS 1 (recC .opened [] [])) [0, 1] = false ∧ ([0, 1] : List Nat).min? = some 0 ∧
    (0 : Nat) ≠ ownRank (coordS 1 (recC .preparing [] [])) ∧
    (∀ p ∈ [(0x0003, Instr.hitchCommit 3 9), (0x0004, .hitchAbort 3 9), (0x0005, .hitchQuery 3 9)], ∀ r ∈ [0, 1],
      let s := coordS r (recC .opened [] [])
      hostTurn p.1 3 (fun e => decide (entryNum e = some 9)) (accepted (entryT p.2) s) = some ⟨entryT p.2, false, false⟩ ∧
        CplReady (begun (entryT p.2) s) 3) ∧
    (∀ st ∈ [HState.opened, .preparing, .aborted], ∀ r ∈ [0, 1], coordOf (coordS r (recC st [] [])) 9 = some (recC st [] [])) := by
  unfold CplReady; decide +kernel

/-- The actions of hitch 9 for rank 1, and a list that this device refuses. -/
def allT : List (Nat × Action) := [(1, actL), (0, actE), (1, actE)]
def allR : List (Nat × Action) := [(1, actR)]

theorem wit_hitch_prepare :
    let s := { coordS 1 (recC .done [] []) with hitch := hitchReset }
    partOf s 9 = none ∧ ownRank s = 1 ∧ s.hitch.part = [] ∧ s.hitch.coord = [] ∧ handedOver s 9 0 allT = false ∧
    handedOver { coordS 0 (recC .done [] []) with hitch := hitchReset } 9 0 allT = true ∧ (∀ a ∈ [actL, actE], objTaken s (some 9) (objOf a) = false) ∧
    actsOk s [actL, actE] allT = true ∧ actsOk s [actR] allR = false := by decide +kernel

theorem wit_hitch_participant : ∀ st ∈ [PState.preparing, .voted, .applied, .undoing],
    partOf (partS (recP st)) 9 = some (recP st) ∧ (recP st).acts.any (ringWaits (partS (recP st))) = false ∧
      ((recP st).saved.map (fun x => x.1)).Nodup ∧ coordOf (partS (recP st)) 9 = none := by decide +kernel

/-- Each cause of a vote comes about: lanes that have trained or not, and a ring with no lock. -/
theorem wit_hitch_votes :
    let s := partS (recP .preparing)
    mislockFound (ringsGo (recP .preparing) s) (recP .preparing).acts = false ∧
    (recP .preparing).acts.all (ringConfirmed (ringsGo (recP .preparing) s) []) = true ∧
    lanesTrained (ringsGo (recP .preparing) s) (recP .preparing) [(3, 5)] = true ∧
    lanesTrained (ringsGo (recP .preparing) s) (recP .preparing) [] = false ∧
    [Action.retune 0 0 3 0].all (ringConfirmed (ringsGo (recP .preparing) s) []) = false ∧
    (∀ a ∈ (recP .preparing).acts, retuneKey a = none) := by decide +kernel

theorem wit_hitch_coordinator :
    (∃ r ∈ (recC .preparing [] []).ranks, r ∉ setAdd (recC .preparing [] []).votes 0) ∧
    (∀ r ∈ (recC .preparing [0] []).ranks, r ∈ setAdd (recC .preparing [0] []).votes 1) ∧
    (∀ r ∈ [0, 1], coordOf (coordS r (recC .preparing [0] [])) 9 = some (recC .preparing [0] []) ∧
      coordinates (coordS r (recC .preparing [0] [])) [0, 1] = decide (r = 0)) := by decide +kernel

theorem wit_hitch_ends :
    (∃ r ∈ (recC .committed [0, 1] []).ranks, r ∉ setAdd (recC .committed [0, 1] []).acks 0) ∧
    (∀ st ∈ [HState.committed, .aborted], coordOf (coordS 0 (recC st [0, 1] [0])) 9 = some (recC st [0, 1] [0]) ∧
      ∀ r ∈ (recC st [0, 1] [0]).ranks, r ∈ setAdd (recC st [0, 1] [0]).acks 1) := by decide +kernel

/-! ### Statements about Grooms -/

/-- Groom 0, running at index 0 with one instruction there, changed by `g`. -/
def groomS (b : NI) (g : Groom → Groom) : State :=
  rfSet (oGroom 0 + 0x004) 0 1 1 (groomSet 0 (g { groomReset with active := true, uram := [(0, encodeNative ⟨hdr0, b⟩)] })
    State.reset)

/-- `GroomAt` as a check. -/
def groomAtB (s : State) (op : Nat) (b : NI) : Bool :=
  groomReady s 0 && opOf (groomWord s 0) == op && (match groomStatic 0 (groomWord s 0) with
    | .ok x => x == b
    | .error _ => false)

/-- The check implies `GroomAt`. -/
theorem groomAt_of {s : State} {op : Nat} {b : NI} (h : groomAtB s op b = true) : GroomAt s 0 op b := by
  simp only [groomAtB, Bool.and_eq_true, beq_iff_eq] at h
  obtain ⟨⟨h1, h2⟩, h3⟩ := h
  refine ⟨h1, h2, ?_⟩
  split at h3
  · rename_i x hx; rw [hx, eq_of_beq h3]
  · cases h3

/-- Groom 0's count 129, and the section's skip decision. -/
def cntG (skip skipDone : Bool) (g : Groom) : Groom :=
  { g with counts := [(129, ⟨5, none, false⟩)], skip := skip, skipDone := skipDone }

/-- A cut of step 3, and a state in which it is under way and Groom 0 is in that section. -/
def cutT (shadow storage streamed : Bool) (frozen : List Nat) : Cut :=
  ⟨3, 0, 0, 0, shadow, storage, 1, [], [], frozen, [], streamed⟩

def cutAt (s : State) : State :=
  let s := regSet (oGroom 0 + 0x018) 3 s
  { s with ckpt := { s.ckpt with cut := some (cutT true false false []) } }

theorem wit_groom_instructions :
    (GroomAt (groomS (.gwait 0x1081 5) (cntG false true)) 0 0xC0 (.gwait 0x1081 5) ∧
      tabGet gcntReset (groomOf (groomS (.gwait 0x1081 5) (cntG false true)) 0).counts (handleIndex 0x1081) =
        ⟨5, none, false⟩) ∧
    (GroomAt (groomS (.gsignal 0x1081) (cntG false true)) 0 0xC3 (.gsignal 0x1081) ∧
      (groomOf (groomS (.gsignal 0x1081) (cntG false true)) 0).skipDone = true) ∧
    (GroomAt (groomS (.gsignal 0x1081) (cntG false false)) 0 0xC3 (.gsignal 0x1081) ∧
      (groomOf (groomS (.gsignal 0x1081) (cntG false false)) 0).skipDone = false) ∧
    GroomAt (groomS .gend id) 0 0xC4 .gend ∧ (groomS .gend id).ckpt.cut = none ∧
    (GroomAt (cutAt (groomS .gend id)) 0 0xC4 .gend ∧ (cutAt (groomS .gend id)).ckpt.cut = some (cutT true false false []) ∧
      (cutT true false false []).step.toNat = groomSection (cutAt (groomS .gend id)) 0 ∧ 0 ∉ (cutT true false false []).frozen) :=
  ⟨⟨groomAt_of (by decide +kernel), by decide +kernel⟩, ⟨groomAt_of (by decide +kernel), by decide +kernel⟩,
    ⟨groomAt_of (by decide +kernel), by decide +kernel⟩, groomAt_of (by decide +kernel), rfl,
    groomAt_of (by decide +kernel), by decide +kernel, by decide +kernel, by decide +kernel⟩

/-- A state whose coefficient table lies at address 1,024 of HBM. -/
def coefS : State := regSet (oGroom 0 + 0x038) 1 (regSet (oGroom 0 + 0x030) 0x400 State.reset)

theorem wit_coefficients : regGet coefS (oGroom 0 + 0x038) ≠ 0 ∧ coefAddr coefS 0 + 1024 ≤ hbmTop ∧
    touchesTest coefS (coefAddr coefS 0) 1024 = false ∧ touchesHalt coefS (coefAddr coefS 0) 1024 = false ∧
    ReadsWell coefS (coefAddr coefS 0) 1024 ∧
    touchesHalt (rfSet (oHbm 0 + 0x008) 3 2 3 coefS) (coefAddr coefS 0) 1024 = true := by
  unfold ReadsWell; decide +kernel

/-- GSKIP of descriptor 1, whose CCOUNT is arrival count 0 of Groom 0, or names no count. -/
def skipS (ok : Bool) : State :=
  groomS (.gskip 1) (fun g => { g with desc := [(1, if ok then descG 4 0 0x8000 else dSet (descG 4 0 0x8000) 112 16 0xF000)] })

theorem wit_gskip : GroomAt (skipS true) 0 0xC1 (.gskip 1) ∧ GroomAt (skipS false) 0 0xC1 (.gskip 1) ∧
    (groomOf (skipS true) 0).skipDone = false ∧ descBad (descG 4 0 0x8000) = false ∧ dVALID (descG 4 0 0x8000) = 1 ∧
    handleHolder (dCCOUNT (descG 4 0 0x8000)) = 1 ∧ handleIndex (dCCOUNT (descG 4 0 0x8000)) = 0 ∧
    handleHolder (dCCOUNT (dSet (descG 4 0 0x8000) 112 16 0xF000)) = 15 :=
  ⟨groomAt_of (by decide +kernel), groomAt_of (by decide +kernel), by decide +kernel, by decide +kernel, by decide +kernel,
    by decide +kernel, by decide +kernel, by decide +kernel⟩

/-- The fields of a GOP of one block, its operands at descriptors 1, 2 and 3 as far as the operation has them. -/
def gopFd (op : BitVec 6) (d1 d2 : BitVec 10) : GopF := ⟨op, 1, d1, d2, 0, 0, 0, 1⟩

/-- A Groom at a GOP, with the operands' formats and a coefficient table of ones in force. -/
def gopS (f : GopF) (f0 f1 f2 : Nat) (skip skipDone : Bool) : State :=
  regSet (oGroom 0 + 0x038) 1 (groomS (.gop f) (fun g => { cntG skip skipDone g with
    desc := [(1, descG f0 0 0x8_0000_0000), (2, descG f1 0 0x8_0001_0000), (3, descG f2 0 0x8_0002_0000)],
    coef := [(0, 0x3F800000), (1, 0x3F800000), (2, 0x3F800000)] }))

theorem wit_gop_begins : ∀ p ∈ ([(gopFd 1 2 0, 5, 4, 0), (gopFd 2 2 0, 6, 4, 0), (gopFd 3 2 3, 5, 5, 6),
      (gopFd 4 0 0, 5, 0, 0), (gopFd 5 2 0, 5, 4, 0), (gopFd 6 0 0, 5, 0, 0), (gopFd 7 2 0, 4, 5, 0)] :
      List (GopF × Nat × Nat × Nat)),
    GroomAt (gopS p.1 p.2.1 p.2.2.1 p.2.2.2 false true) 0 0xC2 (.gop p.1) ∧
      gopCheck (gopS p.1 p.2.1 p.2.2.1 p.2.2.2 false true) 0 p.1 = none := by
  intro p hp
  simp only [List.mem_cons, List.not_mem_nil, or_false] at hp
  rcases hp with rfl | rfl | rfl | rfl | rfl | rfl | rfl <;> exact ⟨groomAt_of (by decide +kernel), by decide +kernel⟩

theorem wit_gop_skipped_or_refused :
    GroomAt (gopS (gopFd 4 0 0) 5 0 0 true true) 0 0xC2 (.gop (gopFd 4 0 0)) ∧
    GroomAt (gopS (gopFd 4 0 0) 5 0 0 false false) 0 0xC2 (.gop (gopFd 4 0 0)) ∧
    GroomAt (groomS (.gop (gopFd 4 0 0)) (fun g => { g with skipDone := true, cutWait := true })) 0 0xC2 (.gop (gopFd 4 0 0)) :=
  ⟨groomAt_of (by decide +kernel), groomAt_of (by decide +kernel), groomAt_of (by decide +kernel)⟩

/-- A GOP of one AX16 block in progress: REANCHOR with its new anchor, or DECAY. -/
def gopT (op : BitVec 6) (anchor : Option Int) : GopSt := ⟨gopFd op 0 0, descG 5 0 0x8_0000_0000, 0, 0, false, anchor⟩

/-- Its block's exchange. -/
def exchT (st : GopSt) (from_ : List Nat) (v : Option W16) (wrote : List Nat) : Exch :=
  ⟨st.f, st.d0, st.d1, st.d2, from_, 0, 0, 0, false, false, [], v, wrote, false⟩

/-- Every Groom holds the GOP; Groom 0's block 0 is in exchange as given. -/
def exchS (st : GopSt) (e : Option Exch) : State :=
  { State.reset with grooms := (List.range 8).map (fun k => (k, { groomReset with gop := some st })), exch := [(0, e)] }

/-- The holders of the block. -/
theorem test_exch_holders : holdersOf (descG 5 0 0x8_0000_0000) 0 = [0, 1] ∧
    keeperOf (descG 5 0 0x8_0000_0000) 0 = 0 := by decide +kernel

theorem wit_gop_ends :
    gopFinished (exchS (gopT 4 none) (some (exchT (gopT 4 none) [0, 1] (some cOK) [0, 1]))) 0 (gopT 4 none) = true ∧
    gopFinished (exchS (gopT 6 (some 3)) (some (exchT (gopT 6 (some 3)) [0, 1] (some cOK) [0, 1]))) 0
      (gopT 6 (some 3)) = true ∧
    (3 : Int) ≠ dANCHOR (gopT 6 (some 3)).d0 ∧
    gopFinished (exchS (gopT 6 (some 0)) (some (exchT (gopT 6 (some 0)) [0, 1] (some cOK) [0, 1]))) 0
      (gopT 6 (some 0)) = true ∧ gopStill (gopT 6 (some 0)) = true := by decide +kernel

/-- A REANCHOR whose operand has another anchor. -/
def gopA : GopSt := { gopT 6 none with d0 := dSet (gopT 6 none).d0 200 8 1 }

theorem wit_reanchor_agrees :
    (∀ n, n < 8 → (groomOf (exchS (gopT 6 none) none) n).gop = some (gopT 6 none)) ∧ (gopT 6 none).f.op.toNat = 6 ∧
    (gopT 6 none).agreed = false ∧ gopA.f = (gopT 6 none).f ∧ gopA.agreed = false ∧
    (groomOf (groomMod 3 (fun g => { g with gop := some gopA }) (exchS (gopT 6 none) none)) 3).gop = some gopA ∧
    dANCHOR gopA.d0 ≠ dANCHOR (gopT 6 none).d0 := by decide +kernel

theorem wit_exchange_partial :
    let st := gopT 4 none
    let s := exchS st none
    let t := exchS st (some (exchT st [1] none []))
    (groomOf s 0).gop = some st ∧ exchKey s 0 0 = 0 ∧ exchOf s 0 = none ∧ sameGop st (exchT st [] none []) = true ∧
    exchOf t 0 = some (exchT st [1] none []) ∧ sameGop st (exchT st [1] none []) = true ∧
    0 ∈ holdersOf st.d0 0 ∧ 0 ∉ [1] ∧ atHalt t 0 = false ∧ partner t 0 (keeperOf st.d0 0) st = true ∧
    partner (groomMod 0 (fun g => { g with gop := none }) t) 1 0 st = false ∧
    (gopReads st).map (fun p => p.1) = [0] ∧ wordsRead st = [] ∧
    (∀ j ∈ grainsAt st.d0 0 0, hbmUeIn t (blkAddr st.d0 0 + 256 * j) 256 = none ∧ sramUeIn t (blkAddr st.d0 0 + 256 * j) 256 = none) ∧
    hbmUeIn { t with mem := { t.mem with badHbm := [0] } } (blkAddr st.d0 0) 256 = some 0 ∧ 0 ∈ grainsAt st.d0 0 0 := by
  decide +kernel

theorem wit_exchange_verdict :
    let st := gopT 4 none
    let s (v : W16) (wrote : List Nat) := exchS st (some (exchT st [0, 1] (some v) wrote))
    (∀ w ∈ [[], [1]], (groomOf (s cOK w) 0).gop = some st ∧ exchOf (s cOK w) 0 = some (exchT st [0, 1] (some cOK) w) ∧
      passedAll (s cOK w) st (exchKey (s cOK w) 0 0) 0 0 = true ∧ atHalt (s cOK w) 0 = false) ∧
    gopStill st = false ∧ (¬ ∀ h ∈ holdersOf st.d0 0, h ∈ setAdd [] 0) ∧ (∀ h ∈ holdersOf st.d0 0, h ∈ setAdd [1] 0) ∧
    partner (s cOK [1]) 0 (keeperOf st.d0 0) st = true ∧ overlap (blkAddr st.d0 0) 32768 (dMETA st.d0) 8 = false ∧
    exchOf (s cHBM_UE []) 0 = some (exchT st [0, 1] (some cHBM_UE) []) ∧ cHBM_UE ≠ cOK ∧ partDone (s cHBM_UE []) 0 st 0 = true ∧
    (gopStill (gopT 6 (some 0)) = true ∧ (gopT 6 (some 0)).anchor ≠ none) := by decide +kernel

theorem wit_groom_service :
    HostServed hostS (oGroom 7 + 0x004) 0 ∧ HostServed hostS (oGroom 7 + 0x004) 1 ∧ groomRunBit hostS 7 = false ∧
    tackNow hostS ≠ 3 ∧ gwaitHeld (groomS (.gwait 0x1081 6) (cntG false true)) 0 = true ∧
    exchHeld (exchS (gopT 4 none) (some (exchT (gopT 4 none) [0] none []))) 0 = true ∧ rf (exchS (gopT 4 none) none) (oGroom 0 + 0x03C) 0 20 ≠ 0 := by
  unfold HostServed; decide +kernel

theorem wit_groom_stopped : (groomOf (groomSet 2 { groomReset with active := true } State.reset) 2).active = true ∧
    groomRunBit (groomSet 2 { groomReset with active := true } State.reset) 2 = false := by decide +kernel

/-! ### Statements about memory -/

theorem wit_loft : HostServed hostS (oDie 7 + 0x004) 0 ∧ loftRefused hostS 7 16 = false ∧
    HostServed hostS (oDie 7 + 0x00C) 0 ∧ loftOf hostS 7 = .idle ∧
    loftOf (loftSet 7 (.change 16) hostS) 7 = .change 16 ∧ loftOf (loftSet 7 .flush hostS) 7 = .flush ∧
    (∀ o ∈ [LoftOp.change 16, .flush], loftOf (loftSet 1 o (haltS hostS)) 1 = o ∧ atHalt (loftSet 1 o (haltS hostS)) 1 = true) := by
  unfold HostServed; decide +kernel

theorem wit_hbm_stack : HostServed hostS (oHbm 7 + 0x004) 0 ∧ hbmModeRefused hostS 7 1 = false ∧
    hbmModeRefused hostS 7 0 = false ∧ HostServed hostS (oHbm 7 + 0x010) 31 := by
  unfold HostServed; decide +kernel

/-- Stack 0 with its scrubber enabled, in normal operation, or in TEST. -/
def scrubS (mode : Nat) : State := rfSet (oHbm 0 + 0x008) 0 2 mode (rfSet (oHbm 0 + 0x004) 2 1 1 State.reset)

/-- The last sector of stack 0 and the last word of Loft 0, before bits flip. -/
def lastHbm : Nat := 64 * 5242880 * 8 - 1
def lastLoft : Nat := loftSize / 8 - 1

/-- Stack 0 with one upset. -/
def upsetS (p : MemPlace) (e : EccFind) : State := upsetDo ⟨p, e⟩ (scrubS 0)

theorem wit_scrub :
    (∀ e ∈ [EccFind.corrected, .uncorrectable], let u := upsetS (.hbm 0 lastHbm) e
      rf u (oHbm 0 + 0x004) 2 1 = 1 ∧ inTest u 0 = false ∧ atHalt u 0 = false ∧ cached u (sectorOf 0 lastHbm * 32) = false) ∧
    (upsetS (.hbm 0 lastHbm) .corrected).mem.softHbm = [sectorOf 0 lastHbm] ∧
    (upsetS (.hbm 0 lastHbm) .corrected).mem.badHbm = [] ∧
    (upsetS (.hbm 0 lastHbm) .uncorrectable).mem.badHbm = [sectorOf 0 lastHbm] ∧
    (sectorOf 0 lastHbm ∉ (scrubS 0).mem.badHbm ∧ sectorOf 0 lastHbm ∉ (scrubS 0).mem.softHbm) ∧
    inTest (scrubS 1) 0 = true ∧
    (upsetS (.loft 0 lastLoft) .corrected).mem.softSram = [loftBase 0 / 8 + lastLoft] ∧
    (upsetS (.loft 0 lastLoft) .corrected).mem.badSram = [] ∧
    (upsetS (.loft 0 lastLoft) .uncorrectable).mem.badSram = [loftBase 0 / 8 + lastLoft] := by decide +kernel

/-- A generator of one grain at the last place of a pseudo-channel. -/
def tgT (op : Nat) (busy : Bool) (len : W32) : TrafGen :=
  ⟨op, 0, false, 5242879, len, 1, busy, false, false, false, 0, 0, 0, 0⟩

/-- Stack 0 in TEST with the generator of pseudo-channel 0 in that state. -/
def tgS (op : Nat) (busy : Bool) (len : W32) : State := tgSet 0 0 (tgT op busy len) (sealS (scrubS 1))

/-- A pass that reads one grain of zeros. -/
def tgZ : TrafGen := { tgT 1 true 1 with pattern := 3 }

theorem wit_traffic_generator :
    (HostServed (tgS 0 false 1) (oHbm 0 + 0x104) 0 ∧ tgRefused (tgS 0 false 1) 0 (tgOf (tgS 0 false 1) 0 0) = false) ∧
    HostServed (tgS 0 true 1) (oHbm 0 + 0x104) 1 ∧ tgSel (tgS 0 true 1) 0 = 0 ∧
    (tgT 0 true 1).base.toNat + (tgT 0 true 1).len.toNat ≤ 5242880 ∧ (tgOf (tgS 0 false 1) 0 0).busy = false ∧
    (∀ op ∈ [0, 1, 2], tgOf (tgS op true 1) 0 0 = tgT op true 1 ∧ atHalt (tgS op true 1) 0 = false) ∧
    atHalt (rfSet (oHbm 0 + 0x008) 3 2 3 (tgS 0 true 1)) 0 = true ∧
    (tgOf (tgSet 0 0 { tgT 0 true 1 with stopping := true } State.reset) 0 0).stopping = true ∧
    (tgOf (tgSet 0 0 tgZ State.reset) 0 0 = tgZ ∧ memRead (tgSet 0 0 tgZ State.reset) (hbmAddr 0 0 5242879) 256 =
      (tgGrain 3 5242879 1).2.flatMap (fun w => leBytes 4 w) ∧
      hbmUeIn (tgSet 0 0 tgZ State.reset) (hbmAddr 0 0 5242879) 256 = none ∧
      sramUeIn (tgSet 0 0 tgZ State.reset) (hbmAddr 0 0 5242879) 256 = none) := by
  unfold HostServed; decide +kernel

/-! ### Statements about the fabric -/

/-- Port 0 in a state, with all its lanes active, in a paddock of hall addresses 0 (this device) and 1. -/
def portS (st : Nat) (g : Port → Port) : State :=
  portMod 0 g (rfSet (oPort 0 + 0x010) 0 3 st (rfSet (oPort 0 + 0x010) 4 8 0xFF
    { State.reset with fab := { fabReset with map := [(0, 0x80000000), (1, 0x80000001)] } }))

/-- A block in sequence whose check is right, with those words for ACK, LANES and the rest of its tail's low half. -/
def blockOf (fl : List Flit) (lo : Nat) : Block :=
  ⟨fl, BitVec.ofNat 128 (lo + (crc64 (fl.flatMap flitBytes ++ leBytes 8 lo)).toNat * 2 ^ 64), true⟩

theorem blockOf_tail (fl : List Flit) (lo : Nat) (h : lo < 2 ^ 64) : (blockOf fl lo).tail.toNat =
    lo + (crc64 (fl.flatMap flitBytes ++ leBytes 8 lo)).toNat * 2 ^ 64 := by
  simp only [blockOf, BitVec.toNat_ofNat]
  have := (crc64 (fl.flatMap flitBytes ++ leBytes 8 lo)).isLt
  omega

theorem blockOf_low (fl : List Flit) (lo : Nat) (h : lo < 2 ^ 64) : (blockOf fl lo).tail.toNat % 2 ^ 64 = lo := by
  rw [blockOf_tail fl lo h, Nat.add_mul_mod_self_right, Nat.mod_eq_of_lt h]

theorem blockOf_crc (fl : List Flit) (lo : Nat) (h : lo < 2 ^ 64) :
    (blockOf fl lo).tail.extractLsb' 64 64 = crc64 (fl.flatMap flitBytes ++ leBytes 8 lo) := by
  apply BitVec.eq_of_toNat_eq
  have := (crc64 (fl.flatMap flitBytes ++ leBytes 8 lo)).isLt
  rw [BitVec.extractLsb'_toNat, blockOf_tail fl lo h, Nat.shiftRight_eq_div_pow]
  omega

theorem wit_block_good (fl : List Flit) (hl : fl.length = 16) (lo : Nat) (h : lo < 2 ^ 64) :
    blockCheckOk (blockOf fl lo) = true ∧ (blockOf fl lo).fecOk = true := by
  have h3 : (blockOf fl lo).flits = fl := rfl
  refine ⟨?_, rfl⟩
  simp only [blockCheckOk, blockOf_low fl lo h, blockOf_crc fl lo h, h3, hl, decide_true, Bool.and_self]

/-- The word of a tail's low half: LANES at 10, CREDITS at 18, NAK at 31, BSEQ at 48. -/
def lowT (lanes nak bseq : Nat) : Nat := lanes * 2 ^ 10 + 3 * 2 ^ 18 + nak * 2 ^ 31 + bseq * 2 ^ 48

theorem lowT_fields (fl : List Flit) (lanes nak : Nat) (hl : lanes < 256) (hn : nak < 2) :
    lowT lanes nak 0 < 2 ^ 64 ∧ bits (blockOf fl (lowT lanes nak 0)).tail.toNat 10 8 = lanes ∧
      bits (blockOf fl (lowT lanes nak 0)).tail.toNat 48 16 = 0 ∧
      bits (blockOf fl (lowT lanes nak 0)).tail.toNat 31 1 = nak := by
  have h : lowT lanes nak 0 < 2 ^ 64 := by unfold lowT; omega
  refine ⟨h, ?_, ?_, ?_⟩ <;> rw [bits, blockOf_tail fl _ h, Nat.shiftRight_eq_div_pow] <;> unfold lowT <;> omega

/-- The port takes a block of no lanes or its own, of fewer lanes, or of too few, with or without NAK. -/
theorem wit_block_lanes : (∀ st ∈ [2, 3], tapLane (portS st id) 0 0 = none ∧ portState (portS st id) 0 = st ∧
      (portOf (portS st id) 0).expect = 0 ∧
      (0 = 0 ∨ portActive (portS st id) 0 &&& 0 = portActive (portS st id) 0) ∧
      portActive (portS st id) 0 &&& 0xFF = portActive (portS st id) 0 ∧
      tapLane (portS st id) 0 0x7F = none ∧ portActive (portS st id) 0 &&& 0x7F ≠ portActive (portS st id) 0 ∧
      minLanes (portS st id) 0 ≤ maskCount (portActive (portS st id) 0 &&& 0x7F)) ∧
    maskCount (portActive (portS 2 id) 0 &&& 0) < minLanes (portS 2 id) 0 ∧
    tapLane (rfSet (oPort 0 + 0x004) 8 4 2 (portS 2 id)) 0 1 = none ∧
    maskCount (portActive (rfSet (oPort 0 + 0x004) 8 4 2 (portS 2 id)) 0 &&& 1) <
      minLanes (rfSet (oPort 0 + 0x004) 8 4 2 (portS 2 id)) 0 ∧
    portActive (rfSet (oPort 0 + 0x004) 8 4 2 (portS 2 id)) 0 &&& 1 ≠
      portActive (rfSet (oPort 0 + 0x004) 8 4 2 (portS 2 id)) 0 := by decide +kernel

theorem wit_block_bad (fl : List Flit) (lo : Nat) : ¬ (({ blockOf fl lo with fecOk := false } : Block).fecOk = true) := by
  simp

/-- Port 0 as the port of cage 11, with position 3 a TAP lane and position 2 a SOURCE lane, quarantined or not. -/
def tapS (quar : List Nat) (g : Port → Port) : State :=
  let s := rfSet (oCage 11 + 0x040 + 12) 0 2 3 (rfSet (oCage 11 + 0x040 + 8) 0 2 2
    (rfSet (oPort 0 + 0x004) 2 4 11 (rfSet (oPort 0 + 0x004) 0 2 3 (portS 2 g))))
  cageMod 11 (fun c => { c with quar := quar }) s

theorem wit_block_on_a_tap_lane : ∀ q ∈ [[], [3]], cageOf (tapS q id) 0 = some 11 ∧ tapLane (tapS q id) 0 8 = some 3 ∧
    laneQuar (tapS q id) 0 3 = decide (q = [3]) := by decide +kernel

/-- A port with one block sent and not acknowledged, and one with broadcast flits that wait. -/
def sentT (q : Port) : Port := { q with sent := [⟨0, List.replicate 16 idleFlit, 0, 3⟩] }
def btxT (q : Port) : Port := { q with btx := [idleFlit] }

theorem wit_blocks_go_out : portState (portS 2 sentT) 0 = 2 ∧
    (portOf (portS 2 sentT) 0).sent ≠ [] ∧ mayBlock (portS 2 id) 0 = true ∧
    mayBlock (rfSet (oPort 0 + 0x010) 0 3 4 (tapS [] btxT)) 0 = false ∧
    ((cageOf (rfSet (oPort 0 + 0x010) 0 3 4 (tapS [] btxT)) 0).bind
      (fun c => (List.range 8).find? (fun j => roleOf (rfSet (oPort 0 + 0x010) 0 3 4 (tapS [] btxT)) c j == 2))) = some 2 ∧
    laneQuar (rfSet (oPort 0 + 0x010) 0 3 4 (tapS [] btxT)) 0 2 = false ∧
    (portOf (rfSet (oPort 0 + 0x010) 0 3 4 (tapS [] btxT)) 0).btx ≠ [] := by
  decide +kernel

/-- A flit by kind, channel, destination, source, phase and MID. -/
def flitMid (kind vc dst src ph mid : Nat) : Flit :=
  ⟨BitVec.ofNat 128 (kind * 2 ^ 126 + vc * 2 ^ 124 + dst * 2 ^ 111 + mid * 2 ^ 98 + src * 2 ^ 85 + ph * 2 ^ 84), []⟩
def flitT (kind vc dst src ph : Nat) : Flit := flitMid kind vc dst src ph 0

/-- Port 0 holds the flit, from the link or from a TAP lane, and its table routes hall addresses 0 and 1 and
group 5; the group holds hall addresses 0 and m. -/
def flitG (m : Nat) (onTap : Bool) (f : Flit) : State :=
  let s := rfSet (oPort 2 + 0x010) 0 3 2 (portS 2 fun q => if onTap then { q with tap := [f] } else { q with rx := [f] })
  let ms := [(320, 0x80000000), (321, BitVec.ofNat 32 (0x80000000 + m))]
  { s with fab := { s.fab with rt := [(0, 0x81000000), (1, 0x80000004), (8197, 0x81000004)], group := ms } }

def flitS (f : Flit) : State := flitG 1 false f

theorem wit_flit_delivered : ∀ tap ∈ [false, true],
    ((portOf (flitG 1 tap (flitT 1 1 0 1 1)) 0).rx.find? (fun f => fVc f == 1)).or
      ((portOf (flitG 1 tap (flitT 1 1 0 1 1)) 0).tap.find? (fun f => fVc f == 1)) = some (flitT 1 1 0 1 1) ∧
    ((portOf (flitG 1 tap (flitT 1 1 0 1 1)) 0).rx.find? (fun f => fVc f == 1)).isSome = !tap ∧
    fKind (flitT 1 1 0 1 1) ≠ 2 ∧
    member (flitG 1 tap (flitT 1 1 0 1 1)) (fSrc (flitT 1 1 0 1 1)) = true ∧
    bits (rtEntry (flitG 1 tap (flitT 1 1 0 1 1)) 0 (lookupOf (flitT 1 1 0 1 1))) 31 1 = 1 ∧
    bits (rtEntry (flitG 1 tap (flitT 1 1 0 1 1)) 0 (lookupOf (flitT 1 1 0 1 1))) 24 1 = 1 := by decide +kernel

theorem wit_flit_passed_on :
    member (flitS (flitT 1 1 1 1 1)) 1 = true ∧
    bits (rtEntry (flitS (flitT 1 1 1 1 1)) 0 (lookupOf (flitT 1 1 1 1 1))) 31 1 = 1 ∧
    bits (rtEntry (flitS (flitT 1 1 1 1 1)) 0 (lookupOf (flitT 1 1 1 1 1))) 24 1 = 0 ∧
    bestPort (flitS (flitT 1 1 1 1 1)) (rtEntry (flitS (flitT 1 1 1 1 1)) 0 1) 1 = some 2 ∧
    bestPort (rfSet (oPort 2 + 0x010) 0 3 0 (flitS (flitT 1 1 1 1 1)))
      (rtEntry (rfSet (oPort 2 + 0x010) 0 3 0 (flitS (flitT 1 1 1 1 1))) 0 1) 1 = none ∧
    member (rfSet (oPort 2 + 0x010) 0 3 0 (flitS (flitT 1 1 1 1 1))) 1 = true ∧
    bits (rtEntry { State.reset with fab := fabReset } 0 1) 31 1 = 0 := by decide +kernel

/-- A flit in phase 0 turns at its MID. -/
theorem wit_flit_turns : fPh (flitMid 1 0 1 1 0 0) = 0 ∧ fMid (flitMid 1 0 1 1 0 0) = haddr (flitS (flitMid 1 0 1 1 0 0)) ∧
    fPh (hSet (hSet (flitMid 1 0 1 1 0 0) 84 1 1) 124 2 1) = 1 ∧ fVc (hSet (hSet (flitMid 1 0 1 1 0 0) 84 1 1) 124 2 1) = 1 ∧
    fPh (flitMid 1 0 1 1 0 7) = 0 ∧ fMid (flitMid 1 0 1 1 0 7) ≠ haddr (flitS (flitMid 1 0 1 1 0 7)) := by decide +kernel

/-- A group that this device may forward to, and one with a member that it does not know. -/
theorem wit_flit_group :
    groupMembers (flitS (flitT 2 2 5 1 1)) 5 = [0, 1] ∧ member (flitS (flitT 2 2 5 1 1)) 0 = true ∧
    member (flitS (flitT 2 2 5 1 1)) 1 = true ∧ fPh (flitT 2 2 5 1 1) ≠ 0 ∧
    bits (rtEntry (flitS (flitT 2 2 5 1 1)) 0 (lookupOf (flitT 2 2 5 1 1))) 31 1 = 1 ∧
    bits (rtEntry (flitS (flitT 2 2 5 1 1)) 0 (lookupOf (flitT 2 2 5 1 1))) 24 1 = 1 ∧
    bits (rtEntry (flitS (flitT 2 2 5 1 1)) 0 (lookupOf (flitT 2 2 5 1 1))) 2 1 = 1 ∧
    bcastLane (flitS (flitT 2 2 5 1 1)) 2 5 = none ∧
    bcastLane (regSet (oCage 11 + 0x00C) 0x80000005 (tapS [] id)) 0 5 = some 2 ∧
    groupMembers (flitG 77 false (flitT 2 2 5 1 1)) 5 = [0, 77] ∧
    member (flitG 77 false (flitT 2 2 5 1 1)) 77 = false ∧ member (flitG 77 false (flitT 2 2 5 1 1)) 1 = true ∧
    bits (rtEntry (flitG 77 false (flitT 2 2 5 1 1)) 0 (lookupOf (flitT 2 2 5 1 1))) 24 1 = 1 := by decide +kernel

theorem wit_flit_discarded : member (flitS (flitT 1 1 0 77 1)) 77 = false ∧ fSrc (flitT 1 1 0 77 1) = 77 ∧
    member (flitS (flitT 1 1 77 1 1)) (fDst (flitT 1 1 77 1 1)) = false ∧
    bits (rtEntry (flitS (flitT 1 1 77 1 1)) 0 (lookupOf (flitT 1 1 77 1 1))) 31 1 = 0 := by
  decide +kernel

theorem wit_no_route : ([(24, flitT 1 1 0 1 1)] : List (Nat × Flit)).find? (fun e => e.1 == 24) =
    some (24, flitT 1 1 0 1 1) := by decide +kernel

/-- A held flit of a space to hall address 1, of a copy of queue F or of none; a flit of an image, for hall address 0 (this device) or the twin at 1. -/
def heldT (o : Option (Nat × Q × Nat)) : Unacked := ⟨0xFFFF, flitT 0 0 1 0 0, o, []⟩
def heldZ (dst : Nat) : Unacked := ⟨0xFFFF, hSet (flitT 1 0 dst 0 0) 21 3 6, none, []⟩

/-- Its sender, with the copy in flight. -/
def e2eS (u : Unacked) : State :=
  txPut (txKey 1 0) ⟨0, [u], [], [(7, 0, .F, 0)]⟩ (qS [entI 0 (.copy copyF)] (copyC (heldCopy remF true true [] descReset)))

theorem wit_end_to_end : (∀ o ∈ [none, some (0, Q.F, 0)],
    (txOf (e2eS (heldT o)) (txKey 1 0)).held.find? (fun u => decide (u.seq = 0xFFFF)) = some (heldT o) ∧
    isStorage (e2eS (heldT o)) (heldT o).flit = false ∧ isCut (e2eS (heldT o)) (heldT o).flit = false ∧
      entIssued (e2eS (heldT o)) 0 .F 0 = true) ∧
    (txOf (e2eS (heldT none)) (txKey 1 0)).held.find? (fun u => decide (u.seq = 5)) = none ∧
    (txOf (e2eS (heldT none)) (txKey 1 0)).past.find? (fun x => decide (x.1 = 5)) = none ∧
    (txOf (e2eS (heldT none)) (txKey 1 0)).past.find? (fun x => decide (x.1 = 7)) = some (7, 0, .F, 0) := by decide +kernel

/-! ### Statements about lanes, ports and cages -/

/-- A flit of an image given up, to storage with the twin's shadow acknowledged or not, or to the twin at hall address 1. -/
def cutE (dst : Nat) (shadow : Bool) : State :=
  let s := rfSet 0x4018 9 13 1 (e2eS (heldZ dst))
  { s with ckpt := { ckptReset with cut := some (cutT shadow true true []) } }

theorem wit_image_lost : (∀ sh ∈ [true, false],
    (txOf (cutE 0 sh) (txKey 1 0)).held.find? (fun u => decide (u.seq = 0xFFFF)) = some (heldZ 0) ∧
    isStorage (cutE 0 sh) (heldZ 0).flit = true ∧ fKind (heldZ 0).flit = 1 ∧ (cutE 0 sh).ckpt.cut = some (cutT sh true true [])) ∧
    isCut (cutE 1 true) (heldZ 1).flit = true := by decide +kernel

/-- A port with a mask on lane 7, dark or not. -/
def maskT (dark : List Nat) (q : Port) : Port := { q with masks := [7], dark := dark }

theorem wit_lane_sheds :
    (laneActive (portS 2 id) 0 7 = true ∧ portState (portS 2 id) 0 = 2 ∧
      minLanes (portS 2 id) 0 ≤ maskCount (portActive (portS 2 id) 0 - 2 ^ 7) ∧ 7 ∉ (portOf (portS 2 id) 0).masks) ∧
    (laneActive (portS 4 id) 0 7 = true ∧ portState (portS 4 id) 0 = 4 ∧ 7 ∉ (portOf (portS 4 id) 0).masks) ∧
    (maskCount (1 - 2 ^ 0) < minLanes (rfSet (oPort 0 + 0x010) 4 8 1 (portS 2 id)) 0 ∧
      portActive (rfSet (oPort 0 + 0x010) 4 8 1 (portS 2 id)) 0 = 1 ∧
      laneActive (rfSet (oPort 0 + 0x010) 4 8 1 (portS 2 id)) 0 0 = true) ∧
    (7 ∈ (portOf (portS 2 (maskT [7])) 0).masks ∧ 7 ∈ (portOf (portS 2 (maskT [7])) 0).dark ∧
      laneActive (portS 2 (maskT [7])) 0 7 = true) ∧
    (7 ∈ (portOf (portS 2 (maskT [])) 0).masks ∧ 7 ∉ (portOf (portS 2 (maskT [])) 0).dark) ∧
    portState (portS 3 id) 0 = 3 := by decide +kernel

/-- A window of `errors` in `n` against both thresholds: below them, above the port's, and above the cage's. -/
theorem wit_lane_errors : cageOf (portS 2 id) 0 = none ∧ ¬ (1 < 0 * 10 ^ rf (portS 2 id) (oPort 0 + 0x014) 8 4) ∧
    0 < 1 * 10 ^ rf (portS 2 id) (oPort 0 + 0x014) 8 4 ∧ cageOf (tapS [] id) 0 = some 11 ∧
    laneActive (tapS [] id) 0 0 = true ∧ laneQuar (tapS [] id) 0 0 = false ∧
    0 < 1 * 10 ^ rf (tapS [] id) (oCage 11 + 0x010) 16 4 ∧
    (10 < 1 * 10 ^ rf (rfSet (oPort 0 + 0x014) 8 4 0 (rfSet (oCage 11 + 0x010) 16 4 2 (tapS [] id))) (oCage 11 + 0x010) 16 4 ∧
      ¬ (10 < 1 * 10 ^ rf (rfSet (oPort 0 + 0x014) 8 4 0 (rfSet (oCage 11 + 0x010) 16 4 2 (tapS [] id))) (oPort 0 + 0x014) 8 4)) := by
  decide +kernel

/-- Port 0 with lane 7 shed, its spare free, or in use, and so many adds of the lane counted; the free value even, or odd. -/
def repairS (used adds : Nat) : State := rfSet 0x404C 0 1 used
  (rfSet (oPort 0 + 0x010) 4 8 0x7F (portS 2 (fun q => { q with adds := [(7, adds)], barred := [5], broken := [4] })))

theorem wit_lane_repair : (∀ u ∈ [0, 1], ∀ n ∈ [2, 3], laneActive (repairS u n) 0 7 = false ∧
    7 ∉ (portOf (repairS u n) 0).barred ∧ 7 ∉ (portOf (repairS u n) 0).broken ∧ tabGet 0 (portOf (repairS u n) 0).adds 7 = n ∧
    laneActive (repairS u n) 0 6 = true ∧ 5 ∈ (portOf (repairS u n) 0).barred ∧ 4 ∈ (portOf (repairS u n) 0).broken ∧
    rf (repairS u n) 0x404C 0 1 = u) := by decide +kernel

/-- Up to the third add no draw is made; from then on the lane is out, or back, as the free value has it, which nothing
fixes: one of the two holds. -/
theorem wit_lane_fourth (v : Nat) : ¬ (3 ≤ 2 ∧ v % 2 = 0) ∧ ((3 ≤ 3 ∧ v % 2 = 0) ∨ ¬ (3 ≤ 3 ∧ v % 2 = 0)) :=
  ⟨fun h => absurd h.1 (by decide), Classical.em _⟩

/-- Port 0, planned as a board lane, in a state, with its island released under a legal plan. -/
def trainS (st : Nat) : State :=
  let s := rfSet (oPort 0 + 0x004) 0 2 1 (portS st id)
  { s with boot := { s.boot with released := [56], planOk := true } }

theorem wit_port_trains : portState (trainS 0) 0 = 0 ∧ (portOf (trainS 0) 0).out = false ∧ mayTrain (trainS 0) 0 = true ∧ reachOf (trainS 0) 0 ≠ 0 ∧
    portIsland 0 ∈ (trainS 0).boot.released ∧ (trainS 0).boot.planOk = true ∧ planLegal (trainS 0) = true ∧
    cageLocked (trainS 0) 0 = true := by
  decide +kernel

/-- The same port on cage 11, with its position in LINK, or in no role. -/
def trainC (role : Nat) : State :=
  rfSet (oCage 11 + 0x040) 0 2 role (rfSet (oPort 0 + 0x004) 2 4 11 (rfSet (oPort 0 + 0x004) 0 2 3 (trainS 1)))

/-- Port 0 of the recovery link (R423), and before it trains. -/
def linkS (st : Nat) : State := let s := rfSet oSec 0 3 4 (portS st id); { s with boot := { s.boot with released := [62, 63] } }

theorem wit_recovery_link : linkPort (linkS 0) 0 = true ∧ portState (linkS 0) 0 = 0 ∧ (portOf (linkS 0) 0).out = false ∧
    linkPort (linkS 1) 0 = true ∧ portState (linkS 1) 0 = 1 ∧ tapLane (linkS 2) 0 0xFF = none ∧ linkPort (linkS 2) 0 = true := by
  decide +kernel

theorem wit_port_trained : portState (trainS 1) 0 = 1 ∧ linkPort (trainS 1) 0 = false ∧ linkPort (portS 2 id) 0 = false ∧ (0 : W32) &&& 0x8003FFFF#32 = regGet (trainS 1) (oPort 0 + 0x008) ∧
    (1 : W32) &&& 0x8003FFFF#32 ≠ regGet (trainS 1) (oPort 0 + 0x008) ∧ cageHasLink (trainS 1) 0 = true ∧
    minLanes (trainS 1) 0 ≤ maskCount (laneMask (trainS 1) 0 (0xFF &&& rf (trainS 1) (oPort 0 + 0x014) 0 8)) ∧
    maskCount (laneMask (trainS 1) 0 (0 &&& rf (trainS 1) (oPort 0 + 0x014) 0 8)) < minLanes (trainS 1) 0 ∧
    portState (trainC 1) 0 = 1 ∧ cageHasLink (trainC 1) 0 = true ∧ laneMask (trainC 1) 0 0xFF = 1 ∧
    portState (trainC 2) 0 = 1 ∧ cageHasLink (trainC 2) 0 = false := by decide +kernel

/-- Cage 11, enabled, in a state, with its control link up and its island released; lane 0 in LINK. -/
def cageS (st : Nat) (g : Cage → Cage) : State :=
  let s := cageMod 11 g (rfSet (oCage 11 + 0x008) 0 3 st (rfSet (oCage 11 + 0x008) 9 1 1 (rfSet (oCage 11 + 0x040) 0 2 1
    (rfSet (oCage 11 + 0x004) 0 1 1 (sealS State.reset)))))
  { s with boot := { s.boot with released := [60] } }

/-- A frame whose CRC is right, and one whose CRC is wrong; a good and a bad commissioning record. -/
def frameZ (samples : List W16) : OclFrame := ⟨7, samples, 1, 0⟩
def frameOf (f : OclFrame) (d : W32) : OclFrame := { f with crc := crc32c (oclBytes f) + d }
def frameT (d : W32) : OclFrame := frameOf (frameZ (List.replicate 44 0x1234)) d
def recordT (d : W32) : StoterRecord := ⟨[1, 2, 3], crc32c [1, 2, 3] + d, 0, [], [], [], []⟩

theorem wit_cage_frames : cageEn (cageS 0 id) 11 = true ∧ 60 ∈ (cageS 0 id).boot.released ∧ cageState (cageS 0 id) 11 = 0 ∧
    cageState (cageS 1 id) 11 = 1 ∧ cageState (cageS 3 id) 11 = 3 ∧ rf (cageS 3 id) (oCage 11 + 0x008) 9 1 = 1 ∧
    (cageSt (cageS 3 id) 11).beat = false ∧ cageEn State.reset 11 = false ∧
    (cageSt (cageS 3 (fun c => { c with beat := true })) 11).beat = true ∧
    (cageSt (cageS 3 (fun c => { c with codesOn := true })) 11).codesOn = true ∧
    (cageSt (cageS 3 (fun c => { c with swap := .warming 0 })) 11).swap ≠ .none ∧
    recordGood (recordT 0) = true ∧ recordGood (recordT 1) = false := by
  decide +kernel

theorem frameOf_good (f : OclFrame) (d : W32) : oclGood (frameOf f d) = true ↔ f.samples.length = 44 ∧ d = 0 := by
  have h : oclBytes (frameOf f d) = oclBytes f := rfl
  have h2 : (frameOf f d).crc = crc32c (oclBytes f) + d := rfl
  have h3 : (frameOf f d).samples = f.samples := rfl
  rw [oclGood, decide_eq_true_iff, h, h2, h3, add_eq_left]

theorem wit_good_frame : oclGood (frameT 0) = true ∧ oclGood (frameT 1) ≠ true ∧ oclGood (frameOf (frameZ []) 0) ≠ true := by
  refine ⟨(frameOf_good _ _).mpr ⟨List.length_replicate, rfl⟩, ?_, ?_⟩
  · exact fun h => absurd ((frameOf_good _ _).mp h).2 (by decide)
  · exact fun h => absurd ((frameOf_good _ _).mp h).1 (by decide)

/-- The means of a channel over one frame and over two. -/
theorem test_monitor_means : monMean [[5]] 20 0 = 5 ∧ monMean [[5], [8]] 20 0 = 6 ∧ monMean [[5], [8]] 1 0 = 5 ∧
    monMean [] 20 0 = 0 := by decide

/-- A check in which only one tone stands, and one in which none does. -/
def toneT (t : Nat) (y : Option W32) : ToneReading := ⟨(List.range 9).map (fun i => if i = t then 100 else 0), 1000, y⟩
def toneN : ToneReading := ⟨List.replicate 9 0, 1000, none⟩

/-- R337: four times every other tone and half a percent of full scale, each at its edge. -/
theorem test_tone_check : tonePass 3 ⟨[0, 25, 0, 100], 20000, none⟩ = true ∧ tonePass 3 ⟨[0, 26, 0, 100], 20000, none⟩ = false ∧
    tonePass 3 ⟨[0, 25, 0, 100], 20001, none⟩ = false ∧ strongest ⟨[0, 25, 0, 100], 0, none⟩ = 3 ∧ strongest toneN = 0xF := by
  decide

/-- R341: steps of 16 codes up to 250 MHz per code, of 8 above; extrema deeper than a quarter of the range; a
fine sweep of steps of 2 around each. -/
theorem test_search : sweepStep 250 = 16 ∧ sweepStep 251 = 8 ∧
    sweepCands false 16 [0, 2, 0, 9, 0, 3, 0] = [48, 80] ∧ sweepCands true 16 [9, 9, 0, 9] = [32] ∧
    sweepCands false 8 [0, 4, 4, 0] = [8] ∧ fineCode false 16 48 [0, 0, 5, 1] = 20 := by decide

/-- One candidate at code 48 whose fine sweep puts it at 18, or at 20; the lowest that carries the tone is taken. -/
def sweepT (t : Nat) : RingSweep := ⟨[0, 0, 0, 9, 0, 9, 0], [([0, 5], toneT t none), ([0, 5], toneT 0 none)]⟩

theorem test_search_assigns : sweepFound 8 0 (sweepT 0) = [(18, toneT 0 none), (50, toneT 0 none)] ∧
    assigned (sweepFound 8 0 (sweepT 0)) 0 (fun _ => true) = some 18 ∧
    assigned (sweepFound 8 0 (sweepT 1)) 0 (fun _ => true) = some 50 ∧
    assigned (sweepFound 8 0 (sweepT 1)) 0 (fun c => decide (c < 50)) = none := by decide +kernel

/-- An identity word with its CRC (R336). -/
def idW (n : Nat) : W32 := BitVec.ofNat 32 (n + (crc8 (leBytes 3 n)).toNat * 2 ^ 24)

/-- Cage 11 with ring 0 in a state. -/
def ringSt (cage st : Nat) (g : Cage → Cage) : State := ringStateSet 11 0 st (cageS cage g)

/-- The word of this cage's modulator 0, and one of another cage. -/
theorem test_identity : frameOk (ringSt 3 3 id) 11 0 (idW (11 * 2 ^ 13)) = true ∧
    frameOk (ringSt 3 3 id) 11 0 (idW (10 * 2 ^ 13)) = false ∧
    frameOk (ringSt 3 3 id) 11 0 (idW (11 * 2 ^ 13) + 0x01000000) = false ∧
    frameOk (ringSt 3 3 id) 11 0 (idW (11 * 2 ^ 13 + 2 ^ 21)) = false := by decide +kernel

theorem wit_ring_checks : (∀ st ∈ [2, 3], cageState (ringSt st 3 (fun c => { c with searched := true })) 11 = st ∧
      (cageSt (ringSt st 3 (fun c => { c with searched := true })) 11).searched = true) ∧
    ringState (ringSt 3 3 id) 11 0 = 3 ∧ expectedTone (ringSt 3 3 id) 11 0 = 0 ∧ tonePass 0 (toneT 0 none) = true ∧
    tonePass 0 toneN = false ∧ tabGet 0 (cageSt (ringSt 3 3 id) 11).badTone 0 = 0 ∧
    tabGet 0 (cageSt (ringSt 3 3 id) 11).badFrame 0 = 0 ∧
    tabGet 0 (cageSt (ringSt 3 3 (fun c => { c with badTone := [(0, 1)], badFrame := [(0, 1)] })) 11).badTone 0 + 1 = 2 ∧
    tabGet 0 (cageSt (ringSt 3 3 (fun c => { c with badTone := [(0, 1)], badFrame := [(0, 1)] })) 11).badFrame 0 + 1 = 2 ∧
    (∀ st ∈ [1, 2, 4], ∀ cage ∈ [2, 3], ringState (ringSt cage st id) 11 0 = st ∧ cageState (ringSt cage st id) 11 = cage ∧
      ringMoved (ringSt cage st id) 11 0 = false ∧ ringTune (ringSt cage st id) 11 0 = 0 ∧
      nearCalib (ringSt cage st id) 11 0 400000 50 = true) ∧
    portOfCage (ringSt 3 4 id) 11 = none ∧ portOfCage (tapS [] id) 11 = some 0 ∧
    assigned (sweepFound 0 0 ⟨[], []⟩) 0 (fun _ => true) = none ∧ roleOf (ringSt 3 3 id) 11 0 = 1 := by decide +kernel

/-- Cage 11 enabled and searching, with no search made; with HOLD_OPEN set or not. -/
def searchS (hold : Nat) : State := rfSet (oCage 11 + 0x004) 1 1 hold (cageS 2 id)

theorem wit_cage_control :
    HostWrites (cageS 0 id) (oCage 11 + 0x004) 0 1 (b2n true) ∧ HostWrites (cageS 0 id) (oCage 11 + 0x004) 0 1 (b2n false) ∧
    HostWrites (cageS 3 id) (oCage 11 + 0x004) 1 1 (b2n true) ∧ HostWrites (searchS 1) (oCage 11 + 0x004) 1 1 (b2n false) ∧
    cageEn (cageS 0 id) 11 = true ∧ cageEn (sealS State.reset) 11 = false ∧
    HostWrites (sealS State.reset) (oCage 11 + 0x004) 0 1 (b2n true) ∧
    (∀ h ∈ [0, 1], cageState (searchS h) 11 = 2 ∧ (cageSt (searchS h) 11).searched = false ∧
      rf (searchS h) (oCage 11 + 0x004) 1 1 = h) ∧
    (∀ r ∈ List.range 27, ringState (cageS 3 id) 11 r = 0 ∨ (ringState (cageS 3 id) 11 r = 3 ∧
      (r ∈ assignedRings (cageS 3 id) 11 ∨ 24 ≤ r))) ∧
    (ringState (ringSt 3 3 id) 11 0 = 3 ∧ 0 ∈ assignedRings (ringSt 3 3 id) 11) ∧
    ¬ (ringState (ringSt 3 4 id) 11 0 = 0 ∨ ringState (ringSt 3 4 id) 11 0 = 3) ∧
    rf (cageS 3 (fun c => { c with beat := true })) (oCage 11 + 0x008) 3 1 ≠
      b2n (cageSt (cageS 3 (fun c => { c with beat := true })) 11).beat := by
  unfold HostWrites; decide +kernel

/-- Laser 0 on at position 0, with one reading at each threshold behind it, the spare enabled and in a state. -/
def laserS (spare : Nat) : State := rfSet (oCage 11 + 0x008) 4 2 spare (rfSet (oCage 11 + 0x008) 6 3 7
  (rfSet (oCage 11 + 0x300) 0 4 0 (rfSet (oCage 11 + 0x004) 2 1 1
    (cageS 3 (fun c => { c with lasers := [(0, 33)], warns := [(0, 1)], swaps := [(0, 1)] })))))

/-- A reading so many hundredths of a dB down. -/
def relT (s : State) (lo : Nat) : W16 := BitVec.ofNat 16 (65536 - 10 * rf s (oCage 11 + 0x010) lo 8)

theorem wit_laser_fades : tabGet 0 (cageSt (laserS 0) 11).lasers 0 % 2 = 1 ∧
    ¬ (toSigned 16 0 ≤ -10 * (rf (laserS 0) (oCage 11 + 0x010) 0 8 : Int)) ∧
    toSigned 16 (relT (laserS 0) 8).toNat ≤ -10 * (rf (laserS 0) (oCage 11 + 0x010) 8 8 : Int) ∧
    (toSigned 16 (relT (laserS 0) 0).toNat ≤ -10 * (rf (laserS 0) (oCage 11 + 0x010) 0 8 : Int) ∧
      ¬ (toSigned 16 (relT (laserS 0) 0).toNat ≤ -10 * (rf (laserS 0) (oCage 11 + 0x010) 8 8 : Int))) ∧
    tabGet 0 (cageSt (laserS 0) 11).warns 0 = 1 ∧ tabGet 0 (cageSt (laserS 0) 11).swaps 0 = 1 ∧ laserPos (laserS 0) 11 0 = 0 ∧
    0 ∉ (cageSt (laserS 0) 11).quar ∧ spareState (laserS 0) 11 = 0 ∧ rf (laserS 0) (oCage 11 + 0x004) 2 1 = 1 ∧
    spareState (laserS 2) 11 = 2 ∧ spareFor (laserS 2) 11 0 = false ∧
    tabGet 0 (cageSt (cageMod 11 (fun c => { c with warns := [(0, 2)] }) (laserS 2)) 11).warns 0 ≠ 1 := by decide +kernel

/-- A reading against no record, against one that it does not fit, and against darkness; lasers 0 and 1 on in a bring-up,
both compared, or one of them. -/
theorem wit_laser_compared : fadeFits (laserS 0) 11 0 0 = true ∧ fadeFits (laserS 0) 11 0 (relT (laserS 0) 8) = true ∧
    fadeFits (cageMod 11 (fun c => { c with record := some { recordT 0 with lasers := [5] } }) (laserS 0)) 11 0 0 = false ∧
    (∀ l ∈ [[], [1]], let s := cageS 2 (fun c => { c with lasers := [(0, 33), (1, 33)], compared := l })
      cageState s 11 = 2 ∧ (cageSt s 11).searched = false ∧ spareState s 11 = 0 ∧
        (l = [1] → ∀ i, i < 8 → tabGet 0 (cageSt s 11).lasers i % 2 = 1 → i ∈ setAdd (cageSt s 11).compared 0) ∧
        (l = [] → tabGet 0 (cageSt s 11).lasers 1 % 2 = 1 ∧ 1 ∉ setAdd (cageSt s 11).compared 0)) := by decide +kernel

/-- A quarantined ring that carries no lane (16 of a LINK position), and a lane whose rings are locked, or are not. -/
theorem wit_ring_recovers :
    (let s := ringStateSet 11 16 4 (cageS 3 (fun c => { c with searched := true }))
     ringState s 11 16 = 4 ∧ ringServes s 11 16 = false ∧ (cageSt s 11).searched = true) ∧
    ringServes (ringSt 3 4 id) 11 0 = true ∧
    (let s := (roleRings (ringSt 3 3 id) 11 0).foldl (fun s r => ringStateSet 11 r 3 s) (ringSt 3 3 id)
     laneSound s 11 0 = true) ∧ laneSound (ringSt 3 4 id) 11 0 = false := by decide +kernel

/-- Cage 11 with a swap under way; port 0 is on the cage where `port` says so. -/
def swapS (w : SwapSt) (port : Bool) : State :=
  let s := cageS 3 (fun c => { c with swap := w })
  if port then rfSet (oPort 0 + 0x004) 0 6 (3 + 11 * 4) s else s

theorem wit_spare_swaps : (cageSt (swapS (.warming 0) true) 11).swap = .warming 0 ∧
    roleOf (swapS (.warming 0) true) 11 0 = 1 ∧ portOfCage (swapS (.warming 0) true) 11 = some 0 ∧
    roleOf (swapS (.warming 7) true) 11 7 = 0 ∧ portOfCage (swapS (.warming 0) false) 11 = none ∧
    (cageSt (swapS (.noticed 7) false) 11).swap = .noticed 7 ∧ cageHeld (swapS (.noticed 7) false) 11 = false ∧
    portOfCage (swapS (.noticed 7) false) 11 = none ∧
    laserAt (swapS (.noticed 7) false) 11 7 ≠ 8 ∧ tonePass 0 (toneT 0 none) = true ∧ tonePass 0 toneN = false := by decide +kernel

theorem wit_swap_notice : laneActive (sendTo (peerHaddr (portS 2 id) 0) (.swapAck 7) (portS 2 id)) 0 7 = true ∧
    laneActive (sendTo (peerHaddr (repairS 0 0) 0) (.swapAck 7) (repairS 0 0)) 0 7 = false := by
  decide +kernel

/-! ### Statements about the health monitor, the twin and checkpoints -/

/-- A state with one event term of 65,535, whose age is 0 (all of it is left), with a report that waits and a half-life of
a minute. -/
def riskS : State := rfSet 0x4004 16 8 1 { State.reset with log := { logReset with terms := [(65535, 0)], reports := [(cDEVICE_LOST, none)] } }

theorem wit_risk : decayOk riskS [2 ^ 32] = true ∧ decayOk riskS [] = false ∧
    rf riskS 0x4004 0 16 ≤ min 65535 (standing riskS + eventTerms riskS [2 ^ 32]) ∧ rf riskS 0x4000 16 1 = 0 ∧
    ¬ (rf State.reset 0x4004 0 16 ≤ min 65535 (standing State.reset + eventTerms State.reset [])) ∧
    decayOk State.reset [] = true ∧ devices (rfSet (oCommon + 8) 0 14 1 riskS) ≠ 0 ∧
    haddrOf (portS 2 id) 0 = some (haddr (portS 2 id)) := by decide +kernel

/-- What is left of a term after one half-life of a minute, in units of 2^-32: a half, rounded down. -/
theorem test_half_life : decayIs 1 60000 (2 ^ 31) = true ∧ decayIs 1 60000 (2 ^ 31 + 1) = false := by decide +kernel

/-- Entry 255 of a collective of ranks 0 and 1, one block, staged in the 2 MiB at the base of Loft 0. -/
def collS : State :=
  let w (s : State) (o : Nat) (v : W32) : State := { s with fab := { s.fab with coll := tabSet 0 s.fab.coll (255 * 16 + o / 4) v } }
  let s := rfSet (oCommon + 8) 0 14 2 hostS
  let s := { s with fab := { s.fab with order := [(1, 1)] } }
  w (w (w (w (w s 0xC 1) 0x10 (1 <<< 13)) 0x14 (BitVec.ofNat 32 (loftBase 0))) 0x18 (BitVec.ofNat 32 (loftBase 0 / 2 ^ 32))) 0x1C 2

theorem wit_coll_entry : objTaken collS none (1, oColl + 0x004, 31) = false ∧ HostServed collS (oColl + 0x004) 31 ∧ anyRun collS = false ∧ collLegal collS 255 0 0 = true ∧
    HostServed hostS (oColl + 0x004) 31 ∧ collLegal hostS 255 0 0 = false := by
  unfold HostServed; decide +kernel

/-- A twin state, with the twin at hall address 1. -/
def twinS (v : Nat) : State := rfSet 0x4018 9 13 1 (rfSet 0x4018 0 3 v (portS 2 id))

theorem wit_twin : twinState (twinS 0) ≠ 2 ∧ twinState (twinS 2) = 2 ∧ (0 : BitVec 1) = (twinS 0).boot.straps.twinSide ∧
    (1 : BitVec 1) ≠ (twinS 0).boot.straps.twinSide ∧ (0 : BitVec 3) = (twinS 0).boot.straps.feedId ∧
    (1 : BitVec 3) ≠ (twinS 0).boot.straps.feedId ∧ paired (twinS 1) = true ∧ (twinS 1).ckpt.cut = none ∧
    rankOf (twinS 1) (twinHaddr (twinS 1)) = some 1 ∧ paired (rfSet 0x4018 0 3 4 State.reset) = true ∧
    rankOf (rfSet 0x4018 0 3 4 State.reset) (twinHaddr (rfSet 0x4018 0 3 4 State.reset)) = none := by decide +kernel

/-- A cut that every Groom is frozen for. -/
def cutF (shadow storage streamed : Bool) : Cut := cutT shadow storage streamed [0, 1, 2, 3, 4, 5, 6, 7]

/-- A state in which it is under way, with checkpoint range 0 of one grain, which can be read, or not. -/
def cutS (c : Cut) (bad : Bool) : State :=
  let s := regSet (oRange 0 2) 1 { State.reset with ckpt := { ckptReset with cut := some c } }
  if bad then { s with mem := { s.mem with badHbm := [0] } } else s

/-- A shadow that this device is to send for step 3 from slot 1, whose region is on no stack that waits, or on one. -/
def serveS (wait : Bool) : State :=
  let s := rfSet 0x4010 0 10 1 { State.reset with ckpt := { ckptReset with serving := [⟨1, 1, 3⟩] } }
  if wait then rfSet (oHbm (stackOf (2 ^ 30)) + 0x008) 3 2 3 s else s

theorem touches_none {p : Nat → Bool} {a n : Nat} (h : ∀ k, k < 8 → p k = false) : touches p a n = false := by
  simp only [touches, Bool.and_eq_false_iff, List.any_eq_false, List.mem_range]
  exact Or.inr fun k hk => by rw [h k hk]; simp

theorem touches_first {p : Nat → Bool} {a n : Nat} (h : a < hbmTop) (hn : 0 < n) (ha : a % 256 = 0) (hk : stackOf a < 8)
    (hp : p (stackOf a) = true) : touches p a n = true := by
  simp only [touches, Bool.and_eq_true, decide_eq_true_eq, List.any_eq_true, List.mem_range, beq_iff_eq]
  exact ⟨h, stackOf a, hk, hp, 0, by omega, by rw [show (a / 256 + 0) * 256 = a by omega]⟩

theorem wit_serving : stackWaits (serveS false) (slotBase (serveS false) 1) (slotSize (serveS false)) = false ∧
    stackWaits (serveS true) (slotBase (serveS true) 1) (slotSize (serveS true)) = true := by
  have hb : ∀ b, slotBase (serveS b) 1 = 2 ^ 30 ∧ slotSize (serveS b) = 2 ^ 30 := by decide +kernel
  unfold stackWaits
  rw [(hb false).1, (hb false).2, (hb true).1, (hb true).2]
  exact ⟨touches_none (by decide +kernel),
    touches_first (by decide) (by decide) (by decide) (by decide +kernel) (by decide +kernel)⟩

theorem wit_checkpoint : (servingGo (cutS (cutF true false false) false)).ckpt.cut = some (cutF true false false) ∧
    (cutF true false false).frozen.length = 8 ∧ usedRanges (cutS (cutF true false false) false) = [(0, 1)] ∧
    (usedRanges (cutS (cutF true false false) false)).any
      (fun r => stackWaits (cutS (cutF true false false) false) r.1 (256 * r.2)) = false ∧
    (let s := rfSet (oHbm 0 + 0x008) 3 2 3 (cutS (cutF true false false) false)
     (servingGo s).ckpt.cut = some (cutF true false false) ∧
       (usedRanges (servingGo s)).any (fun r => stackWaits (servingGo s) r.1 (256 * r.2)) = true) ∧
    (servingGo State.reset).ckpt.cut = none ∧
    (rangesRead (cutS (cutF true false false) false)).1 = false ∧ (rangesRead (cutS (cutF true false false) true)).1 = true ∧
    storageLeft (cutS (cutF false true true) false) = false := by decide +kernel

/-- A manifest whose range 0 is one grain at address 0. -/
def manR : List Byte := List.replicate 136 0 ++ [1]

/-- A record of this device alone. -/
def recR : RestartRecord := ⟨0, 0, 0, 0, [0x4000], []⟩

/-- A restore that has asked for grains `req` and holds `got` of them. -/
def restT (req : Nat × Nat) (m : List Byte) (next total : Nat) (got : List Nat) : Restore :=
  ⟨recR, 0, [m], m, some 0, 0, [(0, some req)], next, total, got, [], []⟩

/-- A state with it; stack 0 at HALT, in TEST, or neither. -/
def restS (halt test : Nat) (x : Restore) : State :=
  rfSet (oHbm 0 + 0x008) 3 2 halt (rfSet (oHbm 0 + 0x008) 0 2 test { State.reset with ckpt := { ckptReset with restore := some x } })

/-- What a request of `restT` asks for, and whether more of it is missing. -/
theorem restT_asked (req : Nat × Nat) (m : List Byte) (next total i : Nat) (got : List Nat) (h : req.1 ≤ i ∧ i < req.1 + req.2) :
    (∃ e ∈ (restT req m next total got).reqs, ∃ r, e.2 = some r ∧ r.1 ≤ i ∧ i < r.1 + r.2) :=
  ⟨(0, some req), List.mem_singleton.mpr rfl, req, rfl, h.1, h.2⟩

theorem restT_more (req : Nat × Nat) (m : List Byte) (next total : Nat) (got : List Nat) :
    (∃ e ∈ (restT req m next total got).reqs, ∃ r, e.2 = some r ∧ (restT req m next total got).got.length < r.2) ↔
      got.length < req.2 := by
  constructor
  · rintro ⟨e, he, r, hr, h⟩
    rw [List.mem_singleton.mp he] at hr
    cases hr
    exact h
  · intro h
    exact ⟨(0, some req), List.mem_singleton.mpr rfl, req, rfl, h⟩

/-- A grain of the manifest, one of its range, whose stack serves it, waits, or is in TEST, and one that it does not have. -/
theorem wit_restore_grain : grainAddr manR (16 + snapLen / 256) = some 0 ∧ 0 + 256 ≤ hbmTop ∧ grainAddr manR (16 + snapLen / 256 + 1) = none ∧
    (∀ p ∈ [(0, 0), (3, 0), (0, 1)], let s := restS p.1 p.2 (restT (16, 32) manR 16 34832 [])
      s.ckpt.restore = some (restT (16, 32) manR 16 34832 []) ∧ stackWaits s 0 256 = decide (p.1 = 3) ∧
        touchesTest s 0 256 = decide (p.2 = 1) ∧ (mRanges manR).any (fun r => stackWaits s r.2.1 (256 * r.2.2.1)) = decide (p.1 = 3)) ∧
    ¬ ((List.range 16).length < 16) ∧ (15 ∉ List.range 15) ∧
    (restT (16, 1) manR 16 34832 []).nextGrain < (restT (16, 1) manR 16 34832 []).total ∧
    (restT (16, 1) manR 34832 34832 []).total ≤ (restT (16, 1) manR 34832 34832 []).nextGrain ∧
    (restT (16, 1) manR 34832 34832 []).nextGrain ≠ 16 := by decide +kernel

theorem wit_restore_again :
    let s := restS 0 0 (restT (16, 4096) [] 4112 34832 [])
    (restoreNext (restoreParked s)).ckpt.restore = some (restT (16, 4096) [] 4112 34832 []) ∧
    tabGet none (restT (16, 4096) [] 4112 34832 []).reqs (0 : BitVec 5).toNat = some (16, 4096) ∧
    ownRank pairS = 0 ∧ 1 < devices pairS := by decide +kernel

theorem mF_left (a b : List Byte) (lo n : Nat) (h : lo + n ≤ a.length) : mF (a ++ b) lo n = mF a lo n := by
  unfold mF
  rw [List.drop_append_of_le_length (by omega), List.take_append_of_le_length (by rw [List.length_drop]; omega)]

theorem mF_right (a b : List Byte) (n v : Nat) : mF (a ++ (leBytes n v ++ b)) a.length n = v % 256 ^ n := by
  unfold mF
  rw [List.drop_left, List.take_left' (leBytes_length n v), leNat_leBytes]

/-- MAGIC and VERSION of a manifest. -/
def manH : List Byte := [0x4F, 0x56, 0x41, 0x4D, 1, 0]

/-- A manifest up to MCRC: nothing in use, and the snapshot's CHECK. -/
def manB (chk : W32) : List Byte := (manH ++ zeros 1146) ++ (leBytes 4 chk.toNat ++ zeros 2936)

/-- The manifest. -/
def manT (chk : W32) : List Byte := manB chk ++ leBytes 4 (crc32c (manB chk)).toNat

theorem man_head_length : (manH ++ zeros 1146).length = 1152 := by rw [List.length_append, zeros_length]; rfl

theorem manB_length (chk : W32) : (manB chk).length = 4092 := by
  rw [manB, List.length_append, man_head_length, List.length_append, leBytes_length, zeros_length]

/-- Bytes 6 to 1,151 are zero. -/
theorem man_zero (chk : W32) (lo n : Nat) (h : 6 ≤ lo) (h2 : lo + n ≤ 1152) : mF (manT chk) lo n = 0 := by
  rw [manT, mF_left _ _ _ _ (by rw [manB_length]; omega), manB, mF_left _ _ _ _ (by rw [man_head_length]; omega), mF,
    List.drop_append, List.drop_eq_nil_of_le (by exact h), List.nil_append, zeros, List.drop_replicate, List.take_replicate]
  exact leNat_zeros _

theorem man_check (chk : W32) : mF (manT chk) 1152 4 = chk.toNat := by
  have h := mF_right (manH ++ zeros 1146) (zeros 2936) 4 chk.toNat
  rw [man_head_length] at h
  rw [manT, mF_left _ _ _ _ (by rw [manB_length]; omega), manB, h]
  exact Nat.mod_eq_of_lt chk.isLt

theorem man_ok (chk : W32) : manifestOk (manT chk) = true := by
  have h1 : (manT chk).length = 4096 := by rw [manT, List.length_append, manB_length, leBytes_length]
  have h2 : (manT chk).take 4092 = manB chk := by unfold manT; exact List.take_left' (manB_length chk)
  have h3 : mF (manT chk) 4092 4 = (crc32c (manB chk)).toNat := by
    have := mF_right (manB chk) [] 4 (crc32c (manB chk)).toNat
    rw [manB_length, List.append_nil] at this
    rw [manT, this]
    exact Nat.mod_eq_of_lt (crc32c (manB chk)).isLt
  have h4 : (manT chk).take 4 = [0x4F, 0x56, 0x41, 0x4D] := by
    rw [manT, manB, List.append_assoc, List.append_assoc]; rfl
  have h5 : mF (manT chk) 4 2 = 1 := by
    rw [manT, mF_left _ _ _ _ (by rw [manB_length]; omega), manB, mF_left _ _ _ _ (by rw [man_head_length]; omega),
      mF_left _ _ _ _ (by decide)]
    decide
  simp only [manifestOk, h1, h2, h3, h4, h5, and_self, decide_true]

theorem man_ranges (chk : W32) : mRanges (manT chk) = [] := by
  unfold mRanges
  rw [List.filter_eq_nil_iff]
  intro x hx
  rw [List.mem_map] at hx
  obtain ⟨i, hi, rfl⟩ := hx
  rw [List.mem_range] at hi
  simp only [man_zero chk (136 + 16 * i) 4 (by omega) (by omega), Nat.lt_irrefl, decide_false, Bool.false_eq_true,
    not_false_eq_true]

/-- The sixteenth grain of a manifest completes it. -/
theorem wit_restore_manifest (chk : W32) : manifestOk ((manT chk).take (256 * 15) ++ (manT chk).drop (256 * 15)) = true ∧
    ((manT chk).drop (256 * 15)).length = 256 ∧ (manT chk).drop (256 * (15 + 1)) = [] := by
  have hl : (manT chk).length = 4096 := by rw [manT, List.length_append, manB_length, leBytes_length]
  refine ⟨by rw [List.take_append_drop]; exact man_ok chk, by rw [List.length_drop, hl], ?_⟩
  rw [List.drop_eq_nil_iff, hl]

/-- Any snapshot of the right length does, with its CHECK in the manifest and no range in use; one whose
CHECK is another does not. -/
theorem wit_restore_ends (f : Nat → Byte) (d : W32) :
    let snap := (List.range snapLen).map f
    restoredOk (manT (imageCheck snap 64)) snap [] = true ∧
      (d ≠ 0 → restoredOk (manT (imageCheck snap 64 + d)) snap [] = false) := by
  intro snap
  have hs : snap.length = snapLen := by rw [List.length_map, List.length_range]
  constructor
  · rw [restoredOk, man_ranges, man_check, hs]
    simp
  · intro hd
    rw [restoredOk, man_ranges, man_check, hs, Bool.and_eq_false_iff]
    left
    rw [decide_eq_false_iff_not]
    intro h
    have h2 : imageCheck snap 64 = imageCheck snap 64 + d := BitVec.eq_of_toNat_eq h.2.1
    apply hd
    have := congrArg (fun y => y - imageCheck snap 64) h2
    simpa [add_comm] using this.symm

/-- The manifest of this device as the coordinator has read it. -/
def seenT (ms : List (Option (List Byte))) : RestartSeen := ⟨ms, [], [], none⟩

/-- A record of this device alone that restores from slot A of the device at hall address 1, or of this one. -/
def recA (from_ : Nat) : RestartRecord := { recR with ranks := [BitVec.ofNat 32 (from_ * 2 ^ 15)] }

/-- The entry of a restart of one rank. -/
def entR : List Byte := entryOf 0x0031 9 (leBytes 8 0 ++ leBytes 2 1)

/-- Every premise on the state and the record: the turn of the command, whether the rank is refused, and where each
rank's shadow is. -/
theorem wit_restart_begins :
    Begins 0x0031 9 (fun e => decide (entryField e 16 2 = 1)) (accepted entR hostS) (begun entR hostS) ∧
    isSealed (begun entR hostS) = true ∧ anyRun (begun entR hostS) = false ∧ tackNow (begun entR hostS) ≠ 3 ∧
    rankRefused (begun entR hostS) recR = false ∧
    (∀ p ∈ [(recR, some 0, false, 2), (recA 1, some 0, false, 0), (recA 0, some 0, true, 0)],
      recordRank (begun entR hostS) p.1 = p.2.1 ∧
      p.1.ranks.all (fun w => servesHere (begun entR hostS) w == p.2.2.1 && bits w.toNat 13 2 == p.2.2.2) = true) ∧
    heldStep (begun entR hostS) 0 ≠ recR.step.toNat ∧
    recordRank (begun entR hostS) { recR with ranks := [1] } = none := by
  refine ⟨begins_of (by decide +kernel), ?_⟩
  decide +kernel

/-- What the coordinator has read: a set of one manifest, none, and one that this device reads itself. -/
theorem wit_restart_set (chk : W32) :
    (manifestsRead (recA 1) (seenT [some (manT chk)]) (begun entR hostS)).1 = [some (manT chk)] ∧
    (manifestsRead recR (seenT [some (manT chk)]) (begun entR hostS)).1 = [some []] ∧
    (manifestsRead recR (seenT [none]) (begun entR hostS)).1 = [none] ∧
    (seenT [some (manT chk)]).manifests.length = recR.ranks.length := by
  have h : haddr (begun entR hostS) = 0 := by decide +kernel
  refine ⟨?_, ?_, ?_, rfl⟩ <;> simp [manifestsRead, servesHere, recordRank, recA, recR, seenT, h, bits]

/-- How a set is judged: good, of another step, of another stream, and bad; a restore whose snapshot is zeros is judged so
too. -/
theorem wit_restart (chk : W32) (s : State) (hs : s.job = jobReset) :
    let m := manT chk
    restartStop recR [m] s = none ∧ restartStop { recR with step := 1 } [m] s = some cNO_CONSISTENT_SET ∧
    restartStop { recR with streams := [(1, 0)] } [m] s = some cRESUME_SKEW ∧
    restartStop recR [zeros 256] s = some cMANIFEST_BAD := by
  intro m
  have hm : mF m 16 8 = 0 := man_zero chk 16 8 (by omega) (by omega)
  have hc : (cursorAt s.job.start s.job.batch 0).toNat = 0 := by rw [hs]; decide +kernel
  have hb : manifestOk (zeros 256) = false := by decide +kernel
  have hk : manifestOk m = true := man_ok chk
  have hr : resumeSkew s recR [m] = false := by
    simp [m, resumeSkew, recR, man_zero chk 24 8 (by omega) (by omega), man_zero chk 32 4 (by omega) (by omega),
      man_zero chk 40 16 (by omega) (by omega), hc]
  refine ⟨?_, ?_, ?_, ?_⟩
  · simp [restartStop, hk, hm, hr, show recR.step = 0 from rfl]
  · simp [restartStop, hk, hm, recR]
  · simp [restartStop, hk, hm, resumeSkew, recR]
  · simp [restartStop, hb]

theorem wit_bad_manifest : manifestOk (zeros 256) = false := by decide +kernel

/-- A native image of a paddock of one device, which declares some bindings. -/
def imgT (im : SignedImage) (binds : List Bind) : ProgramImage :=
  ⟨im, false, 0, ⟨[1, 1, 1, 1, 1], [[0, 0, 0, 0, 0]], false⟩, 5, [1], true, none, binds, [], 0, [], [], [], none, [], []⟩

/-- An image that authenticates, under a contract version the loader supports: what the keys verify and which
versions those are is not the spec's to say (assumption 6), so it is the one premise left. -/
theorem wit_load_begins :
    let e := entryOf 0x0030 9 (leBytes 8 0 ++ leBytes 4 512)
    Begins 0x0030 9 (fun e => decide (entryField e 16 4 = 512)) (accepted e (rfSet (oCommon + 8) 0 14 1 hostS))
      (begun e (rfSet (oCommon + 8) 0 14 1 hostS)) := begins_of (by decide +kernel)

theorem wit_load (im : SignedImage) :
    (rfSet (oCommon + 8) 0 14 1 hostS).boot.log.length + 2 ≤ 256 ∧ isSealed (rfSet (oCommon + 8) 0 14 1 hostS) = true ∧
    anyRun (rfSet (oCommon + 8) 0 14 1 hostS) = false ∧
    (regGet (rfSet (oCommon + 8) 0 14 1 hostS) (oSec + 0x024)).toNat ≤ imgSvn im ∧
    (!(imgT im []).portable || Config.contractOk (imgT im []).contract) = true ∧
    shapeFits (devices (rfSet (oCommon + 8) 0 14 1 hostS)) (loadShape (imgT im []) 1) = true ∧
    shapeFits (devices (rfSet (oCommon + 8) 0 14 2 hostS)) (loadShape (imgT im []) 2) = false ∧
    needsFit (imgT im []) = true ∧ needsFit (imgT im [.hbm 7 (2 ^ 40)]) = false := by
  refine ⟨by decide +kernel, by decide +kernel, by decide +kernel, ?_, rfl, ?_, ?_, ?_, ?_⟩
  · have : (regGet (rfSet (oCommon + 8) 0 14 1 hostS) (oSec + 0x024)).toNat = 0 := by decide +kernel
    omega
  · have : loadShape (imgT im []) 1 = ⟨[1, 1, 1, 1, 1], [[0, 0, 0, 0, 0]], false⟩ := rfl
    rw [this]; decide +kernel
  · have : loadShape (imgT im []) 2 = ⟨[1, 1, 1, 1, 1], [[0, 0, 0, 0, 0]], false⟩ := rfl
    rw [this]; decide +kernel
  · have : needsFit (imgT im []) = needsFit (imgT ⟨[], [], []⟩ []) := rfl
    rw [this]; decide +kernel
  · have : needsFit (imgT im [.hbm 7 (2 ^ 40)]) = needsFit (imgT ⟨[], [], []⟩ [.hbm 7 (2 ^ 40)]) := rfl
    rw [this]; decide +kernel

/-! ### Statements about reset and boot -/

/-- In recovery wait, with port 0 of the recovery link in a state. -/
theorem wit_resets : HostServed hostS 0x3004 8 ∧ rf (rfSet (oHbm 7 + 0x008) 3 2 3 hostS) (oHbm 7 + 0x008) 3 2 = 3 ∧
    (∀ st ∈ [0, 2], inRecovery (linkS st) = true ∧ (linkS st).boot.straps.clkMode ≠ 3 ∧ linkUp (linkS st) = decide (st = 2)) ∧
    (∀ d, d < 8 → dirtyLines State.reset d = []) := by
  unfold HostServed; decide +kernel

/-- The digest that the fuses hold is not the spec's to say (assumption 6), so a load that passes stays a premise. -/
theorem wit_trims : State.reset.boot.trimOk = false ∧ State.reset.boot.trimFail = false ∧ trimPass [] [] = false ∧
    State.reset.boot.trimTries < 2 ∧ ({ bootReset with trimTries := 2 } : Boot).trimFail = false := by
  refine ⟨rfl, rfl, rfl, by decide, rfl⟩

/-- Every island released, with some groups ready; the straps at reset. -/
def outS (ready : List Group) : State :=
  { State.reset with boot := { State.reset.boot with released := List.range 64, ready := ready, cold := true } }
def straps0 : Straps := bootReset.straps

theorem wit_straps_and_groups : ({ bootReset with rstOut := true } : Boot).latched = false ∧
    (∀ b ∈ List.replicate 8 (94 : Byte), b.toNat < 95) ∧
    (∀ k, k < 8 → (0 : Byte).toNat < rf State.reset (oHbm k + 0x014) 0 8) ∧
    Group.hbmDies ∉ (outS []).boot.ready ∧ Group.computeDies ∉ (outS []).boot.ready ∧
    (∀ i ∈ hbmIslands ++ dieIslands, i ∈ (outS []).boot.released) ∧ (outS []).boot.cold = true ∧
    Group.hbmDies ∈ (outS [.hbmDies]).boot.ready ∧ ({ straps0 with clkMode := 3 } : Straps).clkMode = 3 ∧ straps0.clkMode ≠ 3 := by
  decide +kernel

/-- A signed image of a header of zeros and no body, with a key. -/
def img0 : SignedImage := ⟨zeros 512, [], zeros 57⟩

/-- The boot and management islands released, at boot stage `st`. -/
def bootS (st : Nat) (g : Boot → Boot) : State :=
  rfSet oSec 0 3 st { State.reset with boot := g { State.reset.boot with rstOut := true, latched := true, released := [61, 62, 63] } }

theorem wit_islands : 0 ∉ (bootS 2 (fun b => { b with ready := [.hbmDies] })).boot.released ∧
    mayRelease (bootS 2 (fun b => { b with ready := [.hbmDies] })) 0 = true ∧
    mayRelease (bootS 2 (fun b => { b with released := [61] })) 62 = true ∧ rf (bootS 2 id) oSec 3 2 ≠ 3 ∧
    (linkPort (rfSet oSec 3 2 2 (bootS 2 (fun b => { b with ready := [.computeDies] }))) 0 = true ∧
      mayRelease (rfSet oSec 3 2 2 (bootS 2 (fun b => { b with ready := [.computeDies] }))) 56 = true) ∧
    linkPort (bootS 2 (fun b => { b with ready := [.computeDies] })) 0 = false ∧
    61 ∉ (bootS 0 (fun b => { b with released := [] })).boot.released ∧
    (bootS 0 id).boot.straps.clkMode ≠ 3 ∧ mayRelease State.reset 0 = false ∧
    mayRelease (bootS 2 (fun b => { b with ready := [.computeDies] })) 59 = true ∧
    (∀ q, q < 4 → 56 + q ∉ (bootS 2 (fun b => { b with ready := [.computeDies] })).boot.released) ∧
    planLegal (bootS 2 (fun b => { b with ready := [.computeDies] })) = true ∧
    (mayRelease (bootS 2 (fun b => { b with ready := [.computeDies], released := [61, 62, 63, 56] })) 59 = true ∧
      ¬ (∀ q, q < 4 → 56 + q ∉ (bootS 2 (fun b => { b with ready := [.computeDies], released := [61, 62, 63, 56] })).boot.released)) ∧
    diesHeld (bootS 2 (fun b => { b with ready := [.hbmDies] })) = true ∧
    diesHeld (bootS 2 (fun b => { b with ready := [.hbmDies], released := [1] })) = false ∧
    rf (rfSet oSec 3 2 3 (bootS 0 (fun b => { b with released := [61, 63] }))) oSec 3 2 = 3 ∧
    mayRelease (rfSet oSec 3 2 3 (bootS 0 (fun b => { b with released := [61, 63] }))) 62 = true ∧
    planLegal (rfSet (oPort 0 + 0x004) 2 4 12 (rfSet (oPort 0 + 0x004) 0 2 3
      (bootS 2 (fun b => { b with ready := [.computeDies] })))) = false := by decide +kernel

/-- Whether a key verifies an image is not the spec's to say (assumption 6), so `imgAuth` stays a premise. -/
theorem wit_boot_image : (rf (bootS 1 id) oSec 0 3 < 2 ∧ 62 ∈ (bootS 1 id).boot.released ∧
      63 ∈ (bootS 1 id).boot.released ∧ (bootS 1 id).boot.images.length + 1 ≤ 3) ∧
    rf (bootS 1 id) oSec 3 2 ≠ 1 ∧ imgFormed img0 = true ∧ imgFormed ⟨[], [], []⟩ = false ∧
    linkUp (rfSet oSec 3 2 2 (bootS 1 id)) = false ∧
    linkUp (rfSet (oPort 0 + 0x010) 0 3 2 (rfSet oSec 3 2 2 (bootS 1 id))) = true ∧
    imgAuth img0 1 (bootSlot 1) = false ∧
    imgSvn img0 < fusedSvn (bootS 1 (fun b => { b with svn := [(1, 5)] })) 1 := by
  refine ⟨by decide +kernel, by decide +kernel, by decide +kernel, by decide +kernel, by decide +kernel, by decide +kernel,
    by decide +kernel, ?_⟩
  have h : imgSvn img0 = 0 := by decide +kernel
  have h2 : tabGet 0 (bootS 1 (fun b => { b with svn := [(1, 5)] })).boot.svn 1 = 5 := by decide +kernel
  rw [h, fusedSvn, h2]
  omega

theorem wit_block_resets : 0 ∈ (bootS 3 (fun b => { b with released := [0] })).boot.released ∧
    HostServed hostS 0x3010 31 ∧ ¬ ((12 : BitVec 5).toNat < kindCount (5 : BitVec 3).toNat) ∧
    61 ∈ (bootS 3 id).boot.released ∧ (11 : BitVec 5).toNat < kindCount (5 : BitVec 3).toNat ∧ hostS.boot.block = none ∧
    anyRun hostS = false ∧ (bootS 3 (fun b => { b with block := some (4, 23) })).boot.block = some (4, 23) ∧
    blockQuiet (bootS 3 id) 4 23 = true ∧ blockQuiet (portMod 23 sentT (bootS 3 id)) 4 23 = false := by
  unfold HostServed; decide +kernel

/-- MSI-X enabled, with a vector unmasked. -/
def msixS (v : Nat) (s : State) : State := rf2Set (0x400C + 16 * v) 0 1 0 (cfgSet 0x050 0x80000000 s)

/-- ATTEST with a nonce of ones. -/
def entA : List Byte := entryT (.attest 7 (List.replicate 32 1) 4096)

theorem wit_seal : rf (bootS 2 (fun b => { b with released := [56, 57, 58, 59] })) oSec 0 3 = 2 ∧
    isSealed (bootS 2 id) = false ∧ (∀ q, q < 4 → 56 + q ∈ (bootS 2 (fun b => { b with released := [56, 57, 58, 59] })).boot.released) ∧
    rf (rfSet oSec 3 2 1 (bootS 1 id)) oSec 3 2 = 1 ∧ rf (rfSet oSec 3 2 1 (bootS 1 id)) oSec 0 3 < 2 ∧
    (bootS 1 id).boot.straps.clkMode ≠ 3 ∧ inRecovery (bootS 4 id) = true ∧ isSealed (bootS 4 id) = false ∧
    rf (rfSet (oSec + 0x060) 0 2 3 (bootS 2 id)) (oSec + 0x060) 0 2 = 3 ∧ rf (bootS 2 id) (oSec + 0x060) 0 2 ≠ 3 ∧
    rf2 (bootS 4 id) 0x10 0 2 ≠ 1 ∧ rf2 (rf2Set 0x10 0 2 1 (bootS 4 id)) 0x10 0 2 = 1 ∧
    msixOpen State.reset 3 = false ∧ msixOpen (msixS 3 State.reset) 3 = true ∧
    isSealed (begun entA (ringS hostS)) = true ∧ CplReady (begun entA (ringS hostS)) 7 ∧
    CplReady (begun entA (ringS (bootS 2 id))) 7 ∧ isSealed (begun entA (ringS (bootS 2 id))) = false := by
  unfold CplReady; decide +kernel

theorem wit_attest : ∀ s ∈ [ringS hostS, ringS (bootS 2 id)], hostTurn 0x0020 7
    (fun e => decide ((e.drop 8).take 32 = List.replicate 32 1 ∧ entryField e 40 8 = 4096)) (accepted entA s) =
      some ⟨entA, false, false⟩ := by decide +kernel

/-- TACK_SET to 1 and to 3. -/
def entT (x : BitVec 2) : List Byte := entryT (.tackSet 7 x)

/-- A change to tack 1 under way, with every island there already. -/
def tackS : State := rfSet 0x3040 4 1 1 (rfSet 0x3040 0 2 1 (ringS
  (begun (entT 1) { hostS with power := { hostS.power with tack := (List.range 64).map (fun i => (i, 1)) } })))

/-- Compute island 0 running. -/
def coreS : State := rfSet (oCore 0 + 0x004) 0 1 1 hostS

theorem wit_tack :
    (∀ x ∈ [0, 1, 2, 3], ∀ s ∈ [ringS hostS, ringS coreS, ringS State.reset], hostTurn 0x0010 7
        (fun e => decide (entryField e 8 1 = (BitVec.ofNat 2 x).toNat)) (accepted (entT (BitVec.ofNat 2 x)) s) =
          some ⟨entT (BitVec.ofNat 2 x), false, false⟩ ∧ CplReady (begun (entT (BitVec.ofNat 2 x)) s) 7) ∧
    isSealed (ringS hostS) = true ∧ isSealed State.reset = false ∧
    tackRefused 3 hostS = false ∧ tackNow hostS ≠ 3 ∧ tackBusy hostS = false ∧ tackRefused (tackNow hostS) hostS = false ∧
    tackRefused 3 coreS = true ∧ HostWrites hostS 0x3040 0 2 3 ∧ HostWrites coreS 0x3040 0 2 3 ∧ tackTarget coreS ≠ 3 ∧
    tackBusy tackS = true ∧ (∀ j, j < 64 → tabGet 0 tackS.power.tack j = tackTarget tackS) ∧
    tackS.host.running = [⟨entT 1, true, false⟩] ∧ entryOp (entT 1) = 0x0010 ∧ entryTag (entT 1) = 7 ∧ CplReady tackS 7 ∧
    (let s := { tackS with power := { tackS.power with tack := [(47, 3)] } }
     tabGet 0 s.power.tack 47 = 3 ∧ tackTarget s ≠ 3 ∧ tackBusy s = true) := by
  unfold HostWrites CplReady; decide +kernel

/-- The cap's clock at `lim` MHz, with the host's cap at `cap` W and the average over 1 ms at `avg` W. -/
def capS (lim cap avg : Nat) : State :=
  rfSet 0x1000 0 16 cap (rfSet 0x1004 0 16 avg { hostS with power := { hostS.power with capLimit := lim } })

theorem wit_power : (capped (capS 600 100 101) = true ∧ (capS 600 100 101).power.capLimit ≤ 600 ∧
      effCap (capS 600 100 101) < rf (capS 600 100 101) 0x1004 0 16) ∧
    ¬ (effCap (capS 600 100 100) < rf (capS 600 100 100) 0x1004 0 16) ∧
    (let c := effCap (capS 1000 100 0); c < 101 ∧ 5 * c < 4 * 126 ∧ ¬ (c < 100 ∨ 5 * c < 4 * 125) ∧ 100 * 94 < 95 * c ∧ ¬ (100 * 95 < 95 * c)) ∧
    600 < topMhz (capS 1000 100 0) ∧ 1000 + 50 < topMhz (capS 1000 100 0) ∧ topMhz (capS 1000 100 0) ≤ (topMhz (capS 1000 100 0) - 50) + 50 ∧
    rf hostS 0x1010 0 8 ≤ (255 : Byte).toNat ∧
    7 ∉ hostS.power.hot ∧ (0 : Byte).toNat + 5 ≤ rf hostS 0x1010 0 8 ∧ HostServed hostS (0x1020 + 4 * 7) 31 ∧
    31 / 4 ∈ ({ hostS.power with hot := [7] } : Power).hot ∧ 0 ∈ (outS []).boot.released ∧ islandMhz (outS []) 0 ≠ none := by
  unfold HostServed; decide +kernel

/-- A command ring of 16 entries that holds one, and a completion ring. -/
def cmdS : State := rf2Set (oCmd + 0x10) 0 13 1 (reg2Set (oCmd + 8) 0x80000004 (ringS hostS))

/-- HITCH_QUERY of hitch 9 with tag 7 (R454), and an entry of opcode 0. -/
def entQ : List Byte := [5, 0, 7, 0, 0, 0, 0, 0, 9, 0] ++ List.replicate 54 0
def ent0 : List Byte := [0, 0, 7, 0] ++ List.replicate 60 0

theorem wit_host_rings : hostTurn 0x0005 7 (fun e => decide (entryNum e = some 9)) cmdS = none ∧ isSealed cmdS = true ∧ (15 : BitVec 13).toNat < ringSize cmdS oCmd ∧
    ringSize cmdS oCmd ≤ (16 : BitVec 13).toNat ∧ mayAccept cmdS = true ∧ cmdIllegal entQ = false ∧
    entryVoid entQ = false ∧ cmdIllegal ent0 = true ∧ CplReady cmdS (entryTag ent0) := by
  unfold CplReady; decide +kernel

theorem wit_register_reads : isSealed hostS = true ∧ freeMask hostS 0x1008 = 0 ∧ isLo (0x1008 - 4) = false ∧
    freeMask hostS 0x10 = 0 ∧ isLo (0x10 - 4) = false ∧ isLo 0x10 = true ∧ freeMask hostS 0x14 = 0 ∧ isLo 0x14 = false ∧
    inMailbox 0x10 = true ∧ isSealed State.reset = false ∧ (2 : Nat) % 4 ≠ 0 ∧ countIsland 0x10 = none ∧
    countIsland (oCore 31 + 0x80) = some 31 ∧ clockRuns hostS 31 = false ∧ clockRuns (outS []) 31 = true ∧
    countMay (outS []) (oCore 31 + 0x80) = true ∧ countMay (outS []) (oCore 31 + 0xA4) = false ∧ isLo 0x1000 = false ∧ hostS.cfg = [] := by
  decide +kernel

/-- A cage's laser thresholds: written in order, and refused out of order. -/
theorem wit_register_writes : fieldsOf (oCage 11 + 0x010) ≠ [] ∧ hostMay hostS (oCage 11 + 0x010) = true ∧
    changedBits hostS (oCage 11 + 0x010) 0x3412 .lk = 0 ∧ touchesHeld hostS (oCage 11 + 0x010) 0x3412 = false ∧
    changedBits hostS (oCage 11 + 0x010) 0x1234 .lk = 0 ∧ touchesHeld hostS (oCage 11 + 0x010) 0x1234 = false := by
  decide +kernel

theorem wit_register_write_kept :
    writeRefused hostS (oCage 11 + 0x010)
      (changedBits hostS (oCage 11 + 0x010) 0x3412 .rw ||| changedBits hostS (oCage 11 + 0x010) 0x3412 .lk).toNat
      (0x3412 : W32).toNat = false ∧ whereIs (oCage 11 + 0x010) = .cage 11 0x010 ∧ (0x010 : Nat) ≠ 0x004 := by decide +kernel

theorem wit_register_write_refused :
    writeRefused hostS (oCage 11 + 0x010)
      (changedBits hostS (oCage 11 + 0x010) 0x1234 .rw ||| changedBits hostS (oCage 11 + 0x010) 0x1234 .lk).toNat
      (0x1234 : W32).toNat = true ∧ hostMay State.reset (oCage 11 + 0x010) = false := by decide +kernel

/-- The masks of MSI-X, a register of configuration space, and writes that the two link states below D3hot leave alone. -/
theorem wit_register_write_msix : bar2Fields 0x400C ≠ [] ∧ isSealed hostS = true ∧ (0x2 : W32).toNat % 4 ∈ [1, 2] ∧
    ¬ ((0x3 : W32).toNat % 4 ∈ [1, 2]) ∧ cfgFields 0x050 ≠ [] ∧
    msixOpen (msixS 1 (rf2Set 0x5000 1 1 1 hostS)) 1 = true ∧
    rf2 (msixS 1 (rf2Set 0x5000 1 1 1 hostS)) 0x5000 1 1 = 1 := by decide +kernel

/-! ### Statements about words, entries and formats -/

theorem wit_memory_form : MemInv State.reset := by unfold MemInv; decide +kernel

theorem wit_step_takes_one : step State.reset = .next State.reset ∧
    ∃ t, step { State.reset with pending := [.cutStateRead 0, .shadowStream] } = .next t ∧ t.pending = [.shadowStream] :=
  ⟨rfl, _, rfl, rfl⟩

theorem wit_memory_places : 0 < hbmTop ∧ (7 : Nat) < 8 ∧ (63 : Nat) < 64 ∧ (2 ^ 23 - 1 : Nat) < 2 ^ 23 := by
  refine ⟨by decide +kernel, by norm_num, by norm_num, by norm_num⟩

theorem wit_native_words : nativeWf ⟨⟨255, 15, 255, 15⟩, .tmul ⟨7, 0, 3, 6, 1, 2, 4, 1, 393215, 0, 5, 16383⟩⟩ = true ∧
    decodeNative .queue 0 = .error cOPCODE_ILLEGAL ∧
    opLegal .queue 0x80 = false := by decide +kernel

/-- A word of zeros has an opcode of no class of a queue. -/
theorem wit_word_of_no_class : ∀ i : Native, placeOf i.body = .queue → opcodeOf i.body ≠ 0x00#8 := by
  intro i hp
  generalize i.body = b at hp
  cases b
  case ctl => cases hp
  case gop => cases hp
  case gend => cases hp
  case gsignal => cases hp
  case gskip => cases hp
  case gwait => cases hp
  all_goals (simp only [opcodeOf]; decide)

theorem test_word_of_zeros : (0#128).extractLsb' 120 8 = 0x00#8 := by simp

/-- A route edit of the injection table, staged under tag 7 for rank 1 of hitch 9. -/
def stageC : Instr := .hitchStage 7 9 1 (.routeEdit 0xFFFF 9215 0x80000001)

theorem wit_command_entry : stageC.wf = true ∧ commandEntry stageC = some
    ([2, 0, 7, 0, 0, 0, 0, 0, 9, 0, 1, 0, 2, 0, 0, 0, 0xFF, 0xFF, 0xFF, 0x23, 1, 0, 0, 0x80] ++ List.replicate 40 0) := by
  decide +kernel

theorem wit_formats : fAX16 ≤ 5 ∧ (decode fAX16 127 0xFFFF).isNf = false ∧ decode fINT8 (-128) 0x80 = .fin ⟨true, 128, 0⟩ := by
  decide +kernel

/-! ### Instruction words, written out field by field from R76, R78, R93, R94, R101, R107, R111, R113 and R116 -/

/-- CWAIT: opcode, WAIT_CTR, WAIT_AMT, SIG_CTR, SIG_AMT, HANDLE, reserved, TARGET. -/
theorem test_word_cwait : decodeNative .queue (0x02#8 ++ 5#8 ++ 3#4 ++ 6#8 ++ 2#4 ++ 0x8007#16 ++ 0#48 ++ 0xDEADBEEF#32) =
    .ok ⟨⟨5, 3, 6, 2⟩, .cwait 0x8007 0xDEADBEEF⟩ := by decide +kernel

/-- SYNC: opcode, header, reserved. -/
theorem test_word_sync : decodeNative .queue (0x01#8 ++ 9#8 ++ 1#4 ++ 0#8 ++ 0#4 ++ 0#96) = .ok ⟨⟨9, 1, 0, 0⟩, .sync⟩ ∧
    decodeNative .queue (0x01#8 ++ 9#8 ++ 1#4 ++ 0#8 ++ 0#4 ++ 1#96) = .error cFIELD_ILLEGAL := by decide +kernel

/-- COPY: BARROW, ANY, OP, HINT, SRCK, DSTK, SRC, DST, LEN: a MOVE on Barrow 3 of one unit from Manger operand 4
to block 0x7FF of descriptor 0xABC of rank 0x1234. -/
theorem test_word_copy : decodeNative .queue (0x10#8 ++ 0#24 ++
      3#2 ++ 0#1 ++ 0#3 ++ 1#2 ++ 0#2 ++ 2#2 ++ 4#32 ++ (0x1234#13 ++ 0xABC#12 ++ 0x7FF#11) ++ 1#16) =
    .ok ⟨hdr0, .copy ⟨3, 0, 0, 1, 0, 2, 4, 0x1234#13 ++ 0xABC#12 ++ 0x7FF#11, 1⟩⟩ := by decide +kernel

/-- TMUL: STALL, ANY, CHAIN, MODE, FMTA, FMTB, FMTC, SOUT, A, B, C, K, reserved. -/
theorem test_word_tmul : decodeNative .queue (0x20#8 ++ 0#24 ++
      5#3 ++ 0#1 ++ 3#2 ++ 0#3 ++ 1#3 ++ 2#3 ++ 4#3 ++ 1#1 ++ 0x10000#19 ++ 0x20000#19 ++ 0x30000#19 ++ 7#14 ++ 0#6) =
    .ok ⟨hdr0, .tmul ⟨5, 0, 3, 0, 1, 2, 4, 1, 0x10000, 0x20000, 0x30000, 7⟩⟩ := by decide +kernel

/-- TRG: OP, SA, SB, D, MORE, FIN, FOUT, RED, COUNT, reserved, A, BARG, DST: PASS of a Manger row to latch c0. -/
theorem test_word_trg : decodeNative .queue (0x30#8 ++ 0#24 ++
      0#6 ++ 0#3 ++ 7#3 ++ 1#3 ++ 1#1 ++ 4#3 ++ 0#3 ++ 0#3 ++ 0xFFF#12 ++ 0#2 ++ 0x12345#19 ++ 0#19 ++ 0#19) =
    .ok ⟨hdr0, .trg ⟨0, 0, 7, 1, 1, 4, 0, 0, 0xFFF, 0x12345, 0, 0⟩⟩ := by decide +kernel

/-- RFLUSH: SEL, POST, CLEAR, SLOT, reserved. -/
theorem test_word_rflush : decodeNative .queue (0x40#8 ++ 0#24 ++ 0#4 ++ 1#1 ++ 1#1 ++ 31#5 ++ 0#85) =
    .ok ⟨hdr0, .rflush ⟨0, 1, 1, 31⟩⟩ := by decide +kernel

/-- ALU: RD, RA, RB, SUB, X, reserved, IMM: s[3] = s[4] − s[5]. -/
theorem test_word_alu : decodeNative .ostler (0x82#8 ++ 0#24 ++ 3#5 ++ 4#5 ++ 5#5 ++ 1#4 ++ 0#21 ++ 0#8 ++ 0#48) =
    .ok ⟨hdr0, .ctl 2 ⟨3, 4, 5, 1, 0, 0⟩⟩ := by decide +kernel

/-- DSET: word 15 of descriptor 0xFFF from s[9]; the same word is illegal in a queue (R79). -/
theorem test_word_dset :
    let w : W128 := 0x89#8 ++ 0#24 ++ 0#5 ++ 0#5 ++ 9#5 ++ 15#4 ++ (0xFFF#12 ++ 0#9) ++ 0#8 ++ 0#48
    decodeNative .queue w = .error cOPCODE_ILLEGAL ∧
      (match decodeNative .ostler w with | .ok i => decide (encodeNative i = w) | .error _ => true) = true := by decide +kernel

/-- GOP: OP, D0 to D3, COEF, FIRST, NBLK, reserved: a SGD. -/
theorem test_word_gop : decodeNative .groom (0xC2#8 ++ 0#24 ++
      5#6 ++ 1#10 ++ 2#10 ++ 0#10 ++ 0#10 ++ 8#8 ++ 0x3FFFF#18 ++ 0xFFFF#16 ++ 0#8) =
    .ok ⟨hdr0, .gop ⟨5, 1, 2, 0, 0, 8, 0x3FFFF, 0xFFFF⟩⟩ := by decide +kernel

/-- GWAIT, GSKIP, GSIGNAL and GEND. -/
theorem test_words_groom :
    decodeNative .groom (0xC0#8 ++ 0#24 ++ 0x8003#16 ++ 0#48 ++ 12#32) = .ok ⟨hdr0, .gwait 0x8003 12⟩ ∧
    decodeNative .groom (0xC1#8 ++ 0#24 ++ 1023#10 ++ 0#86) = .ok ⟨hdr0, .gskip 1023⟩ ∧
    decodeNative .groom (0xC3#8 ++ 0#24 ++ 0x10FF#16 ++ 0#80) = .ok ⟨hdr0, .gsignal 0x10FF⟩ ∧
    decodeNative .groom (0xC4#8 ++ 0#120) = .ok ⟨hdr0, .gend⟩ := by decide +kernel

/-! ### Numbers from the spec's tables -/

/-- R162's worked example: Bramble activations into E4M3. -/
theorem test_e4m3_example : encode fE4M3 0 (.fin ⟨false, 17, -4⟩) = ⟨0x39, false, false⟩ ∧
    encode fE4M3 0 (.fin ⟨true, 17, -4⟩) = ⟨0xB9, false, false⟩ ∧
    encode fE4M3 0 (.fin ⟨false, 3, -10⟩) = ⟨0x02, false, false⟩ ∧
    encode fE4M3 0 (.fin ⟨false, 125, 2⟩) = ⟨0x7E, true, false⟩ := by decide +kernel

/-- CRC-32C of "123456789" is 0xE3069283. -/
theorem test_crc32c : crc32c [0x31, 0x32, 0x33, 0x34, 0x35, 0x36, 0x37, 0x38, 0x39] = 0xE3069283 := by decide +kernel

/-! ### Ill-formed commands are refused -/

theorem test_wf_ranks : Instr.wf (.hitchOpen 0 [8192] 0) = false ∧ Instr.wf (.hitchOpen 0 [8191] 0) = true ∧
    Instr.wf (.hitchStage 0 0 8192 .stepCommit) = false ∧ Instr.wf (.hitchPrepare 0 8192 0 []) = false ∧
    Instr.wf (.hitchVote 0 8192 0) = false ∧ Instr.wf (.hitchAck 0 8192) = false ∧
    Instr.wf (.barrierJoinMsg 8192 false 0) = false ∧ Instr.wf (.barrierJoinMsg 0 false 256) = false ∧
    Instr.wf (.restartReport 8192 0) = false ∧ Instr.wf (.e2eResponse 8192 0 0 [] none) = false ∧
    Instr.wf (.e2eResponse 0 1026 0 [] none) = false ∧ Instr.wf (.e2eResponse 0 0 0 [65536] none) = false ∧
    Instr.wf (.e2eResendTimeout 0 1026 0) = false ∧ Instr.wf (.deliveryLost 8192 0 0) = false ∧
    Instr.wf (.busyRetry 0 1026 0) = false ∧ Instr.wf (.noRouteTimeout 25) = false := by decide +kernel

theorem test_wf_actions : actionWf (.regWrite 0x04000000 0 0) = false ∧ actionWf (.regWrite 2 0 0) = false ∧
    actionWf (.routeEdit 24 0 0) = false ∧ actionWf (.routeEdit 23 9216 0) = false ∧ actionWf (.retune 0 24 0 0) = false ∧
    actionWf (.retune 0 23 8 0) = false ∧ actionWf (.retune 0 23 7 4097) = false ∧ actionWf (.streamStart 2 0) = false ∧
    actionWf (.retune 0 23 0xFF 4096) = true := by decide +kernel

/-- A reading of nine tones and one of none. -/
def toneE : ToneReading := ⟨[], 1, none⟩

theorem test_wf_messages : Instr.wf (.groomPartialMsg 0 0x80000000) = false ∧ Instr.wf (.groomVerdictMsg 0 0x80000000) = false ∧
    Instr.wf (.blockReceive 0 ⟨[], 0, true⟩) = false ∧ Instr.wf (.storageReadData 0 []) = false ∧
    Instr.wf (.oclFrameReceive 0 ⟨⟨0, [], 0, 0⟩, none, none⟩) = false ∧ Instr.wf (.toneCheck 0 0 toneE) = false ∧
    Instr.wf (.oclFrameReceive 0 ⟨frameT 0, some (recordT 0), none⟩) = false ∧
    Instr.wf (.ringSearchDone 0 0 ⟨[], [([], toneE)]⟩) = false ∧ Instr.wf (.ringSearchDone 0 0 (sweepT 0)) = true ∧
    Instr.wf (.cageBringupSearched 0 [] [] []) = false ∧ Instr.wf (.ringLockAcquire 0 0 0 toneE) = false ∧
    Instr.wf (.spareLocked 0 ⟨0, toneE⟩) = false ∧ Instr.wf (.riskTick [0x100000001]) = false ∧
    Instr.wf (.hitchPrepared 0 ⟨[⟨0, 0, 0, toneE⟩], []⟩) = false ∧ Instr.wf (.hitchPrepared 0 ⟨[⟨0, 0, 0, toneN⟩], []⟩) = true := by
  decide +kernel

theorem test_wf_places : scrubWf (.hbm 0 lastHbm) = true ∧ scrubWf (.hbm 0 (lastHbm + 1)) = false ∧
    scrubWf (.loft 0 (lastLoft + 1)) = false ∧ placeWf (.manger 31 (mangerSize / 8)) = false ∧
    Instr.wf (.patrolScrub (.hbm 0 0) [⟨.manger 31 (mangerSize / 8), .corrected⟩]) = false := by decide +kernel

theorem test_wf_host : Instr.wf (.bootImageFetched (some ⟨[], [], []⟩)) = false ∧ Instr.wf (.attest 0 [] 0) = false ∧
    Instr.wf (.cmdAccept []) = false ∧ Instr.wf (.registerRead .bar0 0x4000000) = false ∧
    Instr.wf (.registerWrite .bar2 0x100000 0 .host) = false ∧ Instr.wf (.thermalTripClear [] []) = false ∧
    Instr.wf (.thermalTrip (.die 0 256)) = false ∧ Instr.wf (.restart 0 ⟨recR, seenT []⟩) = false ∧
    Instr.wf (.restart 0 ⟨recR, seenT [some []]⟩) = false ∧ Instr.wf (.restart 0 ⟨recR, seenT [none]⟩) = true := by
  decide +kernel

/-- Tile operations of 200 rows and columns: FP4 of depth 201, and BF16 of depth 200 in two chunks (R35). -/
def opT : TileOp := ⟨200, 200, 201, 0, 0, 0, 4, [], [], false, [], [], [], 0, .F, ⟨0, 0⟩, ⟨1, 0⟩, ⟨2, 0⟩, 3, none, 0⟩
def opB : TileOp :=
  ⟨200, 200, 200, 0, 4, 4, 4, [], [], true, [(100, 100), (0, 100)], [], [], 0, .F, ⟨0, 0⟩, ⟨1, 0⟩, ⟨2, 0⟩, 3, none, 0⟩

/-- A paddock shape needs five cuts, an image a batch schedule, and a tile operation its whole depth in chunks. -/
theorem test_wf_image : Instr.wf (.load 0 (imgT img0 [])) = true ∧
    Instr.wf (.load 0 { imgT img0 [] with shape := ⟨[1], [], false⟩ }) = false ∧
    Instr.wf (.load 0 { imgT img0 [] with batch := [] }) = false ∧
    Instr.wf (.load 0 { imgT img0 [] with signed := ⟨[], [], []⟩ }) = false ∧
    tileLegal opT = true ∧ tileLegal opB = true ∧ tileLegal { opB with chunks := [(0, 100)] } = false ∧
    Instr.wf (.load 0 { imgT img0 [] with tiles := [{ opT with m := 0 }] }) = false := by decide +kernel

/-- A stage of a pipeline of four, in the alternating order: its orders with two micro-batches (R378). -/
theorem test_stage_order : stageWf ⟨2, 4, 2, true⟩ = true ∧
    stageOrder ⟨2, 4, 2, true⟩ false = [(.F, 0), (.F, 1), (.B, 0), (.B, 1)] ∧
    stageOrder ⟨2, 4, 2, false⟩ true = [(.F, 0), (.F, 1), (.B, 1), (.W, 1), (.B, 0), (.W, 0)] := by decide +kernel

/-- R118: 200 by 200 is two by two output tiles of 128, with 56 rows of zeros below; an odd FP4 depth takes one
more element, and BF16 chunks go in the order listed. -/
theorem test_tiles : tileGrid opT = (2, 2) ∧ tilePadRows opT 0 = 0 ∧ tilePadRows opT 1 = 56 ∧ tilePadCols opT 1 = 56 ∧
    tileKsteps opT = 101 ∧ tileKsteps opB = 400 ∧ (tileDepths opB).head? = some 100 := by decide +kernel

end Sys2Proof.Tests
end

section
/-!
SUPPORT. What a fault of a context changes and leaves alone (R84, R278), as rules for recording a status, raising an
event bit of a core and poisoning a signal; then where a context may enqueue (R25, R44).
-/
namespace Sys2Proof.Machine

/-! ### The fault log's entries -/

/-- The entries of the fault log: where the next one goes, and the ring of those written (R388). -/
def logEntries (s : State) : Nat × Tab (Option LogEnt) := (s.log.next, s.log.ring)

/-- Operations that write no log entry may stand before the one that does. -/
theorem Logged.before {s s' t : State} {code : W16} {blk : Blk} {idx : Nat} {cls : Class}
    (hs : logEntries s' = logEntries s) (h : Logged s' t code blk idx cls) : Logged s t code blk idx cls := by
  obtain ⟨hnext, -⟩ := Prod.mk.inj hs
  simpa only [Logged, hnext] using h

/-- Operations that write no log entry may stand after the one that does. -/
theorem Logged.after {s t t' : State} {code : W16} {blk : Blk} {idx : Nat} {cls : Class}
    (ht : logEntries t' = logEntries t) (h : Logged s t code blk idx cls) : Logged s t' code blk idx cls := by
  obtain ⟨hnext, hring⟩ := Prod.mk.inj ht
  simpa only [Logged, hnext, hring] using h

theorem logEntries_congr {s t : State} (h : t.log = s.log) : logEntries t = logEntries s := by
  simp only [logEntries, h]

theorem logEntries_ite {p : Prop} [Decidable p] (a b : State) :
    logEntries (if p then a else b) = if p then logEntries a else logEntries b := by split <;> rfl

theorem logEntries_ite_left {p : Prop} [Decidable p] {a b : State} (h : logEntries a = logEntries b) :
    logEntries (if p then a else b) = logEntries b := by rw [logEntries_ite, h, ite_self]

@[simp] theorem logEntries_health (b : Nat) (e : Option LogEnt) (s : State) :
    logEntries (health b e s) = logEntries s := logEntries_congr (health_log b e s)

@[simp] theorem logEntries_raise (off b : Nat) (s : State) : logEntries (raise off b s) = logEntries s := by
  unfold raise
  dsimp only
  split <;> rfl

@[simp] theorem logEntries_riskAdd (w : Nat) (s : State) : logEntries (riskAdd w s) = logEntries s := by
  unfold riskAdd
  split <;> rfl

@[simp] theorem logEntries_syncEvent (n b : Nat) (code : W16) (i k : Nat) (s : State) :
    logEntries (syncEvent n b code i k s) = logEntries s := by
  unfold syncEvent
  rw [logEntries_raise, logEntries_congr (regSet_log ..)]

@[simp] theorem logEntries_coreMod (n : Nat) (f : Core → Core) (s : State) :
    logEntries (coreMod n f s) = logEntries s := rfl

@[simp] theorem logEntries_coreRaise (n b : Nat) (s : State) : logEntries (coreRaise n b s) = logEntries s := by
  simp only [coreRaise, logEntries_ite, logEntries_coreMod, logEntries_raise, ite_self]

@[simp] theorem logEntries_poisonSignal (n : Nat) (cls : Class) (s : State) (w : W128) :
    logEntries (poisonSignal n cls s w) = logEntries s := by
  simp only [poisonSignal, poisonCtr, logEntries_ite, logEntries_syncEvent, logEntries_coreMod, ite_self]

/-- A status that is recorded adds one entry, whatever its class and code set beside it (R387 to R389, R409). -/
@[simp] theorem logEntries_record (code : W16) (blk : Blk) (idx : Nat) (cls : Class) (d : Detail) (s : State) :
    logEntries (record code blk idx cls d s) = logEntries (logAppend code blk idx cls d s) := by
  have reports (t : State) (l : List (W16 × Option Nat)) :
      logEntries { t with log := { t.log with reports := l } } = logEntries t := rfl
  simp only [record, logEntries_ite, logEntries_health, reports, logEntries_riskAdd, ite_self]

theorem logAppend_logged (code : W16) (blk : Blk) (idx : Nat) (cls : Class) (d : Detail) (s : State) :
    Logged s (logAppend code blk idx cls d s) code blk idx cls := by
  refine ⟨rfl, ⟨s.log.evseq + 1, code, blk, idx, cls, d⟩, ?_, rfl, rfl, rfl, rfl⟩
  simp only [logAppend, evAdvance, tabGet_set_self]

theorem record_logged (code : W16) (blk : Blk) (idx : Nat) (cls : Class) (d : Detail) (s : State) :
    Logged s (record code blk idx cls d s) code blk idx cls :=
  (logAppend_logged code blk idx cls d s).after (logEntries_record ..)

/-! ### Registers that a report and a poisoning write -/

/-- GLB_HEALTH_EVENT is the only BAR0 register that recording a status writes (R409). -/
theorem regGet_health_ne (b : Nat) (e : Option LogEnt) (o : Nat) (s : State) (h : o ≠ oHealthEv) :
    regGet (health b e s) o = regGet s o := by
  have hw : regGet (rfSet oHealthEv b 1 1 s) o = regGet s o := regGet_rfSet_ne _ _ _ _ _ _ h
  unfold health
  dsimp only
  split
  · rw [regGet_congr (eventWrite_regs _ _), hw]
  · exact hw

theorem regGet_ite {p : Prop} [Decidable p] (a b : State) (o : Nat) :
    regGet (if p then a else b) o = if p then regGet a o else regGet b o := by split <;> rfl

theorem regGet_record_ne (code : W16) (blk : Blk) (idx : Nat) (cls : Class) (d : Detail) (o : Nat) (s : State)
    (h : o ≠ oHealthEv) : regGet (record code blk idx cls d s) o = regGet s o := by
  have hr (w : Nat) (t : State) : regGet (riskAdd w t) o = regGet t o := regGet_congr (riskAdd_regs w t) o
  have hl : regGet (logAppend code blk idx cls d s) o = regGet s o := regGet_congr (logAppend_regs ..) o
  have reports (t : State) (l : List (W16 × Option Nat)) :
      regGet { t with log := { t.log with reports := l } } o = regGet t o := rfl
  simp only [record, regGet_ite, regGet_health_ne _ _ _ _ h, reports, hr, hl, ite_self]

theorem regGet_coreMod (n : Nat) (f : Core → Core) (s : State) (o : Nat) : regGet (coreMod n f s) o = regGet s o := rfl

theorem regGet_coreRaise_ne (n b o : Nat) (s : State) (h : o ≠ oCore n + 0x50) :
    regGet (coreRaise n b s) o = regGet s o := by
  simp only [coreRaise, regGet_ite, regGet_coreMod, regGet_raise_ne _ _ _ _ h, ite_self]

theorem regGet_poisonSignal_ne (n : Nat) (cls : Class) (s : State) (w : W128) (o : Nat) (h : o ∉ syncRegs n) :
    regGet (poisonSignal n cls s w) o = regGet s o := by
  simp only [syncRegs, List.mem_cons, List.not_mem_nil, or_false, not_or] at h
  obtain ⟨hev, hinfo, -⟩ := h
  simp only [poisonSignal, poisonCtr, regGet_ite, syncEvent_regs _ _ _ _ _ _ _ hev hinfo, regGet_coreMod, ite_self]

/-! ### Queues and contexts that a report and a poisoning leave -/

@[simp] theorem Core.queue_setCtx (c : Core) (x : Ctx) (v : CtxSt) (q : Q) : (c.setCtx x v).queue q = c.queue q := by
  cases x <;> cases q <;> rfl

@[simp] theorem Core.queue_setCtr (c : Core) (i : Nat) (v : Ctr) (q : Q) : (c.setCtr i v).queue q = c.queue q := by
  cases q <;> rfl

@[simp] theorem Core.ctx_setCtr (c : Core) (i : Nat) (v : Ctr) (x : Ctx) : (c.setCtr i v).ctx x = c.ctx x := by
  cases x <;> rfl

@[simp] theorem coreOf_record (code : W16) (blk : Blk) (idx : Nat) (cls : Class) (d : Detail) (s : State) (n : Nat) :
    coreOf (record code blk idx cls d s) n = coreOf s n := coreOf_congr (record_cores ..) n

/-- A core's event bit, delivered or not, changes nothing but what the primary context has heard (R75). -/
theorem coreOf_coreRaise (n b : Nat) (s : State) :
    ∃ v, coreOf (coreRaise n b s) n = { coreOf s n with events := v } := by
  have hr : coreOf (raise (oCore n + 0x50) b s) n = coreOf s n := coreOf_congr (raise_cores ..) n
  unfold coreRaise
  dsimp only
  split
  · exact ⟨_, by rw [coreOf_coreMod_self, hr]⟩
  · exact ⟨_, hr⟩

@[simp] theorem coreRaise_queue (n b : Nat) (s : State) (q : Q) :
    (coreOf (coreRaise n b s) n).queue q = (coreOf s n).queue q := by
  obtain ⟨v, hv⟩ := coreOf_coreRaise n b s
  rw [hv]
  cases q <;> rfl

@[simp] theorem coreRaise_ctx (n b : Nat) (s : State) (x : Ctx) :
    (coreOf (coreRaise n b s) n).ctx x = (coreOf s n).ctx x := by
  obtain ⟨v, hv⟩ := coreOf_coreRaise n b s
  rw [hv]
  cases x <;> rfl

/-- A word's signal, poisoned, changes one sync counter of the core at most (R278). -/
theorem coreOf_poisonSignal (n : Nat) (cls : Class) (s : State) (w : W128) :
    coreOf (poisonSignal n cls s w) n = coreOf s n ∨
      ∃ i v, coreOf (poisonSignal n cls s w) n = (coreOf s n).setCtr i v := by
  have hs (b i k : Nat) (code : W16) (t : State) : coreOf (syncEvent n b code i k t) n = coreOf t n :=
    coreOf_congr (syncEvent_keeps n b code i k t .cores (by simp)) n
  unfold poisonSignal poisonCtr
  dsimp only
  split
  · exact .inl rfl
  · split
    · exact .inl rfl
    · exact .inr ⟨_, _, by rw [hs, coreOf_coreMod_self]⟩

@[simp] theorem poisonSignal_queue (n : Nat) (cls : Class) (s : State) (w : W128) (q : Q) :
    (coreOf (poisonSignal n cls s w) n).queue q = (coreOf s n).queue q := by
  obtain h | ⟨i, v, h⟩ := coreOf_poisonSignal n cls s w <;> simp [h]

@[simp] theorem poisonSignal_ctx (n : Nat) (cls : Class) (s : State) (w : W128) (x : Ctx) :
    (coreOf (poisonSignal n cls s w) n).ctx x = (coreOf s n).ctx x := by
  obtain h | ⟨i, v, h⟩ := coreOf_poisonSignal n cls s w <;> simp [h]

/-! ### A context faults (R84, R278) -/

theorem ctxFault_queue (n : Nat) (x : Ctx) (code : W16) (cls : Class) (s : State) (q : Q) :
    (coreOf (ctxFault n x code cls s) n).queue q = (coreOf s n).queue q := by
  have hr : coreOf (rfSet (oCore n + 0x60) (runBit x) 1 0 s) n = coreOf s n := rfl
  cases x <;> simp [ctxFault, coreOf_ctxMod, hr]

theorem ctxFault_pc (n : Nat) (x : Ctx) (code : W16) (cls : Class) (s : State) :
    ((coreOf (ctxFault n x code cls s) n).ctx x).pc = ((coreOf s n).ctx x).pc := by
  have hr : coreOf (rfSet (oCore n + 0x60) (runBit x) 1 0 s) n = coreOf s n := rfl
  cases x <;> simp [ctxFault, coreOf_ctxMod, hr]

theorem ctxFault_run (n : Nat) (x : Ctx) (code : W16) (cls : Class) (s : State) :
    rf (ctxFault n x code cls s) (oCore n + 0x60) (runBit x) 1 = 0 := by
  have hsync : oCore n + 0x60 ∉ syncRegs n := by simp [syncRegs]
  have hhealth : oCore n + 0x60 ≠ oHealthEv := by unfold oCore oHealthEv; omega
  have hevent : oCore n + 0x60 ≠ oCore n + 0x50 := by omega
  have hword : regGet (ctxFault n x code cls s) (oCore n + 0x60) =
      regGet (rfSet (oCore n + 0x60) (runBit x) 1 0 s) (oCore n + 0x60) := by
    simp only [ctxFault, regGet_poisonSignal_ne _ _ _ _ _ hsync, regGet_ite, regGet_coreRaise_ne _ _ _ _ hevent,
      regGet_record_ne _ _ _ _ _ _ _ hhealth, ctxMod, regGet_coreMod, ite_self]
  calc rf (ctxFault n x code cls s) (oCore n + 0x60) (runBit x) 1
      = rf (rfSet (oCore n + 0x60) (runBit x) 1 0 s) (oCore n + 0x60) (runBit x) 1 := by unfold rf; rw [hword]
    _ = 0 := by rw [rf_rfSet _ _ _ _ _ (by cases x <;> decide), Nat.zero_mod]

theorem ctxFault_logged (n : Nat) (x : Ctx) (code : W16) (cls : Class) (s : State) :
    Logged s (ctxFault n x code cls s) code .core n cls := by
  unfold ctxFault
  dsimp only
  refine Logged.after (logEntries_poisonSignal ..) ?_
  refine Logged.after (logEntries_ite_left (logEntries_coreRaise ..)) ?_
  exact Logged.before (logEntries_congr (by rw [ctxMod_log, rfSet_log])) (record_logged ..)

/-! ### Where a context may enqueue (R25, R44) -/

/-- The refusal, as the rules word it: each context has its queues, and W takes nothing in the unsplit form. -/
theorem enqRefused_iff (s : State) (n : Nat) (x : Ctx) (q : Q) :
    enqRefused s n x q = true ↔
      (x = .primary ∧ q = .X) ∨ (x = .filler ∧ q ≠ .X) ∨ (q = .W ∧ rf s (oCore n + 0x004) 1 1 = 0) := by
  simp only [enqRefused, Bool.or_eq_true, Bool.and_eq_true, decide_eq_true_eq, beq_iff_eq]
  tauto

theorem exec_enq (c : Fin 32) (x : Ctx) (s : State) : exec (.enq c x) s = .next (ostlerEnq c.val x s) := rfl

/-- An ENQ whose queue is refused faults before its block is looked at (R83). -/
theorem ostlerEnq_refused {n : Nat} {x : Ctx} {f : CtlF} {s : State} (h : CtlAt s n x 0x80 f)
    (hq : enqRefused s n x (enqQueue f) = true) : ostlerEnq n x s = ctlFault n x cSTATE_REFUSED s := by
  unfold ostlerEnq
  rw [ctlRun_at h]
  exact if_pos hq

/-- Settles O59: the refusal is decided by the context and the form of the core, and a refused ENQ is a fault of its
context, which leaves the queues and the PC, clears RUN and is logged. -/
theorem enqueueRefused : Obligations.EnqueueRefused := by
  unfold Obligations.EnqueueRefused
  intro c x f s q bad hat
  have hbad : enqRefused s c.val x q = true ↔ bad := enqRefused_iff ..
  refine ⟨hbad, fun h => ⟨?_, fun cls => ⟨fun r => ?_, ?_, ?_, ?_⟩⟩⟩
  · rw [exec_enq, ostlerEnq_refused hat (hbad.2 h)]
  · exact ctxFault_queue ..
  · exact ctxFault_run ..
  · exact ctxFault_pc ..
  · exact ctxFault_logged ..

end Sys2Proof.Machine
end

section
/-!
SUPPORT. The native instruction words (R76 to R117): what each part of an encoded instruction reads back as, which
opcodes a place takes, and what decoding in a place answers; then that each class is legal only in its place (R79).
-/
namespace Sys2Proof.Machine

/-! ### Reading an encoded word

The fields of a word are appended, so the width of what stands below a field is a sum; `simp` leaves such sums as they
are (`-Nat.reduceAdd`), which the library's rules for reading an append need. -/

@[simp] theorem fld_encodeNative_opcode (i : Native) : fld (encodeNative i) 120 8 = opcodeOf i.body := by
  simp (disch := decide) [-Nat.reduceAdd, fld, encodeNative, BitVec.extractLsb'_append_eq_of_le]

@[simp] theorem hdrOf_encodeNative (i : Native) : hdrOf (encodeNative i) = i.hdr := by
  simp (disch := decide) [-Nat.reduceAdd, fld, hdrOf, encodeNative, BitVec.extractLsb'_append_eq_of_le,
    BitVec.extractLsb'_append_eq_of_add_le]

theorem fld_encodeNative_body (i : Native) {lo w : Nat} (h : lo + w ≤ 96) :
    fld (encodeNative i) lo w = (encodeBody i.body).extractLsb' lo w :=
  BitVec.extractLsb'_append_eq_of_add_le h

/-- The four header fields stand side by side (R76), so that reading them one by one reads all 24 bits. -/
theorem fld_header (x : W128) :
    fld x 96 24 = (hdrOf x).wctr ++ (hdrOf x).wamt ++ (hdrOf x).sctr ++ (hdrOf x).samt := by
  simp (disch := decide) only [hdrOf, fld, BitVec.extractLsb'_append_extractLsb'_eq_extractLsb']

/-! ### The control class, whose operation is part of its opcode (R113) -/

@[simp] theorem toNat_opcodeOf_ctl (op : BitVec 4) (f : CtlF) : (opcodeOf (.ctl op f)).toNat = 0x80 + op.toNat := by
  have htoNat : ∀ k : BitVec 4, ((0x8 : BitVec 4) ++ k).toNat = 0x80 + k.toNat := by decide
  exact htoNat op

theorem bodyOf_of_control {x : W128} (hlo : 0x80 ≤ (fld x 120 8).toNat) (hhi : (fld x 120 8).toNat ≤ 0x8B) :
    bodyOf x = .ctl (fld x 120 4) ⟨fld x 91 5, fld x 86 5, fld x 81 5, fld x 77 4, fld x 56 21, fld x 0 48⟩ := by
  unfold bodyOf
  split
  any_goals omega
  rfl

theorem reservedZero_of_control {x : W128} (hlo : 0x80 ≤ (fld x 120 8).toNat) (hhi : (fld x 120 8).toNat ≤ 0x8B) :
    reservedZero x = decide (fld x 48 8 = 0) := by
  unfold reservedZero
  split
  any_goals omega
  rfl

/-! ### A well-formed instruction and its word -/

theorem nativeWf_rules {i : Native} (h : nativeWf i = true) :
    hdrOk i.hdr = true ∧ bodyOk i.body = true ∧ bodyHandleOk i.body = true ∧
      (∀ op f, i.body = .ctl op f → op.toNat ≤ 0xB) ∧ (placeOf i.body = .groom → i.hdr = ⟨0, 0, 0, 0⟩) := by
  simp only [nativeWf, Bool.and_eq_true] at h
  obtain ⟨⟨⟨⟨hhdr, hbody⟩, hhandle⟩, hctl⟩, hgroom⟩ := h
  refine ⟨hhdr, hbody, hhandle, fun op f hb => ?_, fun hp => ?_⟩
  · simpa [hb] using hctl
  · simpa [hp] using hgroom

/-- The class fields of an encoded instruction read back, and its reserved bits are zero (R77). -/
theorem body_encodeNative {i : Native} (h : nativeWf i = true) :
    bodyOf (encodeNative i) = i.body ∧ reservedZero (encodeNative i) = true := by
  obtain ⟨hdr, b⟩ := i
  cases b
  case ctl op f =>
    obtain ⟨-, -, -, hop, -⟩ := nativeWf_rules h
    have hlo : 0x80 ≤ (fld (encodeNative ⟨hdr, .ctl op f⟩) 120 8).toNat := by simp
    have hhi : (fld (encodeNative ⟨hdr, .ctl op f⟩) 120 8).toNat ≤ 0x8B := by
      have hop := hop op f rfl
      rw [fld_encodeNative_opcode, toNat_opcodeOf_ctl]
      omega
    have hopcode : fld (encodeNative ⟨hdr, .ctl op f⟩) 120 4 = op := by
      simp (disch := decide) [-Nat.reduceAdd, fld, encodeNative, opcodeOf, BitVec.extractLsb'_append_eq_of_le,
        BitVec.extractLsb'_append_eq_of_add_le]
    rw [bodyOf_of_control hlo hhi, reservedZero_of_control hlo hhi, hopcode]
    simp (disch := decide) [-Nat.reduceAdd, fld_encodeNative_body, encodeBody, BitVec.extractLsb'_append_eq_of_le,
      BitVec.extractLsb'_append_eq_of_add_le]
  all_goals
    simp (disch := decide) [-Nat.reduceAdd, bodyOf, reservedZero, fld_encodeNative_body, opcodeOf, encodeBody,
      BitVec.extractLsb'_append_eq_of_le, BitVec.extractLsb'_append_eq_of_add_le]

/-! ### The opcodes of a place (R78, R79) -/

theorem opLegal_opcodeOf {i : Native} (h : nativeWf i = true) (p : Place) :
    opLegal p (opcodeOf i.body) = decide (p = placeOf i.body) := by
  obtain ⟨hdr, b⟩ := i
  cases b
  case ctl op f =>
    obtain ⟨-, -, -, hop, -⟩ := nativeWf_rules h
    have hop := hop op f rfl
    have hnat := toNat_opcodeOf_ctl op f
    cases p
    case queue =>
      have hout : ¬ (opcodeOf (.ctl op f)).toNat ∈ [0x01, 0x02, 0x03, 0x04, 0x10, 0x20, 0x30, 0x40] := by
        simp only [hnat, List.mem_cons, List.not_mem_nil, or_false]
        omega
      exact decide_eq_false hout
    case ostler => exact decide_eq_true (by dsimp only; omega)
    case groom => exact decide_eq_false (by dsimp only; omega)
  all_goals cases p <;> rfl

theorem nativeWf_plainCtl : ∀ op : BitVec 4, op.toNat ≤ 0xB →
    nativeWf ⟨⟨0, 0, 0, 0⟩, .ctl op ⟨0, 0, 0, 0, 0, 0⟩⟩ = true := by
  decide

theorem exists_native_of_body {p : Place} {op : BitVec 8} (b : NI) (hwf : nativeWf ⟨⟨0, 0, 0, 0⟩, b⟩ = true)
    (hplace : placeOf b = p) (hop : (opcodeOf b).toNat = op.toNat) :
    ∃ i : Native, nativeWf i = true ∧ placeOf i.body = p ∧ opcodeOf i.body = op :=
  ⟨⟨⟨0, 0, 0, 0⟩, b⟩, hwf, hplace, BitVec.eq_of_toNat_eq hop⟩

/-- Every opcode that a place takes has an instruction there: one of each, with no operand that its rules do not ask for. -/
theorem exists_nativeWf_of_opLegal {p : Place} {op : BitVec 8} (h : opLegal p op = true) :
    ∃ i : Native, nativeWf i = true ∧ placeOf i.body = p ∧ opcodeOf i.body = op := by
  cases p
  case queue =>
    simp only [opLegal, List.mem_cons, List.not_mem_nil, or_false, decide_eq_true_eq] at h
    obtain h | h | h | h | h | h | h | h := h
    · exact exists_native_of_body .sync rfl rfl h.symm
    · exact exists_native_of_body (.cwait 0 0) rfl rfl h.symm
    · exact exists_native_of_body (.creset 0) rfl rfl h.symm
    · exact exists_native_of_body (.carm 0 0) rfl rfl h.symm
    · exact exists_native_of_body (.copy ⟨0, 0, 0, 0, 0, 0, 0, 0, 1⟩) rfl rfl h.symm
    · exact exists_native_of_body (.tmul ⟨0, 0, 0, 0, 0, 0, 7, 0, 0, 0, 0, 1⟩) rfl rfl h.symm
    · exact exists_native_of_body (.trg ⟨0, 0, 7, 0, 0, 0, 0, 0, 0, 0, 0, 0⟩) rfl rfl h.symm
    · exact exists_native_of_body (.rflush ⟨0, 0, 0, 0⟩) rfl rfl h.symm
  case ostler =>
    simp only [opLegal, decide_eq_true_eq] at h
    have hop : (BitVec.ofNat 4 (op.toNat - 0x80)).toNat = op.toNat - 0x80 := by
      rw [BitVec.toNat_ofNat]
      omega
    refine exists_native_of_body (.ctl (.ofNat 4 (op.toNat - 0x80)) ⟨0, 0, 0, 0, 0, 0⟩) (nativeWf_plainCtl _ ?_) rfl ?_
    · omega
    · rw [toNat_opcodeOf_ctl]
      omega
  case groom =>
    simp only [opLegal, decide_eq_true_eq] at h
    obtain h | h | h | h | h : op.toNat = 0xC0 ∨ op.toNat = 0xC1 ∨ op.toNat = 0xC2 ∨ op.toNat = 0xC3 ∨ op.toNat = 0xC4 := by
      omega
    · exact exists_native_of_body (.gwait 0 0) rfl rfl h.symm
    · exact exists_native_of_body (.gskip 0) rfl rfl h.symm
    · exact exists_native_of_body (.gop ⟨1, 0, 0, 0, 0, 0, 0, 1⟩) rfl rfl h.symm
    · exact exists_native_of_body (.gsignal 0) rfl rfl h.symm
    · exact exists_native_of_body .gend rfl rfl h.symm

/-! ### Decoding in a place -/

theorem decodeNative_of_not_opLegal {p : Place} {x : W128} (h : opLegal p (fld x 120 8) = false) :
    decodeNative p x = .error cOPCODE_ILLEGAL :=
  if_pos h

theorem decodeNative_of_rules {p : Place} {x : W128} (hop : opLegal p (fld x 120 8) = true)
    (hhdr : hdrOk (hdrOf x) = true) (hres : reservedZero x = true) (hbody : bodyOk (bodyOf x) = true)
    (hgroom : p = .groom → fld x 96 24 = 0) (hhandle : bodyHandleOk (bodyOf x) = true) :
    decodeNative p x = .ok ⟨hdrOf x, bodyOf x⟩ := by
  have hrules : ¬ (hdrOk (hdrOf x) = false ∨ reservedZero x = false ∨ bodyOk (bodyOf x) = false ∨
      (p = .groom ∧ fld x 96 24 ≠ 0)) := by
    simpa [hhdr, hres, hbody] using hgroom
  unfold decodeNative
  rw [if_neg (by simp [hop]), if_neg hrules, if_neg (by simp [hhandle])]

theorem decodeNative_encodeNative {i : Native} (h : nativeWf i = true) (p : Place) :
    decodeNative p (encodeNative i) = if p = placeOf i.body then .ok i else .error cOPCODE_ILLEGAL := by
  have hlegal : opLegal p (fld (encodeNative i) 120 8) = decide (p = placeOf i.body) := by
    rw [fld_encodeNative_opcode, opLegal_opcodeOf h]
  split
  next hp =>
    obtain ⟨hhdr, hbody, hhandle, -, hgroom⟩ := nativeWf_rules h
    obtain ⟨hread, hres⟩ := body_encodeNative h
    have hheader : p = .groom → fld (encodeNative i) 96 24 = 0 := fun hg => by
      rw [fld_header, hdrOf_encodeNative, hgroom (hp ▸ hg)]; rfl
    have hdecode := decodeNative_of_rules (by simpa [hp] using hlegal) (by rwa [hdrOf_encodeNative])
      hres (by rwa [hread]) hheader (by rwa [hread])
    rw [hdecode, hdrOf_encodeNative, hread]
  next hp => exact decodeNative_of_not_opLegal (by simpa [hp] using hlegal)

/-- Settles O7: a place takes the opcodes of its own classes and no other, and every opcode that it takes has a
well-formed instruction. -/
theorem classesInTheirPlaces : Obligations.ClassesInTheirPlaces := by
  unfold Obligations.ClassesInTheirPlaces
  refine ⟨fun i p hwf => ?_, fun p x hno => decodeNative_of_not_opLegal ?_⟩
  · rw [decodeNative_encodeNative hwf]
    obtain ⟨hdr, b⟩ := i
    cases b <;> rfl
  · rw [Bool.eq_false_iff]
    intro hlegal
    obtain ⟨i, hwf, hplace, hop⟩ := exists_nativeWf_of_opLegal hlegal
    exact hno i hwf hplace hop

end Sys2Proof.Machine
end

section
/-!
SUPPORT. Conversions and element formats as rational numbers: rounding to units is the nearest integer with ties away
from zero (R157), which conversion to INT8 then saturates (R158, R160); and what a floating-point encoding denotes by
its sign, exponent field and fraction field (R144 to R148, R150).
-/
namespace Sys2Proof.Machine

/-! ### Magnitude and value of a dyadic -/

/-- The magnitude of a dyadic. -/
def Dy.mag (d : Dy) : ℚ := d.m * (2 : ℚ) ^ d.q

/-- The value of a dyadic. -/
def Dy.toRat (d : Dy) : ℚ := (if d.neg then -1 else 1) * d.m * (2 : ℚ) ^ d.q

theorem Dy.mag_nonneg (d : Dy) : 0 ≤ d.mag := by unfold Dy.mag; positivity

theorem Dy.toRat_eq_ite_mag (d : Dy) : d.toRat = if d.neg then -d.mag else d.mag := by
  unfold Dy.toRat Dy.mag
  split <;> ring

theorem Dy.abs_toRat (d : Dy) : |d.toRat| = d.mag := by
  rw [Dy.toRat_eq_ite_mag]
  split <;> simp [abs_of_nonneg d.mag_nonneg]

theorem Dy.toRat_le_mag (d : Dy) : d.toRat ≤ d.mag := d.abs_toRat ▸ le_abs_self d.toRat

/-! ### Binades -/

theorem lt_two_pow_bitLen (m : Nat) : m < 2 ^ bitLen m := by
  unfold bitLen
  split
  · omega
  · exact Nat.lt_log2_self

theorem two_pow_bitLen_sub_one_le {m : Nat} (h : m ≠ 0) : 2 ^ (bitLen m - 1) ≤ m := by
  simpa [bitLen, h] using Nat.log2_self_le h

theorem bitLen_pos {m : Nat} (h : m ≠ 0) : 0 < bitLen m := by simp [bitLen, h]

/-- A nonzero dyadic reaches down to the power of two of its binade. -/
theorem two_zpow_dyBinade_le_mag {d : Dy} (h : d.m ≠ 0) : (2 : ℚ) ^ dyBinade d ≤ d.mag := by
  have hexp : dyBinade d = ((bitLen d.m - 1 : ℕ) : ℤ) + d.q := by
    have := bitLen_pos h
    unfold dyBinade
    omega
  have hm : (2 : ℚ) ^ (bitLen d.m - 1) ≤ d.m := by exact_mod_cast two_pow_bitLen_sub_one_le h
  rw [hexp, zpow_add₀ two_ne_zero, zpow_natCast, Dy.mag]
  gcongr

/-! ### Rounding to units (R157) -/

/-- Adding the first bit that a shift drops rounds the quotient at half a unit, also where the shift drops every bit. -/
theorem roundUnits_of_lt {q g : Int} (h : q < g) (m : Nat) :
    roundUnits m q g = (m + 2 ^ ((g - q).toNat - 1)) / 2 ^ (g - q).toNat := by
  obtain ⟨k, hk⟩ : ∃ k, (g - q).toNat = k + 1 := ⟨(g - q).toNat - 1, by omega⟩
  have hpos : 0 < g - q := by omega
  simp only [roundUnits, hpos, if_true, hk, Nat.add_sub_cancel]
  split
  · rw [Nat.shiftRight_eq_div_pow, Nat.shiftRight_eq_div_pow, pow_succ, ← Nat.div_div_eq_div_mul,
      ← Nat.div_div_eq_div_mul, Nat.add_div_right _ (by positivity)]
    omega
  next hbig =>
    have hm : m < 2 ^ k := (lt_two_pow_bitLen m).trans_le (Nat.pow_le_pow_right two_pos (by omega))
    rw [Nat.div_eq_of_lt (by rw [pow_succ]; omega)]

theorem roundUnits_of_le {q g : Int} (h : g ≤ q) (m : Nat) : roundUnits m q g = m * 2 ^ (q - g).toNat := by
  rw [roundUnits, if_neg (by omega), neg_sub, Nat.shiftLeft_eq]

/-- The model's shifts compute the integer nearest to `m * 2^q` in units of `2^g`. -/
theorem roundUnits_eq_round (m : Nat) (q g : Int) :
    (roundUnits m q g : ℤ) = round ((m : ℚ) * (2 : ℚ) ^ (q - g)) := by
  rcases lt_or_ge q g with h | h
  · obtain ⟨k, hk⟩ : ∃ k, (g - q).toNat = k + 1 := ⟨(g - q).toNat - 1, by omega⟩
    have hexp : q - g = -((k + 1 : ℕ) : ℤ) := by omega
    have hhalf : (m : ℚ) * (2 : ℚ) ^ (q - g) + 1 / 2 = ((m + 2 ^ k : ℕ) : ℚ) / ((2 ^ (k + 1) : ℕ) : ℚ) := by
      rw [hexp, zpow_neg, zpow_natCast]
      push_cast
      field_simp
      ring
    rw [roundUnits_of_lt h, round_eq, hhalf, Rat.floor_natCast_div_natCast, hk, Nat.add_sub_cancel]
    norm_cast
  · obtain ⟨k, hk⟩ := Int.eq_ofNat_of_zero_le (show 0 ≤ q - g by omega)
    rw [roundUnits_of_le h, hk, zpow_natCast, Int.toNat_natCast]
    exact_mod_cast (round_natCast (α := ℚ) (m * 2 ^ k)).symm

/-! ### Conversion to INT8 (R160) -/

/-- The integer nearest to a dyadic, with ties away from zero. -/
def Dy.nearest (d : Dy) : ℤ := if d.neg then -(roundUnits d.m d.q 0 : ℤ) else roundUnits d.m d.q 0

theorem roundUnits_zero_eq_round_mag (d : Dy) : (roundUnits d.m d.q 0 : ℤ) = round d.mag := by
  rw [roundUnits_eq_round, sub_zero, Dy.mag]

theorem Dy.nearest_eq_ite_round (d : Dy) : d.nearest = if d.neg then -round d.mag else round d.mag := by
  rw [Dy.nearest, roundUnits_zero_eq_round_mag]

/-- Both signs mirror, so the distance from the nearest integer is that of the magnitudes. -/
theorem Dy.abs_toRat_sub_nearest (d : Dy) : |d.toRat - d.nearest| = |d.mag - round d.mag| := by
  rw [Dy.toRat_eq_ite_mag, Dy.nearest_eq_ite_round]
  split
  · rw [← abs_neg]
    push_cast
    ring_nf
  · rfl

theorem Dy.abs_nearest (d : Dy) : |(d.nearest : ℚ)| = |(round d.mag : ℚ)| := by
  rw [Dy.nearest_eq_ite_round]
  split <;> simp

/-- `round` takes the upper neighbour at half a unit: the greater magnitude, as magnitudes are not negative. -/
theorem lt_round_of_abs_sub_eq_half {x : ℚ} (h : |x - round x| = 1 / 2) : x < round x := by
  have hlt : x + 1 / 2 < round x + 1 := by
    rw [round_eq]
    exact Int.lt_floor_add_one _
  by_contra hge
  rw [abs_of_nonneg (by linarith)] at h
  linarith

/-- Above binade 16 the magnitude is far past either end of INT8. -/
theorem lt_roundUnits_of_lt_dyBinade {d : Dy} (hm : d.m ≠ 0) (h : 16 < dyBinade d) : 128 < roundUnits d.m d.q 0 := by
  have hmag : (2 : ℚ) ^ (16 : ℤ) ≤ d.mag :=
    (zpow_le_zpow_right₀ one_le_two h.le).trans (two_zpow_dyBinade_le_mag hm)
  have hfloor : (129 : ℤ) ≤ round d.mag := by
    rw [round_eq, Int.le_floor]
    norm_num at hmag ⊢
    linarith
  rw [← roundUnits_zero_eq_round_mag] at hfloor
  omega

/-- An integer as an INT8 code, saturated at the nearer end, and its saturation report (R158, R160). -/
def satI8 (v : ℤ) : Nat × Bool :=
  if v < -128 then (0x80, true) else if 127 < v then (0x7F, true) else (ofSigned 8 v, false)

theorem satI8_eq_clamp (v : ℤ) :
    satI8 v = (ofSigned 8 (max (-128) (min 127 v)), decide (v < -128 ∨ 127 < v)) := by
  unfold satI8
  split_ifs with hlow hhigh
  · have hclamp : max (-128) (min 127 v) = -128 := by omega
    simp [hclamp, hlow, ofSigned]
  · have hclamp : max (-128) (min 127 v) = 127 := by omega
    simp [hclamp, hhigh, ofSigned]
  · have hclamp : max (-128) (min 127 v) = v := by omega
    simp [hclamp, hlow, hhigh]

theorem satI8_of_lt {v : ℤ} (h : v < -128) : satI8 v = (0x80, true) := if_pos h

theorem satI8_of_gt {v : ℤ} (h : 127 < v) : satI8 v = (0x7F, true) := by rw [satI8, if_neg (by omega), if_pos h]

/-- Conversion to INT8 saturates the nearest integer: the magnitude that the model puts in place of a large one
saturates at the same end. -/
theorem encodeI8_eq_satI8 (d : Dy) : encodeI8 d = satI8 d.nearest := by
  by_cases hbig : d.m ≠ 0 ∧ 16 < dyBinade d
  · have hround := lt_roundUnits_of_lt_dyBinade hbig.1 hbig.2
    have hmodel : encodeI8 d = satI8 (if d.neg then -1000 else 1000) := by rw [encodeI8, if_pos hbig]; rfl
    rw [hmodel, Dy.nearest]
    split
    · rw [satI8_of_lt (by decide), satI8_of_lt (by omega)]
    · rw [satI8_of_gt (by decide), satI8_of_gt (by omega)]
  · rw [encodeI8, if_neg hbig]
    rfl

theorem encode_fINT8 (anchor : Int) (d : Dy) :
    encode fINT8 anchor (.fin d) = ⟨(encodeI8 d).1, (encodeI8 d).2, false⟩ := rfl

/-- Settles O12: the integer is the rounded magnitude with the value's sign. -/
theorem int8Conversion : Obligations.Int8Conversion := by
  unfold Obligations.Int8Conversion
  intro anchor d
  refine ⟨d.nearest, ?_, fun htie => ?_, ?_, fun hzero => ?_⟩
  · show |d.toRat - d.nearest| ≤ 1 / 2
    rw [Dy.abs_toRat_sub_nearest]
    exact abs_sub_round d.mag
  · change |d.toRat - d.nearest| = 1 / 2 at htie
    show |d.toRat| < |(d.nearest : ℚ)|
    rw [Dy.abs_toRat_sub_nearest] at htie
    rw [Dy.abs_toRat, Dy.abs_nearest]
    exact (lt_round_of_abs_sub_eq_half htie).trans_le (le_abs_self _)
  · rw [encode_fINT8, encodeI8_eq_satI8, satI8_eq_clamp]
  · rw [encode_fINT8, encodeI8_eq_satI8, satI8_eq_clamp, hzero]
    rfl

/-! ### What a floating-point encoding denotes (R145) -/

/-- The value of a sign, an exponent field and a fraction field of `fb` bits (R145). -/
def fieldsVal (sgn e fr fb : Nat) (bias : Int) : ℚ :=
  (-1) ^ sgn * (if e = 0 then (fr : ℚ) / 2 ^ fb * (2 : ℚ) ^ (1 - bias)
    else (1 + (fr : ℚ) / 2 ^ fb) * (2 : ℚ) ^ ((e : Int) - bias))

/-- A dyadic that carries the sign of an encoding's fields and their value. -/
def Denotes (sgn e fr fb : Nat) (bias : Int) (d : Dy) : Prop :=
  d.neg = decide (sgn = 1) ∧ d.toRat = fieldsVal sgn e fr fb bias

/-- The exponent of the smallest normal is that of exponent field 1, in every format of R144. -/
theorem fmtGrid_emin (f : Nat) (anchor : Int) : (fmtGrid f anchor).emin = 1 - fmtBias f anchor := by
  unfold fmtGrid fmtBias
  split <;> dsimp only <;> ring

theorem fmtBits_pos (f : Nat) : 0 < fmtBits f := by
  unfold fmtBits
  split <;> decide

/-- A code of the format's width has one bit above its exponent field. -/
theorem sign_lt_two {f c : Nat} (hc : c < 2 ^ fmtBits f) : c / 2 ^ (fmtBits f - 1) < 2 := by
  rw [Nat.div_lt_iff_lt_mul (by positivity), ← pow_succ', Nat.sub_add_cancel (fmtBits_pos f)]
  exact hc

theorem neg_one_pow_of_lt_two {sgn : Nat} (h : sgn < 2) :
    (-1 : ℚ) ^ sgn = if decide (sgn = 1) then -1 else 1 := by
  interval_cases sgn <;> simp

/-- A sign bit that is read modulo 2, as the model reads it, and as it is in a code of the format's width. -/
theorem mod_two_beq_one {sgn : Nat} (h : sgn < 2) : (sgn % 2 == 1) = decide (sgn = 1) := by
  rw [Nat.mod_eq_of_lt h]
  rfl

/-- The fraction bits of a format (R144). -/
abbrev fracBits (f : Nat) (anchor : Int) : Nat := (fmtGrid f anchor).p - 1

/-- The exponent field of a code (R145). -/
def expField (f : Nat) (anchor : Int) (c : Nat) : Nat :=
  c / 2 ^ fracBits f anchor % 2 ^ (fmtBits f - 1 - fracBits f anchor)

/-- The fraction field of a code (R145). -/
def fracField (f : Nat) (anchor : Int) (c : Nat) : Nat := c % 2 ^ fracBits f anchor

theorem decodeFloat_of_expField_eq_zero {f : Nat} {anchor : Int} {c : Nat} (h : expField f anchor c = 0) :
    decodeFloat f anchor c =
      ⟨c / 2 ^ (fmtBits f - 1) % 2 == 1, fracField f anchor c, (fmtGrid f anchor).emin - fracBits f anchor⟩ :=
  if_pos h

theorem decodeFloat_of_expField_ne_zero {f : Nat} {anchor : Int} {c : Nat} (h : expField f anchor c ≠ 0) :
    decodeFloat f anchor c =
      ⟨c / 2 ^ (fmtBits f - 1) % 2 == 1, 2 ^ fracBits f anchor + fracField f anchor c,
        expField f anchor c - fmtBias f anchor - fracBits f anchor⟩ :=
  if_neg h

/-- A code of the format's width denotes by its fields, the sign in the highest bit (R145). -/
theorem decodeFloat_denotes {f : Nat} (anchor : Int) {c : Nat} (hc : c < 2 ^ fmtBits f) :
    Denotes (c / 2 ^ (fmtBits f - 1)) (expField f anchor c) (fracField f anchor c) (fracBits f anchor)
      (fmtBias f anchor) (decodeFloat f anchor c) := by
  have hsgn := sign_lt_two hc
  have hneg := mod_two_beq_one hsgn
  rw [Denotes, fieldsVal, neg_one_pow_of_lt_two hsgn, Dy.toRat]
  by_cases he : expField f anchor c = 0
  · rw [decodeFloat_of_expField_eq_zero he, hneg, if_pos he, fmtGrid_emin]
    refine ⟨rfl, ?_⟩
    rw [zpow_sub₀ two_ne_zero, zpow_natCast]
    ring
  · rw [decodeFloat_of_expField_ne_zero he, hneg, if_neg he]
    refine ⟨rfl, ?_⟩
    rw [zpow_sub₀ two_ne_zero _ ((fracBits f anchor : ℕ) : ℤ), zpow_natCast]
    push_cast
    field_simp

/-! ### The largest finite value (R144) -/

/-- The largest finite value of a grid. -/
def Grid.largest (gr : Grid) : ℚ := gr.maxSig * (2 : ℚ) ^ (gr.emax - (gr.p - 1))

/-- In the top binade the significand bounds a value; below it even a full significand is no more than half. -/
theorem toRat_le_largest {gr : Grid} {d : Dy} (hfull : 2 ^ gr.p ≤ 2 * gr.maxSig) (hsig : d.m < 2 ^ gr.p)
    (hexp : d.q ≤ gr.emax - (gr.p - 1)) (htop : d.q = gr.emax - (gr.p - 1) → d.m ≤ gr.maxSig) :
    d.toRat ≤ gr.largest := by
  refine d.toRat_le_mag.trans ?_
  unfold Dy.mag Grid.largest
  rcases hexp.eq_or_lt with heq | hlt
  · have hm : (d.m : ℚ) ≤ gr.maxSig := by exact_mod_cast htop heq
    rw [heq]
    gcongr
  · have hm : (d.m : ℚ) ≤ 2 * gr.maxSig := by exact_mod_cast hsig.le.trans hfull
    calc (d.m : ℚ) * 2 ^ d.q ≤ 2 * gr.maxSig * 2 ^ (gr.emax - (gr.p - 1) - 1) := by
          gcongr
          · norm_num
          · omega
      _ = gr.maxSig * 2 ^ (gr.emax - (gr.p - 1)) := by rw [zpow_sub_one₀ two_ne_zero]; ring

/-- A code whose exponent field reaches no binade above the top, and there no significand above the largest, denotes
no more than the largest finite value. -/
theorem decodeFloat_le_largest {f : Nat} {anchor : Int} {c : Nat} (hp : 0 < (fmtGrid f anchor).p)
    (hfull : 2 ^ (fmtGrid f anchor).p ≤ 2 * (fmtGrid f anchor).maxSig)
    (hemin : (fmtGrid f anchor).emin < (fmtGrid f anchor).emax)
    (hexp : expField f anchor c - fmtBias f anchor ≤ (fmtGrid f anchor).emax)
    (htop : expField f anchor c - fmtBias f anchor = (fmtGrid f anchor).emax →
      2 ^ fracBits f anchor + fracField f anchor c ≤ (fmtGrid f anchor).maxSig) :
    (decodeFloat f anchor c).toRat ≤ (fmtGrid f anchor).largest := by
  have hbits : (fracBits f anchor : ℤ) = (fmtGrid f anchor).p - 1 := Nat.cast_pred hp
  have hfrac : fracField f anchor c < 2 ^ fracBits f anchor := Nat.mod_lt _ (by positivity)
  have htwice : 2 ^ (fmtGrid f anchor).p = 2 ^ fracBits f anchor + 2 ^ fracBits f anchor := by
    rw [← two_mul, ← pow_succ', Nat.sub_add_cancel hp]
  by_cases he : expField f anchor c = 0
  · rw [decodeFloat_of_expField_eq_zero he]
    refine toRat_le_largest hfull ?_ ?_ fun hq => ?_
    all_goals dsimp only at *; omega
  · rw [decodeFloat_of_expField_ne_zero he]
    refine toRat_le_largest hfull ?_ ?_ fun hq => htop ?_
    all_goals dsimp only at *; omega

/-! ### FP4 (R146) -/

theorem fp4_denotes (anchor : Int) {c : Nat} (hc : c < 16) :
    Denotes (c / 8) (c / 2 % 4) (c % 2) 1 1 (decodeFloat fFP4 anchor c) :=
  decodeFloat_denotes (f := fFP4) anchor hc

theorem fp4_neg (anchor : Int) {c : Nat} (hc : c < 16) : (decodeFloat fFP4 anchor c).neg = decide (8 ≤ c) := by
  rw [(fp4_denotes anchor hc).1, decide_eq_decide]
  omega

/-- The values of the sixteen codes are the row of R146's table, by sign. -/
theorem fp4_table (anchor : Int) {c : Nat} (hc : c < 16) :
    (decodeFloat fFP4 anchor c).toRat =
      (if c < 8 then 1 else -1) * ([0, 1 / 2, 1, 3 / 2, 2, 3, 4, 6] : List ℚ).getD (c % 8) 0 := by
  rw [(fp4_denotes anchor hc).2]
  interval_cases c <;> norm_num [fieldsVal]

/-! ### E4M3 (R147) -/

theorem decode_fE4M3 (anchor : Int) {c : Nat} (hc : c < 256) :
    decode fE4M3 anchor c = if c = 0x7F ∨ c = 0xFF then .nan else .fin (decodeFloat fE4M3 0 c) :=
  if_congr (show c % 128 = 127 ↔ c = 0x7F ∨ c = 0xFF by omega) rfl rfl

theorem e4m3_denotes {c : Nat} (hc : c < 256) :
    Denotes (c / 128) (c / 8 % 16) (c % 8) 3 7 (decodeFloat fE4M3 0 c) :=
  decodeFloat_denotes (f := fE4M3) 0 hc

theorem e4m3_le_largest {c : Nat} (hc : c < 256) (hfin : ¬ (c = 0x7F ∨ c = 0xFF)) :
    (decodeFloat fE4M3 0 c).toRat ≤ 448 := by
  have hlargest : (fmtGrid fE4M3 0).largest = 448 := by norm_num [Grid.largest, fmtGrid]
  rw [← hlargest]
  refine decodeFloat_le_largest (by decide) (by decide) (by decide) ?_ ?_
  · show ((c / 8 % 16 : ℕ) : ℤ) - 7 ≤ 8
    omega
  · show ((c / 8 % 16 : ℕ) : ℤ) - 7 = 8 → 2 ^ 3 + c % 8 ≤ 14
    omega

theorem e4m3_toRat_largest : (decodeFloat fE4M3 0 0x7E).toRat = 448 := by
  rw [(e4m3_denotes (by decide)).2]
  norm_num [fieldsVal]

/-! ### E5M2 (R148) -/

theorem decode_fE5M2 (anchor : Int) {c : Nat} (hc : c < 256) :
    decode fE5M2 anchor c = if c / 4 % 32 = 0x1F then (if c % 4 = 0 then .inf (decide (c / 128 = 1)) else .nan)
      else .fin (decodeFloat fE5M2 0 c) := by
  rw [← mod_two_beq_one (sgn := c / 128) (by omega)]
  rfl

theorem e5m2_denotes {c : Nat} (hc : c < 256) :
    Denotes (c / 128) (c / 4 % 32) (c % 4) 2 15 (decodeFloat fE5M2 0 c) :=
  decodeFloat_denotes (f := fE5M2) 0 hc

theorem e5m2_le_largest {c : Nat} (hfin : c / 4 % 32 ≠ 0x1F) : (decodeFloat fE5M2 0 c).toRat ≤ 57344 := by
  have hlargest : (fmtGrid fE5M2 0).largest = 57344 := by norm_num [Grid.largest, fmtGrid]
  rw [← hlargest]
  refine decodeFloat_le_largest (by decide) (by decide) (by decide) ?_ ?_
  · show ((c / 4 % 32 : ℕ) : ℤ) - 15 ≤ 15
    omega
  · show ((c / 4 % 32 : ℕ) : ℤ) - 15 = 15 → 2 ^ 2 + c % 4 ≤ 7
    omega

theorem e5m2_toRat_largest : (decodeFloat fE5M2 0 0x7B).toRat = 57344 := by
  rw [(e5m2_denotes (by decide)).2]
  norm_num [fieldsVal]

/-! ### BF16 (R150) -/

theorem decode_fBF16 (anchor : Int) {c : Nat} (hc : c < 65536) :
    decode fBF16 anchor c =
      if c / 128 % 256 = 0xFF then (if c % 128 = 0 then .inf (decide (c / 32768 = 1)) else .nan)
      else .fin (decodeFloat fBF16 0 c) := by
  rw [← mod_two_beq_one (sgn := c / 32768) (by omega)]
  rfl

theorem bf16_denotes {c : Nat} (hc : c < 65536) :
    Denotes (c / 32768) (c / 128 % 256) (c % 128) 7 127 (decodeFloat fBF16 0 c) :=
  decodeFloat_denotes (f := fBF16) 0 hc

/-- Settles O11: each format's codes denote by their fields, but for the codes that its non-finite values take. -/
theorem floatFormatsDecode : Obligations.FloatFormatsDecode := by
  unfold Obligations.FloatFormatsDecode
  intro anchor
  refine ⟨fun c hc => ?_, fun c hc => ?_, ?_, rfl, fun c hc => ?_, rfl, rfl, ?_, rfl, fun c hc => ?_, rfl, rfl, rfl⟩
  · exact ⟨_, rfl, fp4_denotes anchor hc, fp4_neg anchor hc, fp4_table anchor hc⟩
  · rw [decode_fE4M3 anchor hc]
    split_ifs with hnan
    · rfl
    · exact ⟨_, rfl, e4m3_denotes hc, e4m3_le_largest hc hnan⟩
  · exact ⟨_, rfl, e4m3_toRat_largest⟩
  · rw [decode_fE5M2 anchor hc]
    split_ifs with hexp hfrac
    · rfl
    · rfl
    · exact ⟨_, rfl, e5m2_denotes hc, e5m2_le_largest hexp⟩
  · exact ⟨_, rfl, e5m2_toRat_largest⟩
  · rw [decode_fBF16 anchor hc]
    split_ifs with hexp hfrac
    · rfl
    · rfl
    · exact ⟨_, rfl, bf16_denotes hc⟩

end Sys2Proof.Machine
end

section
/-!
SUPPORT. What a Groom's instruction may do to its registers (R83, R252, R270), as rules for raising an event bit,
halting and going on to the next index; then GSKIP and its decision (R255).
-/
namespace Sys2Proof.Machine

/-! ### 64-bit registers and event bits -/

theorem reg64_lt (s : State) (off : Nat) : reg64 s off < 2 ^ 64 := by
  have hlo := (regGet s off).isLt
  have hhi := (regGet s (off + 4)).isLt
  unfold reg64
  omega

theorem reg64_congr {s t : State} {off : Nat} (hlo : regGet t off = regGet s off)
    (hhi : regGet t (off + 4) = regGet s (off + 4)) : reg64 t off = reg64 s off := by
  rw [reg64, reg64, hlo, hhi]

theorem reg64_reg64Set {off v : Nat} (s : State) (hv : v < 2 ^ 64) : reg64 (reg64Set off v s) off = v := by
  simp only [reg64, reg64Set, regGet_regSet, if_pos, BitVec.toNat_ofNat, show off ≠ off + 4 by omega, if_false]
  omega

theorem regGet_reg64Set_ne {off o : Nat} (v : Nat) (s : State) (hlo : o ≠ off) (hhi : o ≠ off + 4) :
    regGet (reg64Set off v s) o = regGet s o := by
  simp only [reg64Set, regGet_regSet, hlo, hhi, if_false]

/-- Delivery to the health monitor writes no register, so the event bit is all that is written (R387). -/
theorem raise_regs (off b : Nat) (s : State) : (raise off b s).regs = (rfSet off b 1 1 s).regs := by
  unfold raise
  dsimp only
  split <;> rfl

theorem rf_raise {off b : Nat} (s : State) (hb : b < 32) : rf (raise off b s) off b 1 = 1 := by
  rw [rf_congr (raise_regs ..), rf_rfSet _ _ _ _ _ hb, Nat.one_mod_two_pow_eq_one.2 one_pos]

/-! ### A Groom halts (R83, R270) -/

@[simp] theorem countOn_log (off : Nat) (s : State) : (countOn off s).log = s.log := by
  unfold countOn
  split
  · rfl
  · dsimp only
    split_ifs <;> rfl

@[simp] theorem groomOf_record (code : W16) (blk : Blk) (idx : Nat) (cls : Class) (d : Detail) (s : State) (n : Nat) :
    groomOf (record code blk idx cls d s) n = groomOf s n := groomOf_congr (record_grooms ..) n

@[simp] theorem groomOf_raise (off b : Nat) (s : State) (n : Nat) : groomOf (raise off b s) n = groomOf s n :=
  groomOf_congr (raise_grooms ..) n

@[simp] theorem groomOf_regSet (off : Nat) (v : W32) (s : State) (n : Nat) : groomOf (regSet off v s) n = groomOf s n :=
  groomOf_congr (regSet_grooms ..) n

theorem groomPc_lt (s : State) (k : Nat) : groomPc s k < 4096 := bits_lt ..

theorem groomHalt_halted (k : Nat) (code : W16) (pc : Nat) (cls : Class) (s : State) :
    (groomOf (groomHalt k code pc cls s) k).halted = true ∧ (groomOf (groomHalt k code pc cls s) k).gop = none := by
  simp [groomHalt, groomOf_groomMod]

theorem regGet_groomHalt_fault (k : Nat) (code : W16) (pc : Nat) (cls : Class) (s : State) :
    regGet (groomHalt k code pc cls s) (oGroom k + 0x020) = BitVec.ofNat 32 (code.toNat + pc % 4096 * 2 ^ 16) := by
  have hhealth : oGroom k + 0x020 ≠ oHealthEv := by unfold oGroom oHbm oHealthEv; omega
  have hevent : oGroom k + 0x020 ≠ oGroom k + 0x060 := by omega
  unfold groomHalt
  dsimp only
  rw [regGet_record_ne _ _ _ _ _ _ _ hhealth, regGet_raise_ne _ _ _ _ hevent, regGet_regSet, if_pos rfl]

theorem rf_groomHalt_event (k : Nat) (code : W16) (pc : Nat) (cls : Class) (s : State) :
    rf (groomHalt k code pc cls s) (oGroom k + 0x060) 0 1 = 1 := by
  have hhealth : oGroom k + 0x060 ≠ oHealthEv := by unfold oGroom oHbm oHealthEv; omega
  unfold groomHalt rf
  dsimp only
  rw [regGet_record_ne _ _ _ _ _ _ _ hhealth]
  exact rf_raise _ (by decide)

theorem groomHalt_logged (k : Nat) (code : W16) (pc : Nat) (cls : Class) (s : State) :
    Logged s (groomHalt k code pc cls s) code .groom k cls := by
  unfold groomHalt
  dsimp only
  refine Logged.before ?_ (record_logged ..)
  rw [logEntries_raise]
  exact logEntries_congr (by rw [regSet_log, groomMod_log, countOn_log])

theorem groomHalt_at_pc (k : Nat) (code : W16) (cls : Class) (s : State) :
    GroomHalted s (groomHalt k code (groomPc s k) cls s) k code cls := by
  obtain ⟨hhalted, hgop⟩ := groomHalt_halted k code (groomPc s k) cls s
  refine ⟨hhalted, hgop, ?_, rf_groomHalt_event .., groomHalt_logged ..⟩
  rw [regGet_groomHalt_fault, Nat.mod_eq_of_lt (groomPc_lt s k)]

/-! ### A Groom's instruction (R252) -/

theorem groomSet_self (k : Nat) (g : Groom) (s : State) : groomOf (groomSet k g s) k = g := by
  rw [groomOf_groomSet, if_pos rfl]

theorem groomSet_groomsKeep (k : Nat) (g : Groom) (s : State) : GroomsKeep k s (groomSet k g s) := fun m hm => by
  rw [groomOf_groomSet, if_neg hm]

theorem groomSet_keeps (k : Nat) (g : Groom) (s : State) : Keeps [.grooms] s (groomSet k g s) :=
  keeps_of_hide (groomSet_hide (by simp) k g s)

/-- A Groom that stands at its instruction waits for no coefficients and runs the instruction. -/
theorem groomStep_at {s : State} {k op : Nat} {b : NI} (h : GroomAt s k op b) (body : NI → State → State) :
    groomStep k (isOp op) body s = body b s := by
  obtain ⟨hready, hop, hstatic⟩ := h
  have hloaded : (groomOf s k).loading = false := by
    simp only [groomReady, Bool.and_eq_true, Bool.not_eq_true'] at hready
    exact hready.2
  simp [groomStep, hloaded, hready, hop, hstatic, isOp]

/-- What an instruction has changed stands when the Groom goes on to the next index. -/
theorem groomNext_gives {s u : State} {k : Nat} {g : Groom} {others : List Nat} (hg : groomOf u k = g)
    (hgrooms : GroomsKeep k s u) (hregs : RegsKeep others s u) (hpc : oGroom k + 0x00C ∉ others)
    (hkeeps : Keeps [.grooms, .regs, .log] s u) : GroomGives s (groomNext k u) k g (groomPc s k + 1) others := by
  have hword : regGet u (oGroom k + 0x00C) = regGet s (oGroom k + 0x00C) := hregs _ hpc
  have hnext : groomPc u k = groomPc s k := by unfold groomPc rf; rw [hword]
  unfold groomNext groomPcSet
  refine ⟨hg, hgrooms, ⟨?_, fun i hi hout => ?_, fun o ho => ?_⟩, ?_⟩
  · rw [rf_rfSet _ _ _ _ _ (by decide), hnext]
    exact Nat.mod_mod ..
  · rw [rf_rfSet_field _ _ _ _ _ _ _ (by decide) (by omega)]
    unfold rf
    rw [hword]
  · obtain ⟨hne, hmem⟩ := not_or.1 (mt List.mem_cons.2 ho)
    rw [regGet_rfSet_ne _ _ _ _ _ _ hne, hregs o hmem]
  · exact hkeeps.trans ((rfSet_keeps _ _ _ _ _).mono (by simp))

theorem regGet_groomNext_ne {k o : Nat} (s : State) (h : o ≠ oGroom k + 0x00C) :
    regGet (groomNext k s) o = regGet s o := regGet_rfSet_ne _ _ _ _ _ _ h

/-! ### The check of a descriptor (R81) -/

theorem descCheck_mismatch {d : Dsc} (first n : Nat) (hvalid : dVALID d ≠ 0) :
    descCheck d true first n = some cDESC_MISMATCH := by
  simp [descCheck, hvalid]

theorem descCheck_without_blocks {d : Dsc} (hvalid : dVALID d ≠ 0) (hbad : descBad d = false) :
    descCheck d false 0 0 = none := by
  simp [descCheck, hvalid, hbad]

/-! ### A skip is noted (R270) -/

theorem groomSection_lt (s : State) (k : Nat) : groomSection s k < 2 ^ 64 := reg64_lt ..

/-- The registers that a noted skip writes: GROOM_SKIPS, LAST_SKIP and EVENT (R270). -/
abbrev skipRegs (k : Nat) : List Nat := [oGroom k + 0x050, oGroom k + 0x054, oGroom k + 0x058, oGroom k + 0x060]

theorem regGet_skipNote_ne {k o : Nat} (s : State) (h : o ∉ skipRegs k) :
    regGet (skipNote k s) o = regGet s o := by
  simp only [skipRegs, List.mem_cons, List.not_mem_nil, or_false, not_or] at h
  obtain ⟨hskips, hlo, hhi, hevent⟩ := h
  unfold skipNote
  rw [regGet_reg64Set_ne _ _ hlo hhi, regAdd, regGet_regSet, if_neg hskips, regGet_raise_ne _ _ _ _ hevent]

theorem skipNote_skips (k : Nat) (s : State) :
    regGet (skipNote k s) (oGroom k + 0x050) = regGet s (oGroom k + 0x050) + 1 := by
  unfold skipNote
  rw [regGet_reg64Set_ne _ _ (by omega) (by omega), regAdd, regGet_regSet, if_pos rfl,
    regGet_raise_ne _ _ _ _ (by omega)]
  rfl

/-- The section noted is the one in force: what is noted before it leaves the section count. -/
theorem skipNote_section (k : Nat) (s : State) : reg64 (skipNote k s) (oGroom k + 0x054) = groomSection s k := by
  unfold skipNote
  rw [reg64_reg64Set _ (groomSection_lt ..)]
  have hkept (o : Nat) (hskips : o ≠ oGroom k + 0x050) (hevent : o ≠ oGroom k + 0x060) :
      regGet (regAdd (oGroom k + 0x050) 1 (raise (oGroom k + 0x060) 1 s)) o = regGet s o := by
    rw [regAdd, regGet_regSet, if_neg hskips, regGet_raise_ne _ _ _ _ hevent]
  exact reg64_congr (hkept _ (by omega) (by omega)) (hkept _ (by omega) (by omega))

theorem skipNote_event (k : Nat) (s : State) : rf (skipNote k s) (oGroom k + 0x060) 1 1 = 1 := by
  unfold skipNote rf
  rw [regGet_reg64Set_ne _ _ (by omega) (by omega), regAdd, regGet_regSet, if_neg (by omega)]
  exact rf_raise _ (by decide)

@[simp] theorem skipNote_grooms (k : Nat) (s : State) : (skipNote k s).grooms = s.grooms := by
  simp only [skipNote, reg64Set_grooms, regAdd_grooms, raise_grooms]

theorem skipNote_keeps (k : Nat) (s : State) : Keeps [.regs, .log] s (skipNote k s) :=
  keeps_of_hide (skipNote_hide (by simp) (by simp) k s)

/-! ### GSKIP (R255) -/

/-- The descriptor that a GSKIP names. -/
abbrev gskipDesc (g : Groom) (di : BitVec 10) : Dsc := tabGet descReset g.desc di.toNat

/-- A handle names an arrival count of a Groom (R116, R255). -/
abbrev NamesArrival (h : BitVec 16) : Prop := 1 ≤ handleHolder h ∧ handleHolder h ≤ 8 ∧ handleIndex h < 128

/-- A Groom whose GSKIP of descriptor `di` has decided: both flags are 0 and the section has its decision (R255). -/
def gskipGroom (g : Groom) (di : BitVec 10) : Groom :=
  let d := gskipDesc g di
  let i := handleIndex (dCCOUNT d)
  let v := tabGet gcntReset g.counts i
  { g with
    desc := tabSet descReset g.desc di.toNat (dSet d 233 1 0)
    counts := tabSet gcntReset g.counts i { v with nf := false }
    skip := dNF d || v.nf
    skipDone := true }

/-- The state with a Groom that has decided, and its skip noted if it skips. -/
def gskipState (k : Nat) (g : Groom) (s : State) : State :=
  if g.skip then skipNote k (groomSet k g s) else groomSet k g s

theorem exec_gskip (k : Fin 8) (s : State) : exec (.gskip k) s = .next (groomGskip k.val s) := rfl

section
variable {s : State} {k : Nat} {di : BitVec 10} (hat : GroomAt s k 0xC1 (.gskip di))
  (hfirst : (groomOf s k).skipDone = false) (hvalid : dVALID (gskipDesc (groomOf s k) di) ≠ 0)
include hat hfirst hvalid

theorem groomGskip_mismatch (hno : ¬ NamesArrival (dCCOUNT (gskipDesc (groomOf s k) di))) :
    groomGskip k s = groomFault k cDESC_MISMATCH s := by
  rw [groomGskip, groomStep_at hat]
  dsimp only
  rw [if_neg (by simp [hfirst]), decide_eq_true hno, descCheck_mismatch 0 0 hvalid]

theorem groomGskip_decided (harrival : NamesArrival (dCCOUNT (gskipDesc (groomOf s k) di)))
    (hbad : descBad (gskipDesc (groomOf s k) di) = false) :
    groomGskip k s = groomNext k (gskipState k (gskipGroom (groomOf s k) di) s) := by
  rw [groomGskip, groomStep_at hat]
  dsimp only
  rw [if_neg (by simp [hfirst]), decide_eq_false (not_not.2 harrival), descCheck_without_blocks hvalid hbad]
  rfl

end

/-- A Groom that does not skip goes on with the new Groom alone. -/
theorem groomNext_groomSet_gives (k : Nat) (g : Groom) (s : State) :
    GroomGives s (groomNext k (groomSet k g s)) k g (groomPc s k + 1) [] :=
  groomNext_gives (groomSet_self ..) (groomSet_groomsKeep k g s) (fun _ _ => rfl) List.not_mem_nil
    ((groomSet_keeps _ _ _).mono (by simp))

/-- A Groom that skips notes it in its registers as it goes on. -/
theorem groomNext_skipNote_gives (k : Nat) (g : Groom) (s : State) :
    GroomGives s (groomNext k (skipNote k (groomSet k g s))) k g (groomPc s k + 1) (skipRegs k) := by
  have hkept (n : Nat) : groomOf (skipNote k (groomSet k g s)) n = groomOf (groomSet k g s) n :=
    groomOf_congr (skipNote_grooms ..) n
  refine groomNext_gives ?_ (fun m hm => ?_) (fun o ho => ?_) (by simp) ?_
  · rw [hkept, groomSet_self]
  · rw [hkept, groomSet_groomsKeep k g s m hm]
  · exact regGet_skipNote_ne _ ho
  · exact ((groomSet_keeps _ _ _).mono (by simp)).trans ((skipNote_keeps _ _).mono (by simp))

/-- The registers of a noted skip are none of those that going on writes. -/
theorem groomNext_skipNote_counts (k : Nat) (s : State) :
    let t := groomNext k (skipNote k s)
    regGet t (oGroom k + 0x050) = regGet s (oGroom k + 0x050) + 1 ∧
      reg64 t (oGroom k + 0x054) = groomSection s k ∧ rf t (oGroom k + 0x060) 1 1 = 1 := by
  refine ⟨?_, ?_, ?_⟩
  · rw [regGet_groomNext_ne _ (by omega), skipNote_skips]
  · rw [reg64_congr (regGet_groomNext_ne _ (by omega)) (regGet_groomNext_ne _ (by omega)), skipNote_section]
  · unfold rf
    rw [regGet_groomNext_ne _ (by omega)]
    exact skipNote_event k s

/-- A decision gives the Groom that decided, and a skip alone is noted beside it. -/
theorem groomNext_gskipState (k : Nat) (g : Groom) (s : State) :
    let t := groomNext k (gskipState k g s)
    GroomGives s t k g (groomPc s k + 1) (if g.skip then skipRegs k else []) ∧
      (g.skip = true → regGet t (oGroom k + 0x050) = regGet s (oGroom k + 0x050) + 1 ∧
        reg64 t (oGroom k + 0x054) = groomSection s k ∧ rf t (oGroom k + 0x060) 1 1 = 1) := by
  unfold gskipState
  by_cases hskip : g.skip = true
  · simp only [hskip, if_true]
    exact ⟨groomNext_skipNote_gives .., fun _ => groomNext_skipNote_counts ..⟩
  · simp only [hskip]
    exact ⟨groomNext_groomSet_gives .., nofun⟩

/-- Settles O60: a descriptor that names no arrival count fails its check, which halts the Groom; one that names an
arrival count decides, and the two decisions differ in what is noted. -/
theorem gskipDecides : Obligations.GskipDecides := by
  unfold Obligations.GskipDecides
  intro k di s g pc o d h v arrival hat hfirst hvalid
  refine ⟨fun hno => ⟨groomFault k cDESC_MISMATCH s, ?_, groomHalt_at_pc ..⟩,
    fun harrival hbad => ⟨groomNext k (gskipState k (gskipGroom g di) s), ?_, groomNext_gskipState ..⟩⟩
  · rw [exec_gskip, groomGskip_mismatch hat hfirst hvalid hno]
  · rw [exec_gskip, groomGskip_decided hat hfirst hvalid harrival hbad]

end Sys2Proof.Machine
end
